-- ==== Sys2Proof/Word.lean ====
section
/-! DEFINITION. Word types of the Primesha SX and their plainest arithmetic (00_scope R7, R8, R10). -/

namespace Sys2Proof

/-- A 32-bit word: token payload, configuration word, register word (R7). -/
abbrev Word := BitVec 32

/-- A 64-bit word: sequencer register, virtual address, completion object (R108, R125). -/
abbrev DWord := BitVec 64

/-- A byte of memory (R8). -/
abbrev Byte := BitVec 8

/-- The 64-bit tag of a token (R40). -/
abbrev Tag := BitVec 64

/-- The all-ones 64-bit word. -/
def DWord.allOnes : DWord := BitVec.allOnes 64

/-- A word of ones where the truth value holds and of zeros where it does not (R166, R172). -/
def Word.ofTruth (b : Bool) : Word := if b then BitVec.allOnes 32 else 0#32

end Sys2Proof
end

