-- ==== Sys2Proof/Machine/Bits.lean ====
section
/-! DEFINITION. Bit fields, sign extension, lanes, byte order and sparse tables: the helpers every other file uses. -/

namespace Sys2Proof.Machine

open Sys2Proof

/-- `x[hi:lo]` as an unsigned integer (R7, notation of 00_scope). -/
def bits (x hi lo : Nat) : Nat := (x >>> lo) % 2 ^ (hi + 1 - lo)

/-- `x[n]`. -/
def bit (x n : Nat) : Bool := (x >>> n) % 2 == 1

/-- `SignExt(x, n)` of the pseudocode. -/
def signExt (x n : Nat) : Int :=
  let m := x % 2 ^ n
  if m < 2 ^ (n - 1) then (m : Int) else (m : Int) - (2 ^ n : Nat)

/-- The residue of an integer modulo `2 ^ n`, as a natural number. -/
def wrap (v : Int) (n : Nat) : Nat := (v % ((2 ^ n : Nat) : Int)).toNat

/-- `Sat(v, lo, hi)`. -/
def sat (v lo hi : Int) : Int := if v < lo then lo else if hi < v then hi else v

/-- Replace bits `hi` down to `lo` of `x` by the low bits of `v`. -/
def setBits (x hi lo v : Nat) : Nat :=
  let w := hi + 1 - lo
  x - (bits x hi lo) * 2 ^ lo + (v % 2 ^ w) * 2 ^ lo

/-- A truth value as 0 or 1. -/
def b2n (b : Bool) : Nat := if b then 1 else 0

/-- `n` words counted from `base`. -/
def upto (n : Nat) : List Nat := List.range n

/-- The little-endian bytes of a number (R8). -/
def leBytes (n : Nat) : Nat → List Byte
  | 0 => []
  | k + 1 => BitVec.ofNat 8 n :: leBytes (n / 256) k

/-- The number whose little-endian bytes are given (R8). -/
def ofLeBytes : List Byte → Nat
  | [] => 0
  | b :: bs => b.toNat + 256 * ofLeBytes bs

/-- Split a list in pieces of `k` elements; `fuel` bounds the number of pieces. -/
def chunks {α : Type} (k : Nat) : Nat → List α → List (List α)
  | 0, _ => []
  | fuel + 1, xs => if xs.isEmpty then [] else xs.take k :: chunks k fuel (xs.drop k)

/-- The little-endian 32-bit words of a list of bytes. -/
def wordsOfBytes (bs : List Byte) : List Word :=
  (chunks 4 bs.length bs).map fun c => BitVec.ofNat 32 (ofLeBytes c)

/-- The bytes of a list of 32-bit words, little-endian (R8). -/
def bytesOfWords (ws : List Word) : List Byte :=
  ws.flatMap fun w => leBytes w.toNat 4

/-- A field that spans consecutive words, the lower-numbered bits in the lower-addressed word (R8). -/
def joinWords : List Word → Nat
  | [] => 0
  | w :: ws => w.toNat + 2 ^ 32 * joinWords ws

/-- The `n` words of a number, lowest first. -/
def splitWords (x : Nat) : Nat → List Word
  | 0 => []
  | k + 1 => BitVec.ofNat 32 x :: splitWords (x / 2 ^ 32) k

/-- The word at an index of a record, zero past its end. -/
def wordAt (ws : List Word) (i : Nat) : Nat := (ws.getD i 0#32).toNat

/-- The 64-bit value in words `i` and `i + 1`. -/
def dwordAt (ws : List Word) (i : Nat) : Nat := wordAt ws i + 2 ^ 32 * wordAt ws (i + 1)

/-! Lanes of a 32-bit operand (R157, R158). -/

/-- The `32 / w` lanes of a word, lane 0 first. -/
def lanes (w : Nat) (x : Nat) : List Nat :=
  (List.range (32 / w)).map fun i => (x >>> (w * i)) % 2 ^ w

/-- A word from its lanes, lane 0 first. -/
def ofLanes (w : Nat) : List Nat → Nat
  | [] => 0
  | l :: ls => l % 2 ^ w + 2 ^ w * ofLanes w ls

/-- Number of leading zeros of an `n`-bit number. -/
def clz (x n : Nat) : Nat := if x == 0 then n else n - 1 - Nat.log2 x

/-- Number of one bits among the low `n`. -/
def popCount (x : Nat) : Nat → Nat
  | 0 => 0
  | k + 1 => x % 2 + popCount (x / 2) k

/-- The largest natural number whose square is at most `x`, found bit by bit from bit `k - 1` down. -/
def isqrtGo (x : Nat) : Nat → Nat → Nat
  | 0, r => r
  | k + 1, r =>
    let r' := r + 2 ^ k
    isqrtGo x k (if r' * r' ≤ x then r' else r)

/-- The integer square root. -/
def isqrt (x : Nat) : Nat := isqrtGo x (Nat.log2 x / 2 + 1) 0

/-! Sparse tables: a list of (key, value) pairs with strictly rising keys. A key that is not listed holds the
default its reader names. -/

/-- A sparse table. -/
abbrev Tab (α : Type) := List (Nat × α)

/-- The value at a key, or the default. -/
def Tab.get {α : Type} (d : α) : Tab α → Nat → α
  | [], _ => d
  | (k, v) :: t, i => if k == i then v else Tab.get d t i

/-- The value at a key if one is listed. -/
def Tab.find? {α : Type} : Tab α → Nat → Option α
  | [], _ => none
  | (k, v) :: t, i => if k == i then some v else Tab.find? t i

/-- Write a key, keeping keys strictly rising. -/
def Tab.set {α : Type} : Tab α → Nat → α → Tab α
  | [], i, x => [(i, x)]
  | (k, v) :: t, i, x =>
    if i < k then (i, x) :: (k, v) :: t
    else if i == k then (i, x) :: t
    else (k, v) :: Tab.set t i x

/-- Remove a key. -/
def Tab.del {α : Type} : Tab α → Nat → Tab α
  | [], _ => []
  | (k, v) :: t, i => if k == i then Tab.del t i else (k, v) :: Tab.del t i

/-- Change the value at a key, starting from the default where none is listed. -/
def Tab.modify {α : Type} (d : α) (t : Tab α) (i : Nat) (f : α → α) : Tab α :=
  Tab.set t i (f (Tab.get d t i))

/-- Keys strictly rising. -/
def Tab.wf {α : Type} : Tab α → Bool
  | [] => true
  | [_] => true
  | (k, _) :: (k', v') :: t => decide (k < k') && Tab.wf ((k', v') :: t)

/-! Sorted sets of natural numbers. -/

/-- Insert into a strictly rising list. -/
def insertSorted (x : Nat) : List Nat → List Nat
  | [] => [x]
  | y :: t => if x < y then x :: y :: t else if x == y then y :: t else y :: insertSorted x t

/-- Remove from a list. -/
def removeSorted (x : Nat) : List Nat → List Nat
  | [] => []
  | y :: t => if x == y then removeSorted x t else y :: removeSorted x t

/-- First element of a list that satisfies a test, with the rest in order. -/
def takeFirst {α : Type} (p : α → Bool) : List α → Option (α × List α)
  | [] => none
  | x :: t =>
    if p x then some (x, t)
    else match takeFirst p t with
      | none => none
      | some (y, r) => some (y, x :: r)

/-- Replace the first element that satisfies a test. -/
def replaceFirst {α : Type} (p : α → Bool) (f : α → α) : List α → List α
  | [] => []
  | x :: t => if p x then f x :: t else x :: replaceFirst p f t

end Sys2Proof.Machine
end

