-- ==== Sys2Proof/Fields.lean ====
section
/-! DEFINITION. The kinds of field that the instructions of the Primesha SX are written with: matching actions, operation types,
targets, tag operations, node command fields, queue command payloads, fabric packet headers (03_encoding, 04, 10, 16, 17). -/

namespace Sys2Proof

/-- Matching action of a token (R38, R44, F0 [4:3]). -/
inductive MA where
  | normal | sticky | purge | queued
  deriving DecidableEq, Repr

/-- Operation type of an element (R80), codes 0 to 8 in order. -/
inductive ElemType where
  | s32 | n32 | s16x2 | n16x2 | s8x4 | n8x4 | f32 | bf16x2 | f16x2
  deriving DecidableEq, Repr

/-- Tag operation of field F5, of CNEXT or of a stream's TAGOP (R41, R84): level offset divided by 4, and width code. -/
inductive TagOp where
  | keep
  | enter (ofs : BitVec 4) (wid : BitVec 2)
  | next (ofs : BitVec 4) (wid : BitVec 2)
  | leave (ofs : BitVec 4) (wid : BitVec 2)
  deriving DecidableEq, Repr

/-- Destination of a target field (R82 KIND, OS and INDEX). -/
inductive TargetDest where
  | none
  | slot (n : BitVec 7) (os : BitVec 2)
  | out (n : BitVec 5)
  | node (n : BitVec 7) (os : BitVec 2)
  deriving DecidableEq, Repr

/-- One of the target fields F1, F2, F3 (R82). -/
structure Target where
  dest : TargetDest
  whenP : BitVec 2
  slv : BitVec 4
  deriving DecidableEq, Repr

/-- The target of kind "none". -/
def Target.nil : Target := { dest := .none, whenP := 0, slv := 0 }

/-- Field F6 in its two forms (R85). -/
inductive F6 where
  | pred (inv : Bool) (psrc : BitVec 3)
  | wave (pred own succ : BitVec 6)
  deriving DecidableEq, Repr

/-- The fields of one element instruction other than its opcode (R79 to R87). `wide` holds WIDE [15:0] of a WIDE-prefixed F4. -/
structure ElemArgs where
  ty : ElemType := .s32
  arity : BitVec 2 := 0
  ma : MA := .normal
  cond : BitVec 3 := 0
  t1 : Target := Target.nil
  t2 : Target := Target.nil
  t3 : Target := Target.nil
  sub : Option (BitVec 2) := none
  imm : BitVec 16 := 0
  wide : Option (BitVec 16) := none
  tagOp : TagOp := .keep
  f6 : F6 := .pred false 0
  task : BitVec 6 := 0
  pofs : BitVec 7 := 0
  deriving DecidableEq, Repr

/-- Lane type of a vector command (R91 VT). -/
inductive VType where
  | f32 | bf16x2 | f16x2 | s32
  deriving DecidableEq, Repr

/-- A vector command of the V form (R91). Operand codes: 0-15 registers, 16-19 ports, 20 the zero vector. -/
structure VArgs where
  vt : VType
  d : BitVec 5
  a : BitVec 5
  b : BitVec 5
  c : BitVec 5
  mod : BitVec 3
  deriving DecidableEq, Repr

/-- Format codes of matrix and converter commands (R90), codes 0 to 9 in order. -/
inductive Fmt where
  | q4 | q8 | s8 | e4m3 | e5m2 | e2m1 | bf16 | fp16 | fp32 | s32
  deriving DecidableEq, Repr

/-- A converter command with group, rounding and tile (R94 `cvq`, `cvdq`). -/
structure CvArgs where
  s : Fmt
  d : Fmt
  rto : Bool
  grp : BitVec 2
  tile : BitVec 8
  deriving DecidableEq, Repr

/-- The common words 0 to 9 of a queue command (R98): CID, wait object and value, signal object and value, IRQ. -/
structure CmdHeader where
  cid : BitVec 16 := 0
  wait : Option (DWord × DWord) := none
  sig : Option (DWord × DWord) := none
  irq : Bool := false
  deriving DecidableEq, Repr

/-- Payload of LAUNCH (R138). -/
structure LaunchCmd where
  chain : DWord
  hbase : DWord
  cmask : BitVec 16
  sdom : BitVec 10
  sdv : Bool
  kpol : Bool
  role : Bool
  partw : BitVec 24
  deriving DecidableEq, Repr

/-- Payload of PARTITION.CFG (R138, R374). -/
structure PartCmd where
  part : BitVec 3
  mask : BitVec 8
  vf : BitVec 4
  isSealed : Bool
  first : BitVec 16
  count : BitVec 16
  root : DWord
  deriving DecidableEq, Repr

/-- Payload of RANK.SET (R138, R287). -/
structure RankCmd where
  job : BitVec 12
  rank : BitVec 12
  package : BitVec 16
  part : BitVec 3
  ports : BitVec 96
  deriving DecidableEq, Repr

/-- Payload of INVAL.RANGE (R138, R386). -/
structure InvalCmd where
  start : DWord
  length : DWord
  asid : BitVec 16
  sizes : BitVec 4
  deriving DecidableEq, Repr

/-- Payload of SEAL.LOAD without its mode (R400). -/
structure SealCmd where
  sdom : BitVec 10
  nchunk : Word
  src : DWord
  dst : DWord
  deriving DecidableEq, Repr

/-- Payload of KERNEL.ADMIT without its mode (R403). -/
structure AdmitCmd where
  aid : BitVec 12
  sdom : BitVec 10
  size : Word
  src : DWord
  dst : DWord
  deriving DecidableEq, Repr

/-- Payload of SESSION.OPEN without its mode (R407). -/
structure SessCmd where
  sdom : BitVec 10
  sid : Word
  msg : DWord
  rsp : DWord
  deriving DecidableEq, Repr

/-- Payload of REPLY.BIND (R411). -/
structure BindCmd where
  sdom : BitVec 10
  b : BitVec 8
  sid : Word
  base : DWord
  size : BitVec 16
  sv : Bool
  q : BitVec 10
  deriving DecidableEq, Repr

/-- Payload of USAGE.SIGN without its kind (R412). -/
structure SignCmd where
  sdv : Bool
  sdom : BitVec 10
  sid : Word
  dst : DWord
  deriving DecidableEq, Repr

/-- Header flit and data of a fabric packet (R295). -/
structure Packet where
  ptype : BitVec 8
  ver : BitVec 4 := 1
  d : Bool := false
  f : Bool := false
  len : BitVec 9 := 0
  job : BitVec 12 := 0
  spart : BitVec 3 := 0
  srank : BitVec 12 := 0
  dpart : BitVec 3 := 0
  drank : BitVec 12 := 0
  gen : BitVec 16 := 0
  cid : BitVec 8 := 0
  reqid : BitVec 16 := 0
  seq : BitVec 13 := 0
  ty : BitVec 4 := 0
  op : BitVec 4 := 0
  wexp : BitVec 8 := 0
  ncon : BitVec 12 := 0
  sdv : Bool := false
  tmo : BitVec 10 := 0
  sdom : BitVec 10 := 0
  va : BitVec 57 := 0
  cnt : BitVec 13 := 0
  flg : BitVec 3 := 0
  val : BitVec 128 := 0
  tag : Tag := 0
  data : List Byte := []
  deriving DecidableEq, Repr

/-- Why an encoding is rejected: each constructor names the check (R70 to R101, R97, R99). -/
inductive Reject where
  | opcode        -- a reserved opcode, command or record code
  | typeCode      -- TYPE outside the set of the row (R79)
  | arity         -- ARITY outside the row (R79)
  | cond          -- COND outside the row (R79, R81, R89)
  | target        -- a malformed target field (R82)
  | whenCode      -- WHEN = 3, or WHEN with no predicate (R82)
  | stickyLevel   -- SLV above 12, or non-zero without STICKY or PURGE (R82)
  | sub           -- a reserved or forbidden substitution (R83)
  | imm           -- an immediate where none has a meaning (R83, R87)
  | tagOp         -- a malformed or forbidden F5 (R84)
  | predicate     -- a malformed or forbidden F6 (R85, R177)
  | wave          -- OWN = 0x3F (R85)
  | field7        -- a reserved bit of F7 (R86)
  | rule          -- a rule of the opcode's own description
  | reserved      -- a reserved bit or value
  | kind          -- a word kind that its place does not take (R72)
  | count         -- a count outside its range
  deriving DecidableEq, Repr

/-- A resource that Umber can map out as a spare (R32, R34, R445). -/
inductive Spare where
  | elem (core x y : Nat)
  | core (n : Nat)
  | slice (n : Nat)
  | channel (stack c : Nat)
  | port (n : Nat)
  deriving DecidableEq, Repr

/-- Where a storage error is found (R444). -/
inductive EccSite where
  | line (pa : Nat)
  | slice (pa core : Nat)
  | accRow (core node row : Nat)
  | scratch (core word : Nat)
  | inputToken (core elem slot : Nat)
  | tier1Token (core elem index : Nat)
  | tier2Token (core index : Nat)
  | elemConfig (core elem : Nat)
  | handlerTable (core node : Nat)
  | seqMemory (cluster : Nat)
  deriving DecidableEq, Repr

/-- Where Riuri puts the handler of a message type (R345): the core, counted over the packages that run the kernel with 64 for each rank
(R423 places messages of two ranks), the frame of a block or the node-port index and task type of a node handler, and the place of its image
in units of 256 bytes. -/
structure RiuriSpot where
  msg : Nat
  core : Nat
  unit : Nat
  task : Nat
  image : Nat
  deriving DecidableEq, Repr

/-- A converter that the messages of a type go through on the core of their handler (R224): its node-port index and task type, the place of
its image, and its command. -/
structure RiuriEdge where
  msg : Nat
  core : Nat
  node : Nat
  task : Nat
  image : Nat
  cmd : Word
  deriving DecidableEq, Repr

/-- A placement of a portable kernel (R345): its handlers, the converters of its edges, and the images of empty blocks by core, frame and
place. -/
structure RiuriPlacement where
  spots : List RiuriSpot := []
  edges : List RiuriEdge := []
  empties : List (Nat × Nat × Nat) := []
  deriving DecidableEq, Repr, Inhabited

/-- What the two ends of a link find in an SPDM key exchange (R417): the certificates pass, and the peer's PEER list holds this package's
MCEL. -/
structure SpdmChecks where
  certOk : Bool := true
  ownListed : Bool := true
  deriving DecidableEq, Repr

end Sys2Proof
end

