-- ==== Sys2Proof/Syntax.lean ====
section
/-! DEFINITION. The instructions of the Primesha SX: one constructor per row of the table of operations and events. A row with an
encoding carries its decoded fields and an event carries what the outside gives it. The place where a step happens (the core, the
element, the port, the launch) is no field of it: it is the agent that `State.agent` names. The steps without fields stand last. -/

namespace Sys2Proof

/-- One step of the part, whole and indivisible. -/
inductive Instr where
  /-- R24 PCIE_LINK_TRAINED. -/
  | pcieLinkTrained (rate width : Nat)
  /-- R28 THERMAL_LIMIT. -/
  | thermalLimit (bins : Nat)
  /-- R445 RESOURCE_MAP_OUT. -/
  | resourceMapOut (r : Spare)
  /-- R444 UNCORRECTABLE_ERROR. -/
  | uncorrectableError (site : EccSite)
  /-- R10 REGISTER_WRITE. -/
  | registerWrite (fn offset : Nat) (value : Word)
  /-- R131 DOORBELL. -/
  | doorbell (fn q : Nat) (value : DWord)
  /-- R138 LAUNCH. -/
  | launch (h : CmdHeader) (p : LaunchCmd)
  /-- R138 CHAIN. -/
  | chain (h : CmdHeader) (block : DWord)
  /-- R138 CAP_READ. -/
  | capRead (h : CmdHeader) (dst : DWord) (len : Word)
  /-- R138 HEALTH_READ. -/
  | healthRead (h : CmdHeader) (dst : DWord)
  /-- R28 MODE_SET. -/
  | modeSet (h : CmdHeader) (mode : BitVec 2)
  /-- R376 PARTITION_CFG. -/
  | partitionCfg (h : CmdHeader) (p : PartCmd)
  /-- R377 PARTITION_TEARDOWN. -/
  | partitionTeardown (h : CmdHeader) (p : PartCmd)
  /-- R287 RANK_SET. -/
  | rankSet (h : CmdHeader) (p : RankCmd)
  /-- R386 INVAL_RANGE. -/
  | invalRange (h : CmdHeader) (p : InvalCmd)
  /-- R442 RING_RESTART. -/
  | ringRestart (h : CmdHeader) (ofs : BitVec 17) (idx : Word)
  /-- R442 RING_RESTART_FAULT_RING. -/
  | ringRestartFaultRing (h : CmdHeader) (idx : Word)
  /-- R439 PREEMPT. -/
  | preempt (h : CmdHeader) (ofs : BitVec 17) (area : DWord)
  /-- R441 RESUME. -/
  | resume (h : CmdHeader) (ofs : BitVec 17) (area : DWord)
  /-- R402 SEAL_LOAD_CREATE. -/
  | sealLoadCreate (h : CmdHeader) (p : SealCmd)
  /-- R402 SEAL_LOAD_IMPORT. -/
  | sealLoadImport (h : CmdHeader) (p : SealCmd)
  /-- R402 SEAL_LOAD_DESTROY. -/
  | sealLoadDestroy (h : CmdHeader) (p : SealCmd)
  /-- R408 SESSION_OPEN. -/
  | sessionOpen (h : CmdHeader) (p : SessCmd)
  /-- R408 SESSION_CLOSE. -/
  | sessionClose (h : CmdHeader) (p : SessCmd)
  /-- R411 REPLY_BIND. -/
  | replyBind (h : CmdHeader) (p : BindCmd)
  /-- R411 REPLY_UNBIND. -/
  | replyUnbind (h : CmdHeader) (b : BitVec 8)
  /-- R413 USAGE_SIGN_REPORT. -/
  | usageSignReport (h : CmdHeader) (p : SignCmd)
  /-- R412 USAGE_SIGN_USAGE. -/
  | usageSignUsage (h : CmdHeader) (p : SignCmd)
  /-- R404 KERNEL_ADMIT_LIBRARY. -/
  | kernelAdmitLibrary (h : CmdHeader) (p : AdmitCmd)
  /-- R404 KERNEL_ADMIT_RAW. -/
  | kernelAdmitRaw (h : CmdHeader) (p : AdmitCmd)
  /-- R404 KERNEL_ADMIT_REVOKE. -/
  | kernelAdmitRevoke (h : CmdHeader) (p : AdmitCmd)
  /-- R73 FIELD. -/
  | field (slot : BitVec 7) (f : BitVec 3) (value : BitVec 20)
  /-- R74 WIDE. -/
  | wide (upper : BitVec 20)
  /-- R75 OPEN. -/
  | frameOpen (frame : BitVec 3) (nin nout : BitVec 6)
  /-- R76 CLOSE. -/
  | frameClose (frame : BitVec 3)
  /-- R75 PLACE. -/
  | framePlace (p : Bool)
  /-- R75 BIN. -/
  | frameBin (input : BitVec 5) (slot : BitVec 7) (os : BitVec 2)
  /-- R75 BOUT_FRAME_INPUT. -/
  | boutFrameInput (out : BitVec 5) (frame : BitVec 3) (input : BitVec 5)
  /-- R75 BOUT_THIS_INPUT. -/
  | boutThisInput (out : BitVec 5) (input : BitVec 5)
  /-- R75 BOUT_NODE_PORT. -/
  | boutNodePort (out : BitVec 5) (node : BitVec 7) (os : BitVec 2)
  /-- R75 CNEXT. -/
  | cnext (kind : BitVec 2) (frame : BitVec 3) (op : TagOp)
  /-- R75 CSET. -/
  | cset (half : Bool) (bitmap : BitVec 16)
  /-- R78 HBIND. -/
  | hbind (node : BitVec 6) (task : BitVec 6) (handler : BitVec 14)
  /-- R78 HFREE. -/
  | hfree (node : BitVec 6) (task : BitVec 6)
  /-- R307 FLIT_RECEIVE. -/
  | flitReceive (port : Nat) (crcOk : Bool) (flit : List Byte)
  /-- R307 LINK_RETRAIN. -/
  | linkRetrain (port : Nat) (ok : Bool)
  /-- R417 SPDM_KEY_EXCHANGE. -/
  | spdmKeyExchange (port : Nat) (peerTdid : DWord) (peerMeas : List Byte) (checks : SpdmChecks)
  /-- R418 DOMAIN_LIST. -/
  | domainList (port : Nat) (entries : List (Nat × Nat × List Byte))
  /-- R167 CONST. -/
  | const (e : ElemArgs)
  /-- R161 ADD. -/
  | add (e : ElemArgs)
  /-- R161 SUB. -/
  | sub (e : ElemArgs)
  /-- R162 ADDSAT. -/
  | addsat (e : ElemArgs)
  /-- R162 SUBSAT. -/
  | subsat (e : ElemArgs)
  /-- R161 MUL. -/
  | mul (e : ElemArgs)
  /-- R161 MULH. -/
  | mulh (e : ElemArgs)
  /-- R161 MAD. -/
  | mad (e : ElemArgs)
  /-- R163 DIV. -/
  | div (e : ElemArgs)
  /-- R163 REM. -/
  | rem (e : ElemArgs)
  /-- R161 AND. -/
  | and (e : ElemArgs)
  /-- R161 OR. -/
  | or (e : ElemArgs)
  /-- R161 XOR. -/
  | xor (e : ElemArgs)
  /-- R161 ANDN. -/
  | andn (e : ElemArgs)
  /-- R161 SHL. -/
  | shl (e : ElemArgs)
  /-- R161 SHR. -/
  | shr (e : ElemArgs)
  /-- R161 SRA. -/
  | sra (e : ElemArgs)
  /-- R161 ROT. -/
  | rot (e : ElemArgs)
  /-- R161 MIN. -/
  | min (e : ElemArgs)
  /-- R161 MAX. -/
  | max (e : ElemArgs)
  /-- R164 ABS. -/
  | abs (e : ElemArgs)
  /-- R164 CLZ. -/
  | clz (e : ElemArgs)
  /-- R164 POPC. -/
  | popc (e : ElemArgs)
  /-- R165 BFX. -/
  | bfx (e : ElemArgs)
  /-- R165 BFI. -/
  | bfi (e : ElemArgs)
  /-- R166 CMP. -/
  | cmp (e : ElemArgs)
  /-- R167 LEA. -/
  | lea (e : ElemArgs)
  /-- R164 EXT. -/
  | ext (e : ElemArgs)
  /-- R167 PERM. -/
  | perm (e : ElemArgs)
  /-- R168 SACC. -/
  | sacc (e : ElemArgs)
  /-- R168 SSWAP. -/
  | sswap (e : ElemArgs)
  /-- R168 SCOUNT. -/
  | scount (e : ElemArgs)
  /-- R169 FADD. -/
  | fadd (e : ElemArgs)
  /-- R169 FSUB. -/
  | fsub (e : ElemArgs)
  /-- R169 FMUL. -/
  | fmul (e : ElemArgs)
  /-- R169 FMA. -/
  | fma (e : ElemArgs)
  /-- R170 FMIN. -/
  | fmin (e : ElemArgs)
  /-- R170 FMAX. -/
  | fmax (e : ElemArgs)
  /-- R171 FSGN. -/
  | fsgn (e : ElemArgs)
  /-- R172 FCMP. -/
  | fcmp (e : ElemArgs)
  /-- R173 FRCP. -/
  | frcp (e : ElemArgs)
  /-- R173 FRSQ. -/
  | frsq (e : ElemArgs)
  /-- R173 FEX2. -/
  | fex2 (e : ElemArgs)
  /-- R173 FLG2. -/
  | flg2 (e : ElemArgs)
  /-- R174 FCVT. -/
  | fcvt (e : ElemArgs)
  /-- R175 FRND. -/
  | frnd (e : ElemArgs)
  /-- R176 FCLASS. -/
  | fclass (e : ElemArgs)
  /-- R178 STEER. -/
  | steer (e : ElemArgs)
  /-- R179 SELECT. -/
  | select (e : ElemArgs)
  /-- R180 GATE. -/
  | gate (e : ElemArgs)
  /-- R181 MERGE. -/
  | merge (e : ElemArgs)
  /-- R182 COPY. -/
  | copy (e : ElemArgs)
  /-- R182 SINK. -/
  | sink (e : ElemArgs)
  /-- R182 PURGE. -/
  | purge (e : ElemArgs)
  /-- R183 WINDOW. -/
  | window (e : ElemArgs)
  /-- R184 ENTER. -/
  | enter (e : ElemArgs)
  /-- R184 NEXT. -/
  | next (e : ElemArgs)
  /-- R184 LEAVE. -/
  | leave (e : ElemArgs)
  /-- R185 TAGGET. -/
  | tagget (e : ElemArgs)
  /-- R186 TAGSET. -/
  | tagset (e : ElemArgs)
  /-- R187 CALL. -/
  | call (e : ElemArgs)
  /-- R188 RET. -/
  | ret (e : ElemArgs)
  /-- R261 LD. -/
  | ld (e : ElemArgs)
  /-- R262 ST. -/
  | st (e : ElemArgs)
  /-- R261 LDX. -/
  | ldx (e : ElemArgs)
  /-- R262 STX. -/
  | stx (e : ElemArgs)
  /-- R263 LDS. -/
  | lds (e : ElemArgs)
  /-- R265 IPUT. -/
  | iput (e : ElemArgs)
  /-- R265 IGET. -/
  | iget (e : ElemArgs)
  /-- R267 ATOM. -/
  | atom (e : ElemArgs)
  /-- R267 RED. -/
  | red (e : ElemArgs)
  /-- R270 FENCE. -/
  | fence (e : ElemArgs)
  /-- R272 TALLOC. -/
  | talloc (e : ElemArgs)
  /-- R273 TSTATE. -/
  | tstate (e : ElemArgs)
  /-- R274 TFREE. -/
  | tfree (e : ElemArgs)
  /-- R278 SEND. -/
  | send (e : ElemArgs)
  /-- R282 RING_INIT. -/
  | ringInit (e : ElemArgs)
  /-- R284 AWAITF. -/
  | awaitf (e : ElemArgs)
  /-- R284 RELSLOT. -/
  | relslot (e : ElemArgs)
  /-- R290 RST. -/
  | rst (e : ElemArgs)
  /-- R301 RLD. -/
  | rld (e : ElemArgs)
  /-- R301 RAT. -/
  | rat (e : ElemArgs)
  /-- R290 RRED. -/
  | rred (e : ElemArgs)
  /-- R296 RCOPEN. -/
  | rcopen (e : ElemArgs)
  /-- R296 RREL. -/
  | rrel (e : ElemArgs)
  /-- R334 BAR_ARRIVE. -/
  | barArrive (e : ElemArgs)
  /-- R334 BAR_WAIT. -/
  | barWait (e : ElemArgs)
  /-- R339 CENS_UP. -/
  | censUp (e : ElemArgs)
  /-- R339 CENS_DN. -/
  | censDn (e : ElemArgs)
  /-- R340 PHASE_WAIT. -/
  | phaseWait (e : ElemArgs)
  /-- R341 WAIT_T. -/
  | waitT (e : ElemArgs)
  /-- R351 SEQ_OPEN. -/
  | seqOpen (e : ElemArgs)
  /-- R352 SEQ_CLOSE. -/
  | seqClose (e : ElemArgs)
  /-- R355 COMMIT. -/
  | commit (e : ElemArgs)
  /-- R358 KV_ALLOC. -/
  | kvAlloc (e : ElemArgs)
  /-- R358 KV_ATTACH. -/
  | kvAttach (e : ElemArgs)
  /-- R358 KV_FREE. -/
  | kvFree (e : ElemArgs)
  /-- R360 PFX_ATTACH. -/
  | pfxAttach (e : ElemArgs)
  /-- R361 PFX_EVICT. -/
  | pfxEvict (e : ElemArgs)
  /-- R365 G_STEP. -/
  | gStep (e : ElemArgs)
  /-- R366 G_MASK. -/
  | gMask (e : ElemArgs)
  /-- R366 G_FORK. -/
  | gFork (e : ElemArgs)
  /-- R366 G_ROLL. -/
  | gRoll (e : ElemArgs)
  /-- R366 G_SAVE. -/
  | gSave (e : ElemArgs)
  /-- R366 G_LOAD. -/
  | gLoad (e : ElemArgs)
  /-- R227 SMERGE. -/
  | smerge (e : ElemArgs)
  /-- R410 SDEC. -/
  | sdec (e : ElemArgs)
  /-- R410 SENC. -/
  | senc (e : ElemArgs)
  /-- R437 TRAP. -/
  | trap (e : ElemArgs)
  /-- R437 FAULT. -/
  | fault (e : ElemArgs)
  /-- R438 SREG_RD. -/
  | sregRd (e : ElemArgs)
  /-- R438 SREG_WR. -/
  | sregWr (e : ElemArgs)
  /-- R193 VADD. -/
  | vadd (v : VArgs)
  /-- R193 VSUB. -/
  | vsub (v : VArgs)
  /-- R193 VMUL. -/
  | vmul (v : VArgs)
  /-- R193 VFMA. -/
  | vfma (v : VArgs)
  /-- R193 VMAX. -/
  | vmax (v : VArgs)
  /-- R193 VMIN. -/
  | vmin (v : VArgs)
  /-- R194 VEXP. -/
  | vexp (v : VArgs)
  /-- R194 VRCP. -/
  | vrcp (v : VArgs)
  /-- R194 VRSQ. -/
  | vrsq (v : VArgs)
  /-- R194 VTANH. -/
  | vtanh (v : VArgs)
  /-- R195 VSUM. -/
  | vsum (v : VArgs)
  /-- R195 VMAXR. -/
  | vmaxr (v : VArgs)
  /-- R193 VSCL. -/
  | vscl (v : VArgs)
  /-- R193 VCMP. -/
  | vcmp (v : VArgs)
  /-- R193 VSEL. -/
  | vsel (v : VArgs)
  /-- R193 VPERM. -/
  | vperm (v : VArgs)
  /-- R193 VBCAST. -/
  | vbcast (v : VArgs)
  /-- R196 VCVT. -/
  | vcvt (v : VArgs)
  /-- R197 VTILE_RD. -/
  | vtileRd (w : BitVec 4) (tile : BitVec 8) (row : BitVec 14)
  /-- R197 VTILE_WR. -/
  | vtileWr (w : BitVec 4) (tile : BitVec 8) (row : BitVec 14)
  /-- R226 VNOISE. -/
  | vnoise (v : VArgs)
  /-- R226 VMASK. -/
  | vmask (v : VArgs)
  /-- R226 VARGMAX. -/
  | vargmax (v : VArgs)
  /-- R207 MW_LOAD. -/
  | mwLoad (fmt : Fmt) (grp : BitVec 2) (bank : Bool) (rec : BitVec 12)
  /-- R207 MW_SWAP. -/
  | mwSwap (bank : Bool)
  /-- R210 MM_RUN. -/
  | mmRun (fmt : Fmt) (acc : BitVec 2) (n : BitVec 13)
  /-- R207 MM_ZP. -/
  | mmZp (tile : BitVec 8)
  /-- R207 MM_REC. -/
  | mmRec (bank : Bool)
  /-- R217 MM_END. -/
  | mmEnd (acc : BitVec 2) (count : BitVec 16)
  /-- R218 ACC_CFG. -/
  | accCfg (e : BitVec 8)
  /-- R221 CVQ. -/
  | cvq (c : CvArgs)
  /-- R221 CVDQ. -/
  | cvdq (c : CvArgs)
  /-- R221 CVF. -/
  | cvf (s d : Fmt) (rto : Bool)
  /-- R113 SEQ_ADD. -/
  | seqAdd (stall : BitVec 3) (xd xa xb : BitVec 5)
  /-- R113 SEQ_SUB. -/
  | seqSub (stall : BitVec 3) (xd xa xb : BitVec 5)
  /-- R113 SEQ_AND. -/
  | seqAnd (stall : BitVec 3) (xd xa xb : BitVec 5)
  /-- R113 SEQ_OR. -/
  | seqOr (stall : BitVec 3) (xd xa xb : BitVec 5)
  /-- R113 SEQ_XOR. -/
  | seqXor (stall : BitVec 3) (xd xa xb : BitVec 5)
  /-- R113 SEQ_SHL. -/
  | seqShl (stall : BitVec 3) (xd xa xb : BitVec 5)
  /-- R113 SEQ_SHR. -/
  | seqShr (stall : BitVec 3) (xd xa xb : BitVec 5)
  /-- R113 SEQ_SRA. -/
  | seqSra (stall : BitVec 3) (xd xa xb : BitVec 5)
  /-- R113 SEQ_MUL. -/
  | seqMul (stall : BitVec 3) (xd xa xb : BitVec 5)
  /-- R113 SEQ_SLT. -/
  | seqSlt (stall : BitVec 3) (xd xa xb : BitVec 5)
  /-- R113 SEQ_SLTU. -/
  | seqSltu (stall : BitVec 3) (xd xa xb : BitVec 5)
  /-- R113 SEQ_ADDI. -/
  | seqAddi (stall : BitVec 3) (xd xa : BitVec 5) (imm : BitVec 12)
  /-- R113 SEQ_ANDI. -/
  | seqAndi (stall : BitVec 3) (xd xa : BitVec 5) (imm : BitVec 12)
  /-- R113 SEQ_ORI. -/
  | seqOri (stall : BitVec 3) (xd xa : BitVec 5) (imm : BitVec 12)
  /-- R113 SEQ_XORI. -/
  | seqXori (stall : BitVec 3) (xd xa : BitVec 5) (imm : BitVec 12)
  /-- R113 SEQ_SHLI. -/
  | seqShli (stall : BitVec 3) (xd xa : BitVec 5) (sh : BitVec 6)
  /-- R113 SEQ_SHRI. -/
  | seqShri (stall : BitVec 3) (xd xa : BitVec 5) (sh : BitVec 6)
  /-- R113 SEQ_SRAI. -/
  | seqSrai (stall : BitVec 3) (xd xa : BitVec 5) (sh : BitVec 6)
  /-- R113 SEQ_SLTI. -/
  | seqSlti (stall : BitVec 3) (xd xa : BitVec 5) (imm : BitVec 12)
  /-- R113 SEQ_LUI. -/
  | seqLui (stall : BitVec 3) (xd : BitVec 5) (imm : BitVec 17)
  /-- R114 SEQ_LD. -/
  | seqLd (stall : BitVec 3) (xd xa : BitVec 5) (imm : BitVec 12)
  /-- R114 SEQ_LW. -/
  | seqLw (stall : BitVec 3) (xd xa : BitVec 5) (imm : BitVec 12)
  /-- R114 SEQ_SD. -/
  | seqSd (stall : BitVec 3) (xs xa : BitVec 5) (imm : BitVec 12)
  /-- R114 SEQ_SW. -/
  | seqSw (stall : BitVec 3) (xs xa : BitVec 5) (imm : BitVec 12)
  /-- R116 SEQ_BEQ. -/
  | seqBeq (stall : BitVec 3) (xa xb : BitVec 5) (ofs : BitVec 12)
  /-- R116 SEQ_BNE. -/
  | seqBne (stall : BitVec 3) (xa xb : BitVec 5) (ofs : BitVec 12)
  /-- R116 SEQ_BLT. -/
  | seqBlt (stall : BitVec 3) (xa xb : BitVec 5) (ofs : BitVec 12)
  /-- R116 SEQ_BGE. -/
  | seqBge (stall : BitVec 3) (xa xb : BitVec 5) (ofs : BitVec 12)
  /-- R116 SEQ_BLTU. -/
  | seqBltu (stall : BitVec 3) (xa xb : BitVec 5) (ofs : BitVec 12)
  /-- R116 SEQ_BGEU. -/
  | seqBgeu (stall : BitVec 3) (xa xb : BitVec 5) (ofs : BitVec 12)
  /-- R116 SEQ_JAL. -/
  | seqJal (stall : BitVec 3) (xd : BitVec 5) (imm : BitVec 17)
  /-- R116 SEQ_JALR. -/
  | seqJalr (stall : BitVec 3) (xd xa : BitVec 5) (imm : BitVec 12)
  /-- R119 SBIND. -/
  | sbind (stall : BitVec 3) (xa : BitVec 5) (ap : BitVec 4) (port : BitVec 6)
  /-- R119 SGO. -/
  | sgo (stall : BitVec 3) (xa : BitVec 5) (ap : BitVec 4)
  /-- R119 SWAIT. -/
  | swait (stall : BitVec 3) (xd : BitVec 5) (ap : BitVec 4)
  /-- R122 BPUSH. -/
  | bpush (stall : BitVec 3) (xa : BitVec 5)
  /-- R122 BFRAME. -/
  | bframe (stall : BitVec 3) (frame : BitVec 3)
  /-- R124 QPOP. -/
  | qpop (stall : BitVec 3) (xd : BitVec 5)
  /-- R124 QPOP_NB. -/
  | qpopNb (stall : BitVec 3) (xd : BitVec 5)
  /-- R125 CWAIT. -/
  | cwait (stall : BitVec 3) (xa xb : BitVec 5)
  /-- R125 COSIG. -/
  | cosig (stall : BitVec 3) (xa xb : BitVec 5)
  /-- R125 COSIG_ADD. -/
  | cosigAdd (stall : BitVec 3) (xa xb : BitVec 5)
  /-- R123 PBAR. -/
  | pbar (stall : BitVec 3) (xd : BitVec 5)
  /-- R123 PBAR_FINAL. -/
  | pbarFinal (stall : BitVec 3) (xd : BitVec 5)
  /-- R127 SEQ_TRAP. -/
  | seqTrap (stall : BitVec 3) (code : BitVec 8)
  /-- R127 ERET. -/
  | eret (stall : BitVec 3)
  /-- R129 SRD. -/
  | srd (stall : BitVec 3) (xd : BitVec 5) (num : BitVec 8)
  /-- R129 SWR. -/
  | swr (stall : BitVec 3) (xa : BitVec 5) (num : BitVec 8)
  /-- R126 HALT. -/
  | halt (stall : BitVec 3)
  /-- R36 BRING_UP_STEP_DONE. -/
  | bringUpStepDone (ok : Bool)
  /-- R444 CORRECTED_ERROR. -/
  | correctedError (site : EccSite) (aboveThreshold : Bool)
  /-- R36 POWER_GOOD. -/
  | powerGood
  /-- R443 FUNCTION_LEVEL_RESET. -/
  | functionLevelReset
  /-- R28 PM_INTERVAL. -/
  | pmInterval
  /-- R324 SCHEDULER_SLOT. -/
  | schedulerSlot
  /-- R323 WAIT_OBJECT_POLL. -/
  | waitObjectPoll
  /-- R387 INVAL_RANGE_DRAIN_DONE. -/
  | invalRangeDrainDone
  /-- R439 PREEMPT_DRAIN_DONE. -/
  | preemptDrainDone
  /-- R137 CHAIN_BLOCK_LOAD. -/
  | chainBlockLoad
  /-- R343 LAUNCH_FAIL_COMPLETE. -/
  | launchFailComplete
  /-- R69 ARRIVAL_BUFFER_RELEASE. -/
  | arrivalBufferRelease
  /-- R118 STREAM_EMIT. -/
  | streamEmit
  /-- R48 MATCHER_TAKE. -/
  | matcherTake
  /-- R49 TIER2_SEARCH_RETURN. -/
  | tier2SearchReturn
  /-- R327 TIER3_REINJECT. -/
  | tier3Reinject
  /-- R88 MEM_ACCESS_COMPLETE. -/
  | memAccessComplete
  /-- R60 COMMIT_INSTANCE. -/
  | commitInstance
  /-- R62 FAULT_PRECISE. -/
  | faultPrecise
  /-- R128 CTXFAULT_TAKE. -/
  | ctxfaultTake
  /-- R190 NODE_PACKET_ARRIVAL. -/
  | nodePacketArrival
  /-- R63 HANDLER_DISPATCH. -/
  | handlerDispatch
  /-- R347 SERPENT_PORT_STRAY. -/
  | serpentPortStray
  /-- R276 GATHER_WRITE. -/
  | gatherWrite
  /-- R215 PASS_ARRIVAL. -/
  | passArrival
  /-- R217 END_TOKEN_ARRIVAL. -/
  | endTokenArrival
  /-- R279 SEND_COPY. -/
  | sendCopy
  /-- R354 COMMIT_NODE_RESULT. -/
  | commitNodeResult
  /-- R359 KV_DRAIN_DONE. -/
  | kvDrainDone
  /-- R334 BARRIER_DONE. -/
  | barrierDone
  /-- R338 QUIESCENCE_DETECT. -/
  | quiescenceDetect
  /-- R123 PHASE_BOUNDARY. -/
  | phaseBoundary
  /-- R341 WAIT_T_TIMEOUT. -/
  | waitTTimeout
  /-- R427 HOST_COMPLETION_TIMEOUT. -/
  | hostCompletionTimeout
  /-- R297 FABRIC_OPEN. -/
  | fabricOpen
  /-- R296 OPENACK. -/
  | openack
  /-- R299 WR. -/
  | wr
  /-- R297 REL. -/
  | rel
  /-- R296 RELNOTE. -/
  | relnote
  /-- R296 RESEND. -/
  | resend
  /-- R297 FABRIC_FAIL. -/
  | fabricFail
  /-- R296 EPOCH_OPEN_TIMEOUT. -/
  | epochOpenTimeout
  /-- R296 EPOCH_REL_TIMEOUT. -/
  | epochRelTimeout
  /-- R297 EPOCH_WAIT_TIMEOUT. -/
  | epochWaitTimeout
  /-- R301 RLDREQ. -/
  | rldreq
  /-- R301 RLDREP. -/
  | rldrep
  /-- R302 RATREQ. -/
  | ratreq
  /-- R301 RATREP. -/
  | ratrep
  /-- R302 REQUEST_RESEND_TIMEOUT. -/
  | requestResendTimeout
  /-- R305 WCON. -/
  | wcon
  /-- R305 WINDOW_ROUND_TIMEOUT. -/
  | windowRoundTimeout
  /-- R297 PACKET_AGE_DISCARD. -/
  | packetAgeDiscard
  /-- R309 KEY_UPDATE. -/
  | keyUpdate
  /-- R417 SPDM_SESSION_END. -/
  | spdmSessionEnd
  /-- R218 ACC_REL. -/
  | accRel
  /-- R309 FABRIC_PORT_TRAINED. -/
  | fabricPortTrained
  /-- R125 CWAIT_OBJECT_READ. -/
  | cwaitObjectRead
  /-- R97 ILLEGAL_SEQUENCER_INSTRUCTION. -/
  | illegalSequencerInstruction
  /-- R76 RESERVED_FRAME_WORD. -/
  | reservedFrameWord
  /-- R295 RESERVED_PTYPE_PACKET. -/
  | reservedPtypePacket
  deriving DecidableEq, Repr

end Sys2Proof
end

