-- ==== Sys2Proof/Machine/OpTable.lean ====
section
/-! DEFINITION. The element opcode map of R88 and the load checks of R79 to R89, R177, R260, R290, R332, R347, R410 and R437:
what a row permits, and the check that makes an element BLOCKED. -/

namespace Sys2Proof.Machine

open Sys2Proof

/-- One row of the element opcode map (R88). `port` marks the M opcodes, `wave` those whose F6 has the wave form (R85). -/
structure ElemRow where
  opc : Nat
  make : ElemArgs → Instr
  arities : List Nat
  types : List ElemType
  latency : Nat
  port : Bool
  wave : Bool

/-- A row. -/
def row (opc : Nat) (make : ElemArgs → Instr) (arities : List Nat) (types : List ElemType) (latency : Nat)
    (port wave : Bool) : ElemRow :=
  { opc, make, arities, types, latency, port, wave }

/-- The type set I of R80. -/
def tyI : List ElemType := [.s32, .n32, .s16x2, .n16x2, .s8x4, .n8x4]
/-- The type set I32 of R80. -/
def tyI32 : List ElemType := [.s32, .n32]
/-- The type set F of R80. -/
def tyF : List ElemType := [.f32, .bf16x2, .f16x2]
/-- The type set "any" of R80. -/
def tyAny : List ElemType := tyI ++ tyF
/-- A type entry of "—": TYPE must be 0 (R80). -/
def tyNone : List ElemType := [.s32]

/-- Rows 0x000 to 0x07F of R88. -/
def rowsInteger : List ElemRow := [
  row 0x000 .const [1] tyAny 1 false false,
  row 0x001 .add [2] tyI 1 false false,
  row 0x002 .sub [2] tyI 1 false false,
  row 0x003 .addsat [2] tyI 1 false false,
  row 0x004 .subsat [2] tyI 1 false false,
  row 0x005 .mul [2] tyI 3 false false,
  row 0x006 .mulh [2] tyI 3 false false,
  row 0x007 .mad [3] tyI 4 false false,
  row 0x008 .div [2] tyI32 4 false false,
  row 0x009 .rem [2] tyI32 4 false false,
  row 0x00A .and [2] tyI 1 false false,
  row 0x00B .or [2] tyI 1 false false,
  row 0x00C .xor [2] tyI 1 false false,
  row 0x00D .andn [2] tyI 1 false false,
  row 0x00E .shl [2] tyI 1 false false,
  row 0x00F .shr [2] tyI 1 false false,
  row 0x010 .sra [2] tyI 1 false false,
  row 0x011 .rot [2] tyI32 1 false false,
  row 0x012 .min [2] tyI 1 false false,
  row 0x013 .max [2] tyI 1 false false,
  row 0x014 .abs [1] [.s32, .s16x2, .s8x4] 1 false false,
  row 0x015 .clz [1] tyI32 1 false false,
  row 0x016 .popc [1] tyI32 1 false false,
  row 0x017 .bfx [3] tyI32 2 false false,
  row 0x018 .bfi [4] tyI32 2 false false,
  row 0x019 .cmp [2] tyI 1 false false,
  row 0x01A .lea [3] tyI32 1 false false,
  row 0x01B .ext [1] tyI32 1 false false,
  row 0x01C .perm [2] [.n32] 1 false false,
  row 0x01D .sacc [1] [.s32, .n32, .f32] 3 false false,
  row 0x01E .sswap [1] tyI32 1 false false,
  row 0x01F .scount [1] [.n32] 1 false false]

/-- Rows 0x080 to 0x0FF of R88. -/
def rowsFloat : List ElemRow := [
  row 0x080 .fadd [2] tyF 3 false false,
  row 0x081 .fsub [2] tyF 3 false false,
  row 0x082 .fmul [2] tyF 3 false false,
  row 0x083 .fma [3] tyF 4 false false,
  row 0x084 .fmin [2] tyF 1 false false,
  row 0x085 .fmax [2] tyF 1 false false,
  row 0x086 .fsgn [2] tyF 1 false false,
  row 0x087 .fcmp [2] tyF 1 false false,
  row 0x088 .frcp [1] tyF 4 false false,
  row 0x089 .frsq [1] tyF 4 false false,
  row 0x08A .fex2 [1] tyF 4 false false,
  row 0x08B .flg2 [1] tyF 4 false false,
  row 0x08C .fcvt [1] [.f32, .bf16x2, .f16x2, .s32, .n32] 2 false false,
  row 0x08D .frnd [1] tyF 2 false false,
  row 0x08E .fclass [1] tyF 1 false false]

/-- Rows 0x100 to 0x13F of R88. -/
def rowsFlow : List ElemRow := [
  row 0x100 .steer [2] tyNone 1 false false,
  row 0x101 .select [3] tyNone 1 false false,
  row 0x102 .merge [1, 2, 3, 4] tyNone 1 false false,
  row 0x103 .copy [1] tyNone 1 false false,
  row 0x104 .sink [1] tyNone 1 false false,
  row 0x105 .gate [2] tyNone 1 false false,
  row 0x106 .window [2] tyNone 1 false false,
  row 0x107 .enter [1] tyNone 1 false false,
  row 0x108 .leave [1] tyNone 1 false false,
  row 0x109 .next [1] tyNone 1 false false,
  row 0x10A .tagget [1] tyNone 1 false false,
  row 0x10B .tagset [2] tyNone 1 false false,
  row 0x10C .call [1, 2, 3, 4] tyNone 1 false false,
  row 0x10D .ret [1, 2, 3, 4] tyNone 1 false false,
  row 0x10E .purge [1] tyNone 1 false false]

/-- Rows 0x140 to 0x17F of R88. -/
def rowsMemory : List ElemRow := [
  row 0x140 .ld [1] tyI32 1 true true,
  row 0x141 .st [2] tyI32 1 true true,
  row 0x142 .ldx [1] tyI32 1 true false,
  row 0x143 .stx [2] tyI32 1 true false,
  row 0x144 .lds [1] tyI32 1 true true,
  row 0x145 .iput [2] tyI32 1 true false,
  row 0x146 .iget [1] tyI32 1 true false,
  row 0x147 .atom [2, 3] [.s32, .n32, .f32] 1 true true,
  row 0x148 .red [2] [.s32, .n32, .f32] 1 true true,
  row 0x149 .fence [1] tyNone 1 true true,
  row 0x14A .talloc [1] tyNone 1 true false,
  row 0x14B .tstate [1, 2] tyNone 1 true false,
  row 0x14C .tfree [1] tyNone 1 true false,
  row 0x14D .send [2] tyNone 1 true false,
  row 0x14E .ringInit [2] tyNone 1 true false,
  row 0x14F .awaitf [1] tyNone 1 true false,
  row 0x150 .relslot [1] tyNone 1 true false]

/-- Rows 0x180 to 0x1BF of R88. -/
def rowsFabric : List ElemRow := [
  row 0x180 .rst [2] tyI32 1 true false,
  row 0x181 .rld [1] tyI32 1 true false,
  row 0x182 .rat [2, 3] [.s32, .n32, .f32] 1 true false,
  row 0x183 .rred [2] [.s32, .n32, .f32] 1 true false,
  row 0x184 .rcopen [1] tyNone 1 true false,
  row 0x185 .rrel [1] tyNone 1 true false,
  row 0x1A0 .barArrive [1] tyNone 1 true false,
  row 0x1A1 .barWait [1] tyNone 1 true false,
  row 0x1A2 .censUp [1] tyNone 1 true false,
  row 0x1A3 .censDn [1] tyNone 1 true false,
  row 0x1A4 .phaseWait [1] tyNone 1 true false,
  row 0x1A5 .waitT [2] tyNone 1 true false]

/-- Rows 0x1C0 to 0x1DF of R88. -/
def rowsGeneration : List ElemRow := [
  row 0x1C0 .seqOpen [1] tyNone 1 true false,
  row 0x1C1 .seqClose [1] tyNone 1 true false,
  row 0x1C2 .commit [1] tyNone 1 true false,
  row 0x1C3 .kvAlloc [1] tyNone 1 true false,
  row 0x1C4 .kvAttach [2] tyNone 1 true false,
  row 0x1C5 .kvFree [1] tyNone 1 true false,
  row 0x1C6 .pfxAttach [2] tyNone 1 true false,
  row 0x1C7 .pfxEvict [1] tyNone 1 true false,
  row 0x1C8 .gStep [2] tyNone 1 true false,
  row 0x1C9 .gMask [1] tyNone 1 true false,
  row 0x1CA .gFork [1] tyNone 1 true false,
  row 0x1CB .gRoll [2] tyNone 1 true false,
  row 0x1CC .gSave [1] tyNone 1 true false,
  row 0x1CD .gLoad [1] tyNone 1 true false,
  row 0x1CE .smerge [4] [.f32] 1 false false]

/-- Rows 0x1E0 to 0x1FF of R88. -/
def rowsSystem : List ElemRow := [
  row 0x1E0 .sdec [2] tyNone 1 true false,
  row 0x1E1 .senc [2] tyNone 1 true false,
  row 0x1E2 .trap [1] tyNone 1 false false,
  row 0x1E3 .fault [1] tyNone 1 false false,
  row 0x1E4 .sregRd [1] tyNone 1 true false,
  row 0x1E5 .sregWr [2] tyNone 1 true false]

/-- The element opcode map (R88). -/
def elemRows : List ElemRow :=
  rowsInteger ++ rowsFloat ++ rowsFlow ++ rowsMemory ++ rowsFabric ++ rowsGeneration ++ rowsSystem

/-- The opcode and fields of an element instruction (R79, R88); none for every other instruction. -/
def elemParts : Instr → Option (Nat × ElemArgs)
  | .const e => some (0x000, e)
  | .add e => some (0x001, e)
  | .sub e => some (0x002, e)
  | .addsat e => some (0x003, e)
  | .subsat e => some (0x004, e)
  | .mul e => some (0x005, e)
  | .mulh e => some (0x006, e)
  | .mad e => some (0x007, e)
  | .div e => some (0x008, e)
  | .rem e => some (0x009, e)
  | .and e => some (0x00A, e)
  | .or e => some (0x00B, e)
  | .xor e => some (0x00C, e)
  | .andn e => some (0x00D, e)
  | .shl e => some (0x00E, e)
  | .shr e => some (0x00F, e)
  | .sra e => some (0x010, e)
  | .rot e => some (0x011, e)
  | .min e => some (0x012, e)
  | .max e => some (0x013, e)
  | .abs e => some (0x014, e)
  | .clz e => some (0x015, e)
  | .popc e => some (0x016, e)
  | .bfx e => some (0x017, e)
  | .bfi e => some (0x018, e)
  | .cmp e => some (0x019, e)
  | .lea e => some (0x01A, e)
  | .ext e => some (0x01B, e)
  | .perm e => some (0x01C, e)
  | .sacc e => some (0x01D, e)
  | .sswap e => some (0x01E, e)
  | .scount e => some (0x01F, e)
  | .fadd e => some (0x080, e)
  | .fsub e => some (0x081, e)
  | .fmul e => some (0x082, e)
  | .fma e => some (0x083, e)
  | .fmin e => some (0x084, e)
  | .fmax e => some (0x085, e)
  | .fsgn e => some (0x086, e)
  | .fcmp e => some (0x087, e)
  | .frcp e => some (0x088, e)
  | .frsq e => some (0x089, e)
  | .fex2 e => some (0x08A, e)
  | .flg2 e => some (0x08B, e)
  | .fcvt e => some (0x08C, e)
  | .frnd e => some (0x08D, e)
  | .fclass e => some (0x08E, e)
  | .steer e => some (0x100, e)
  | .select e => some (0x101, e)
  | .merge e => some (0x102, e)
  | .copy e => some (0x103, e)
  | .sink e => some (0x104, e)
  | .gate e => some (0x105, e)
  | .window e => some (0x106, e)
  | .enter e => some (0x107, e)
  | .leave e => some (0x108, e)
  | .next e => some (0x109, e)
  | .tagget e => some (0x10A, e)
  | .tagset e => some (0x10B, e)
  | .call e => some (0x10C, e)
  | .ret e => some (0x10D, e)
  | .purge e => some (0x10E, e)
  | .ld e => some (0x140, e)
  | .st e => some (0x141, e)
  | .ldx e => some (0x142, e)
  | .stx e => some (0x143, e)
  | .lds e => some (0x144, e)
  | .iput e => some (0x145, e)
  | .iget e => some (0x146, e)
  | .atom e => some (0x147, e)
  | .red e => some (0x148, e)
  | .fence e => some (0x149, e)
  | .talloc e => some (0x14A, e)
  | .tstate e => some (0x14B, e)
  | .tfree e => some (0x14C, e)
  | .send e => some (0x14D, e)
  | .ringInit e => some (0x14E, e)
  | .awaitf e => some (0x14F, e)
  | .relslot e => some (0x150, e)
  | .rst e => some (0x180, e)
  | .rld e => some (0x181, e)
  | .rat e => some (0x182, e)
  | .rred e => some (0x183, e)
  | .rcopen e => some (0x184, e)
  | .rrel e => some (0x185, e)
  | .barArrive e => some (0x1A0, e)
  | .barWait e => some (0x1A1, e)
  | .censUp e => some (0x1A2, e)
  | .censDn e => some (0x1A3, e)
  | .phaseWait e => some (0x1A4, e)
  | .waitT e => some (0x1A5, e)
  | .seqOpen e => some (0x1C0, e)
  | .seqClose e => some (0x1C1, e)
  | .commit e => some (0x1C2, e)
  | .kvAlloc e => some (0x1C3, e)
  | .kvAttach e => some (0x1C4, e)
  | .kvFree e => some (0x1C5, e)
  | .pfxAttach e => some (0x1C6, e)
  | .pfxEvict e => some (0x1C7, e)
  | .gStep e => some (0x1C8, e)
  | .gMask e => some (0x1C9, e)
  | .gFork e => some (0x1CA, e)
  | .gRoll e => some (0x1CB, e)
  | .gSave e => some (0x1CC, e)
  | .gLoad e => some (0x1CD, e)
  | .smerge e => some (0x1CE, e)
  | .sdec e => some (0x1E0, e)
  | .senc e => some (0x1E1, e)
  | .trap e => some (0x1E2, e)
  | .fault e => some (0x1E3, e)
  | .sregRd e => some (0x1E4, e)
  | .sregWr e => some (0x1E5, e)
  | _ => none

/-- The row of an opcode, or none where the opcode is reserved (R88). -/
def elemRow (opc : Nat) : Option ElemRow := elemRows.find? fun r => r.opc == opc

/-- Opcodes of one row that take their effect from F4 control bits, so that IMM may be non-zero without a substitution
(R83, R88): `const`, `scount`, `fcvt`, `tagget`, `tagset` and `fence`. -/
def usesControl (opc : Nat) : Bool :=
  opc == 0x000 || opc == 0x01F || opc == 0x08C || opc == 0x10A || opc == 0x10B || opc == 0x149

/-- Opcodes that take no substituted slot at any arity: `merge`, `tagset`, `const` (R83), the state-register opcodes (R168),
the synchronisation (R332), generation (R347) and system opcodes (R437). -/
def noSubstitution (opc : Nat) : Bool :=
  opc == 0x102 || opc == 0x10B || opc == 0x000 || (0x01D ≤ opc && opc ≤ 0x01F) ||
  (0x1A0 ≤ opc && opc ≤ 0x1A5) || (0x1C0 ≤ opc && opc ≤ 0x1CD) || (0x1E2 ≤ opc && opc ≤ 0x1E5)

/-- Whether a type is a float type of R80. -/
def isFloatType (t : ElemType) : Bool := t == .f32 || t == .bf16x2 || t == .f16x2

/-- Atomic sub-operation rules of R89: f32 only with add, min and max; `cas` with arity 3 and every other with arity 2. -/
def atomicOk (op arity : Nat) (t : ElemType) : Bool :=
  (if op == 7 then arity == 3 else arity == 2) && (t != .f32 || op ≤ 2)

/-- COND codes permitted by an opcode's row (R79, R81, R88, R89, R164, R171, R174, R175, R260, R290). -/
def condOk (opc cond arity : Nat) (t : ElemType) : Bool :=
  if opc == 0x019 then cond ≤ 5
  else if opc == 0x01B then cond ≤ 1
  else if opc == 0x086 then cond ≤ 2
  else if opc == 0x087 then true
  else if opc == 0x08C then cond ≤ 4
  else if opc == 0x08D then cond ≤ 3
  else if 0x140 ≤ opc && opc ≤ 0x143 then cond ≤ 2
  else if opc == 0x147 || opc == 0x182 then atomicOk cond arity t
  else if opc == 0x148 || opc == 0x183 then cond ≤ 5 && (t != .f32 || cond ≤ 2)
  else if opc == 0x149 then cond ≤ 4
  else if opc == 0x180 then cond ≤ 2 || cond == 4
  else if opc == 0x181 then cond ≤ 2
  else if opc == 0x1A0 || opc == 0x1A1 then true
  else cond == 0

/-- Width of a level in bits (R84 WID). -/
def widthOf (wid : Nat) : Nat := 4 * (wid + 1)

/-- A level (offset code, width code) inside the field stack (R84). -/
def levelOk (ofs wid : Nat) : Bool := 4 * ofs + widthOf wid ≤ 48

/-- The level that F4 [7:0] names for `tagget` and `tagset` (R185, R186): offset code and width code. -/
def levelSelector (imm : Nat) : Nat × Nat := (bits imm 7 4, bits imm 1 0)

/-- F4 control rules of the opcodes that use IMM (R83, R87, R88, R168, R174, R185, R186, R270). -/
def controlOk (opc imm : Nat) : Bool :=
  if opc == 0x01F then imm != 0
  else if opc == 0x08C then imm ≤ 2
  else if opc == 0x10A then
    imm == 0xC0 || imm == 0xD0 ||
    (imm < 256 && bits imm 3 2 == 0 && levelOk (bits imm 7 4) (bits imm 1 0))
  else if opc == 0x10B then
    imm < 256 && bits imm 3 2 == 0 && levelOk (bits imm 7 4) (bits imm 1 0)
  else if opc == 0x149 then imm ≤ 2
  else true

/-- The level a tag operation names. -/
def tagOpLevel : TagOp → Option (Nat × Nat)
  | .keep => none
  | .enter o w => some (o.toNat, w.toNat)
  | .next o w => some (o.toNat, w.toNat)
  | .leave o w => some (o.toNat, w.toNat)

/-- The OP code of a tag operation (R84). -/
def tagOpCode : TagOp → Nat
  | .keep => 0
  | .enter _ _ => 1
  | .next _ _ => 2
  | .leave _ _ => 3

/-- A tag operation's level lies in the field stack (R84). -/
def tagOpOk (op : TagOp) : Bool :=
  match tagOpLevel op with
  | none => true
  | some (o, w) => levelOk o w

/-- The F5 OP that an opcode requires (R84, R187, R188). -/
def tagOpRequired (opc : Nat) : Option Nat :=
  if opc == 0x107 || opc == 0x10C then some 1
  else if opc == 0x109 then some 2
  else if opc == 0x108 || opc == 0x10D then some 3
  else none

/-- The rule of WHEN and SLV on one target (R82). -/
def targetReject (ma : MA) (pred : Bool) (t : Target) : Option Reject :=
  let shape : Bool := match t.dest with
    | .none => t.whenP == 0 && t.slv == 0
    | .node n _ => n.toNat ≤ 35
    | _ => true
  if !shape then some .target
  else if t.whenP == 3 || (t.whenP != 0 && !pred) then some .whenCode
  else if 12 < t.slv.toNat || (t.slv != 0 && (ma == .normal || ma == .queued)) then some .stickyLevel
  else none

/-- Whether a target is of kind "none". -/
def Target.isNil (t : Target) : Bool := match t.dest with | .none => true | _ => false

/-- The first check of R79 to R89 and of the opcode's own description that an element instruction breaks; none where it is
accepted. -/
def elemReject (r : ElemRow) (a : ElemArgs) : Option Reject :=
  let opc := r.opc
  let arity := a.arity.toNat + 1
  let psrc := match a.f6 with | .pred _ p => p.toNat | .wave _ _ _ => 0
  let sub := match a.sub with | none => 0 | some s => s.toNat + 1
  let firstTarget := [a.t1, a.t2, a.t3].findSome? (targetReject a.ma (psrc != 0))
  if !(r.types.contains a.ty) then some .typeCode
  else if !(r.arities.contains arity) then some .arity
  else if !(condOk opc a.cond.toNat arity a.ty) then some .cond
  else if firstTarget.isSome then firstTarget
  else if sub != 0 && (arity < sub || arity == 1 || noSubstitution opc) then some .sub
  else if sub == 0 && a.imm != 0 && !(usesControl opc) then some .imm
  else if sub == 0 && usesControl opc && !(controlOk opc a.imm.toNat) then some .imm
  else if (sub != 0 || opc == 0x000) && (a.ty == .s8x4 || a.ty == .n8x4) && a.wide.isNone && 256 ≤ a.imm.toNat then some .imm
  else if !(tagOpOk a.tagOp) then some .tagOp
  else if (match tagOpRequired opc with | none => false | some q => tagOpCode a.tagOp != q) then some .tagOp
  else if (match a.f6 with
      | .pred _ p => r.wave || 4 < p.toNat || (p != 0 && arity < p.toNat)
      | .wave _ _ _ => !r.wave) then some .predicate
  else if (match a.f6 with | .pred _ _ => false | .wave _ o _ => o == 0x3F) then some .wave
  else if (opc == 0x100 || opc == 0x105) && psrc != 2 then some .predicate
  else if opc == 0x101 && psrc != 1 then some .predicate
  else if opc == 0x104 && !(Target.isNil a.t1 && Target.isNil a.t2 && Target.isNil a.t3) then some .target
  else if opc == 0x10E && a.ma != .purge then some .rule
  else if opc == 0x10C && ((arity == 2 && !(Target.isNil a.t2)) || ((arity == 2 || arity == 3) && !(Target.isNil a.t3))) then some .target
  else if opc == 0x08C && (
      (a.cond == 0 && a.ty == .f32) || (a.cond == 1 && a.ty == .bf16x2) || (a.cond == 2 && a.ty == .f16x2) ||
      (3 ≤ a.cond.toNat && !(isFloatType a.ty)) || (3 ≤ a.cond.toNat && a.imm == 1)) then some .rule
  else none

end Sys2Proof.Machine
end

