-- ==== Sys2Proof/Machine/NodeTable.lean ====
section
/-! DEFINITION. The node command tables of R90 to R95 with the further refusals of R196, R199, R222 and R226. -/

namespace Sys2Proof.Machine

open Sys2Proof

/-- The kinds of node that run handlers (R63, R100 NODE). -/
inductive NodeKind where
  | vector | matrix | acc | conv
  deriving DecidableEq, Repr

/-- Code of a lane type (R91 VT). -/
def vtCode : VType → Nat
  | .f32 => 0
  | .bf16x2 => 1
  | .f16x2 => 2
  | .s32 => 3

/-- Lane type of a code; codes 4 to 7 are reserved (R91). -/
def vtOf : Nat → Option VType
  | 0 => some .f32
  | 1 => some .bf16x2
  | 2 => some .f16x2
  | 3 => some .s32
  | _ => none

/-- Code of a format (R90). -/
def fmtCode : Fmt → Nat
  | .q4 => 0
  | .q8 => 1
  | .s8 => 2
  | .e4m3 => 3
  | .e5m2 => 4
  | .e2m1 => 5
  | .bf16 => 6
  | .fp16 => 7
  | .fp32 => 8
  | .s32 => 9

/-- Format of a code; codes 10 to 15 are reserved (R90). -/
def fmtOf : Nat → Option Fmt
  | 0 => some .q4
  | 1 => some .q8
  | 2 => some .s8
  | 3 => some .e4m3
  | 4 => some .e5m2
  | 5 => some .e2m1
  | 6 => some .bf16
  | 7 => some .fp16
  | 8 => some .fp32
  | 9 => some .s32
  | _ => none

/-- Bits per value of a format (R140). -/
def fmtBits : Fmt → Nat
  | .q4 | .e2m1 => 4
  | .q8 | .s8 | .e4m3 | .e5m2 => 8
  | .bf16 | .fp16 => 16
  | .fp32 | .s32 => 32

/-- One V-form row of R92: opcode, constructor, and which of the operand fields A, B and C the command uses (R193 to R196, R226). -/
structure VecRow where
  op : Nat
  make : VArgs → Instr
  usesB : Bool
  usesC : Bool

/-- The V-form opcodes of R92. `vcvt` uses B only for a narrowing from a 32-bit type, which `vecReject` decides. -/
def vecRows : List VecRow := [
  ⟨0x00, .vadd, true, false⟩, ⟨0x01, .vsub, true, false⟩, ⟨0x02, .vmul, true, false⟩, ⟨0x03, .vfma, true, true⟩,
  ⟨0x04, .vmax, true, false⟩, ⟨0x05, .vmin, true, false⟩, ⟨0x06, .vexp, false, false⟩, ⟨0x07, .vrcp, false, false⟩,
  ⟨0x08, .vrsq, false, false⟩, ⟨0x09, .vtanh, false, false⟩, ⟨0x0A, .vsum, false, false⟩, ⟨0x0B, .vmaxr, false, false⟩,
  ⟨0x0C, .vscl, true, false⟩, ⟨0x0D, .vcmp, true, false⟩, ⟨0x0E, .vsel, true, true⟩, ⟨0x0F, .vperm, true, false⟩,
  ⟨0x10, .vbcast, true, false⟩, ⟨0x11, .vcvt, false, false⟩, ⟨0x14, .vnoise, true, false⟩, ⟨0x15, .vmask, true, true⟩,
  ⟨0x16, .vargmax, true, false⟩]

/-- The V-form row of an opcode. -/
def vecRow (op : Nat) : Option VecRow := vecRows.find? fun r => r.op == op

/-- The opcode and arguments of a V-form command; none for every other instruction. -/
def vecParts : Instr → Option (Nat × VArgs)
  | .vadd v => some (0x00, v)
  | .vsub v => some (0x01, v)
  | .vmul v => some (0x02, v)
  | .vfma v => some (0x03, v)
  | .vmax v => some (0x04, v)
  | .vmin v => some (0x05, v)
  | .vexp v => some (0x06, v)
  | .vrcp v => some (0x07, v)
  | .vrsq v => some (0x08, v)
  | .vtanh v => some (0x09, v)
  | .vsum v => some (0x0A, v)
  | .vmaxr v => some (0x0B, v)
  | .vscl v => some (0x0C, v)
  | .vcmp v => some (0x0D, v)
  | .vsel v => some (0x0E, v)
  | .vperm v => some (0x0F, v)
  | .vbcast v => some (0x10, v)
  | .vcvt v => some (0x11, v)
  | .vnoise v => some (0x14, v)
  | .vmask v => some (0x15, v)
  | .vargmax v => some (0x16, v)
  | _ => none

/-- `vcvt` that narrows a 32-bit lane type to a 16-bit one, and so reads B (R196). -/
def vcvtNarrow (v : VArgs) : Bool :=
  (v.vt == .f32 || v.vt == .s32) && (v.mod.toNat % 4 == 1 || v.mod.toNat % 4 == 2)

/-- The first check of R91, R95, R196, R199 and R226 that a V-form command breaks. -/
def vecReject (r : VecRow) (v : VArgs) : Option Reject :=
  let usesB := if r.op == 0x11 then vcvtNarrow v else r.usesB
  let m := v.mod.toNat
  if 19 < v.d.toNat || 20 < v.a.toNat || (usesB && 20 < v.b.toNat) || (r.usesC && 20 < v.c.toNat) then some .target
  else if 0x14 ≤ r.op && (v.vt != .f32 || m != 0) then some .typeCode
  else if 0x06 ≤ r.op && r.op ≤ 0x09 && v.vt == .s32 then some .typeCode
  else if r.op == 0x0D && v.vt == .s32 && 6 ≤ m then some .cond
  else if r.op == 0x11 && (m % 4 == 3 || m % 4 == vtCode v.vt) then some .cond
  else if r.op != 0x0D && r.op != 0x11 && m != 0 then some .reserved
  else none

/-- Weight formats of `mw.load` and `mm.rec`, with their groups (R93). -/
def mwLoadOk (f : Fmt) (grp : Nat) : Bool :=
  (f == .q4 || f == .q8 || f == .bf16) && grp ≤ 2 && (f != .bf16 || grp == 0)

/-- Activation formats of `mm.run` (R93). -/
def mmRunOk (f : Fmt) : Bool := f == .s8 || f == .e4m3 || f == .e5m2 || f == .bf16 || f == .fp16

/-- The formats `cvf` converts between (R222). -/
def cvfFormat (f : Fmt) : Bool := f != .q4 && f != .q8

/-- Formats of which a `cvf` pair holds at least one (R222). -/
def cvfNarrow (f : Fmt) : Bool := f == .e4m3 || f == .e5m2 || f == .e2m1 || f == .s8

/-- The pairs of `cvf` and its rounding rule (R222). -/
def cvfOk (s d : Fmt) (rto : Bool) : Bool :=
  cvfFormat s && cvfFormat d && s != d && (cvfNarrow s || cvfNarrow d) && !(rto && (d == .s8 || d == .s32))

/-- The pairs of `cvq` (R222). -/
def cvqOk (c : CvArgs) : Bool :=
  (c.s == .fp32 || c.s == .bf16 || c.s == .fp16 || c.s == .e4m3 || c.s == .e5m2) && (c.d == .q4 || c.d == .q8) &&
  c.grp.toNat ≤ 2

/-- The pairs of `cvdq` and its rounding rule (R222). -/
def cvdqOk (c : CvArgs) : Bool :=
  (c.s == .q4 || c.s == .q8) && (c.d == .fp32 || c.d == .bf16 || c.d == .fp16) && c.grp.toNat ≤ 2 &&
  !(c.rto && c.d == .fp32)

end Sys2Proof.Machine
end

