-- ==== Sys2Proof/WellFormed.lean ====
section
/-! DEFINITION. Well-formed instructions: the checks that the encodings of 03_encoding, 04, 10 and 17 make before an instruction
is taken. An event of a unit has no encoding and is well formed as it stands. -/

namespace Sys2Proof

open Machine

/-- A queue command header: wait and signal addresses aligned to 8 bytes (R98, R99). -/
def CmdHeader.wf (h : CmdHeader) : Bool :=
  (match h.wait with | none => true | some (a, _) => a.toNat % 8 == 0) &&
  (match h.sig with | none => true | some (a, _) => a.toNat % 8 == 0)

/-- LAUNCH names at least one cluster (R138). -/
def LaunchCmd.wf (p : LaunchCmd) : Bool := p.cmask != 0

/-- PARTITION.CFG names a VF from 0 to 8 (R138). -/
def PartCmd.wf (p : PartCmd) : Bool := p.vf.toNat ≤ 8

/-- SEAL.LOAD: NCHUNK and DST are zero outside IMPORT (R400), whose NCHUNK is 1 or more (assumption log 38). -/
def SealCmd.wf (imp : Bool) (p : SealCmd) : Bool := if imp then p.nchunk != 0 else p.nchunk == 0 && p.dst == 0

/-- KERNEL.ADMIT: AID is zero outside REVOKE (R403). -/
def AdmitCmd.wf (revoke : Bool) (p : AdmitCmd) : Bool := revoke || p.aid == 0

/-- SESSION.OPEN: SID is zero outside CLOSE (R407). -/
def SessCmd.wf (close : Bool) (p : SessCmd) : Bool := close || p.sid == 0

/-- A packet's data has the length its header names, in a header of version 1 (R295). -/
def Packet.wf (p : Packet) : Bool :=
  p.data.length == p.len.toNat && p.len.toNat ≤ 256 && p.ver == 1

/-- CNEXT: a kind 3 carries no tag operation (R75, R76). -/
def cnextWf (kind : BitVec 2) (op : TagOp) : Bool := kind != 3 || op == .keep

/-- Whether an instruction passes the checks of its encoding. -/
def Instr.wf (i : Instr) : Bool :=
  match elemParts i with
  | some (opc, e) =>
    match elemRow opc with
    | some r => (elemReject r e).isNone
    | none => false
  | none =>
    match vecParts i with
    | some (op, v) =>
      match vecRow op with
      | some r => (vecReject r v).isNone
      | none => false
    | none =>
      match i with
      | .mwLoad f g _ _ => mwLoadOk f g.toNat
      | .mmRun f _ _ => mmRunOk f
      | .mmEnd _ c => c != 0
      | .cvq c => cvqOk c
      | .cvdq c => cvdqOk c
      | .cvf s d r => cvfOk s d r
      | .boutNodePort _ _ _ => true
      | .cnext k _ op => cnextWf k op
      | .launch h p => h.wf && p.wf
      | .chain h _ => h.wf
      | .capRead h _ l => h.wf && l.toNat % 4 == 0
      | .healthRead h _ => h.wf
      | .modeSet h _ => h.wf
      | .partitionCfg h p => h.wf && p.wf && p.mask != 0
      | .partitionTeardown h p => h.wf && p.wf && p.mask == 0
      | .rankSet h _ => h.wf
      | .invalRange h _ => h.wf
      | .ringRestart h _ _ => h.wf
      | .ringRestartFaultRing h _ => h.wf
      | .preempt h _ _ => h.wf
      | .resume h _ _ => h.wf
      | .sealLoadCreate h p => h.wf && p.wf false
      | .sealLoadImport h p => h.wf && p.wf true
      | .sealLoadDestroy h p => h.wf && p.wf false
      | .sessionOpen h p => h.wf && p.wf false
      | .sessionClose h p => h.wf && p.wf true
      | .replyBind h _ => h.wf
      | .replyUnbind h _ => h.wf
      | .usageSignReport h _ => h.wf
      | .usageSignUsage h _ => h.wf
      | .kernelAdmitLibrary h p => h.wf && p.wf false
      | .kernelAdmitRaw h p => h.wf && p.wf false
      | .kernelAdmitRevoke h p => h.wf && p.wf true
      | _ => true

end Sys2Proof
end

