-- ==== Sys2Proof/Decode.lean ====
section
/-! DEFINITION. Decoding and encoding of every binary form: configuration words (R71 to R75), element fields (R79 to R87), node
commands (R91 to R94), sequencer instructions (R96, R97, R117), queue command records (R98, R99, R138) and fabric packet headers
(R295). Each decoder is total and rejects by name; each encoder is written from the same tables. -/

namespace Sys2Proof

open Machine

/-! ## Field by field -/

/-- A field of a word as a bit vector. -/
def fld (w hi lo n : Nat) : BitVec n := BitVec.ofNat n (bits w hi lo)

/-- A one-bit field. -/
def flag (w n : Nat) : Bool := bits w n n == 1

/-- Code of a matching action (R38). -/
def maCode : MA → Nat
  | .normal => 0
  | .sticky => 1
  | .purge => 2
  | .queued => 3

/-- Matching action of a two-bit code (R38). -/
def maOf (n : Nat) : MA :=
  match n % 4 with
  | 0 => .normal
  | 1 => .sticky
  | 2 => .purge
  | _ => .queued

/-- Code of an operation type (R80). -/
def typeCode : ElemType → Nat
  | .s32 => 0
  | .n32 => 1
  | .s16x2 => 2
  | .n16x2 => 3
  | .s8x4 => 4
  | .n8x4 => 5
  | .f32 => 6
  | .bf16x2 => 7
  | .f16x2 => 8

/-- Operation type of a code; codes 9 to 15 name none (R80). -/
def typeOf : Nat → Option ElemType
  | 0 => some .s32
  | 1 => some .n32
  | 2 => some .s16x2
  | 3 => some .n16x2
  | 4 => some .s8x4
  | 5 => some .n8x4
  | 6 => some .f32
  | 7 => some .bf16x2
  | 8 => some .f16x2
  | _ => none

/-- A tag operation from OP and the argument laid out as F5 [7:0] (R84). -/
def tagOpOf (op arg : Nat) : Except Reject TagOp :=
  let ofs := fld arg 7 4 4
  let wid := fld arg 1 0 2
  if bits arg 3 2 != 0 then .error .tagOp
  else match op with
    | 0 => if arg == 0 then .ok .keep else .error .tagOp
    | 1 => .ok (.enter ofs wid)
    | 2 => .ok (.next ofs wid)
    | 3 => .ok (.leave ofs wid)
    | _ => .error .tagOp

/-- The argument of a tag operation laid out as F5 [7:0] (R84). -/
def tagOpArg (op : TagOp) : Nat :=
  match tagOpLevel op with
  | none => 0
  | some (o, w) => o * 16 + w

/-- F5 or TAGOP, 20 bits (R84, R118). -/
def decodeTagOp (v : Nat) : Except Reject TagOp :=
  if bits v 15 8 != 0 then .error .tagOp
  else match tagOpOf (bits v 19 16) (bits v 7 0) with
    | .ok op => if tagOpOk op then .ok op else .error .tagOp
    | .error e => .error e

/-- F5 as encoded (R84). -/
def encodeTagOp (op : TagOp) : Nat := tagOpCode op * 2 ^ 16 + tagOpArg op

/-! ## Element instructions -/

/-- A target field (R82). -/
def decodeTarget (v : Nat) : Except Reject Target :=
  let w := fld v 5 4 2
  let s := fld v 3 0 4
  if bits v 8 6 != 0 then .error .target
  else match bits v 19 18 with
    | 0 => if v == 0 then .ok Target.nil else .error .target
    | 1 => .ok { dest := .slot (fld v 15 9 7) (fld v 17 16 2), whenP := w, slv := s }
    | 2 =>
      if bits v 17 16 != 0 || bits v 15 14 != 0 then .error .target
      else .ok { dest := .out (fld v 13 9 5), whenP := w, slv := s }
    | _ => .ok { dest := .node (fld v 15 9 7) (fld v 17 16 2), whenP := w, slv := s }

/-- A target field as encoded (R82). -/
def encodeTarget (t : Target) : Nat :=
  (match t.dest with
    | .none => 0
    | .slot n os => 1 * 2 ^ 18 + os.toNat * 2 ^ 16 + n.toNat * 2 ^ 9
    | .out n => 2 * 2 ^ 18 + n.toNat * 2 ^ 9
    | .node n os => 3 * 2 ^ 18 + os.toNat * 2 ^ 16 + n.toNat * 2 ^ 9) + t.whenP.toNat * 2 ^ 4 + t.slv.toNat

/-- F6 in the form that the opcode fixes (R85). -/
def decodeF6 (wave : Bool) (v : Nat) : Except Reject F6 :=
  if wave then
    if bits v 19 18 != 0 then .error .wave
    else .ok (.wave (fld v 17 12 6) (fld v 11 6 6) (fld v 5 0 6))
  else
    if bits v 19 4 != 0 then .error .predicate
    else .ok (.pred (flag v 3) (fld v 2 0 3))

/-- F6 as encoded (R85). -/
def encodeF6 : F6 → Nat
  | .pred inv p => b2n inv * 8 + p.toNat
  | .wave p o s => p.toNat * 2 ^ 12 + o.toNat * 2 ^ 6 + s.toNat

/-- SUB of F4 (R83). -/
def decodeSub (n : Nat) : Except Reject (Option (BitVec 2)) :=
  if n == 0 then .ok none
  else if 8 ≤ n && n ≤ 11 then .ok (some (BitVec.ofNat 2 (n - 8)))
  else .error .sub

/-- SUB as encoded (R83). -/
def encodeSub : Option (BitVec 2) → Nat
  | none => 0
  | some s => 8 + s.toNat

/-- The eight fields of a slot, F0 first, and the upper half of a WIDE immediate (R73, R74). -/
structure SlotFields where
  f : List Nat
  wide : Option (BitVec 16)
  deriving DecidableEq, Repr

/-- The element instruction that a slot's fields encode (R79 to R89). A rejection makes the element BLOCKED. -/
def decodeElem (s : SlotFields) : Except Reject Instr := do
  let f := fun i => s.f.getD i 0
  match elemRow (bits (f 0) 19 11) with
  | none => .error .opcode
  | some r =>
    match typeOf (bits (f 0) 10 7) with
    | none => .error .typeCode
    | some ty =>
      let t1 ← decodeTarget (f 1)
      let t2 ← decodeTarget (f 2)
      let t3 ← decodeTarget (f 3)
      let sub ← decodeSub (bits (f 4) 19 16)
      let op ← decodeTagOp (f 5)
      let f6 ← decodeF6 r.wave (f 6)
      if bits (f 7) 13 7 != 0 then .error .field7
      else
        let a : ElemArgs := {
          ty := ty, arity := fld (f 0) 6 5 2, ma := maOf (bits (f 0) 4 3), cond := fld (f 0) 2 0 3,
          t1 := t1, t2 := t2, t3 := t3, sub := sub, imm := fld (f 4) 15 0 16, wide := s.wide,
          tagOp := op, f6 := f6, task := fld (f 7) 19 14 6, pofs := fld (f 7) 6 0 7 }
        match elemReject r a with
        | some e => .error e
        | none => .ok (r.make a)

/-- The slot fields of an element instruction (R79 to R86). -/
def encodeElem (opc : Nat) (a : ElemArgs) : SlotFields :=
  { f := [opc * 2 ^ 11 + typeCode a.ty * 2 ^ 7 + a.arity.toNat * 2 ^ 5 + maCode a.ma * 2 ^ 3 + a.cond.toNat,
      encodeTarget a.t1, encodeTarget a.t2, encodeTarget a.t3,
      encodeSub a.sub * 2 ^ 16 + a.imm.toNat, encodeTagOp a.tagOp, encodeF6 a.f6,
      a.task.toNat * 2 ^ 14 + a.pofs.toNat],
    wide := a.wide }

/-! ## Configuration words -/

/-- A FIELD, FRAME or WIDE word (R71 to R75). Kind 11 and the reserved forms of R76 are rejected, and of CNEXT a tag operation that is no
encoding of F5: a reserved OP, or a `keep` with an argument. The frame field of a CNEXT of kind 1, 2 or 3 is ignored, and a BOUT of kind 1
with a bit in [18:16] is rejected: the model's choices (assumption log 35). -/
def decodeConfig (w : Word) : Except Reject Instr :=
  let x := w.toNat
  match bits x 31 30 with
  | 0 => .ok (.field (fld x 29 23 7) (fld x 22 20 3) (fld x 19 0 20))
  | 2 => if bits x 29 20 != 0 then .error .reserved else .ok (.wide (fld x 19 0 20))
  | 3 => .error .kind
  | _ =>
    match bits x 29 26 with
    | 0x0 => if bits x 10 0 != 0 then .error .reserved
             else .ok (.frameOpen (fld x 25 23 3) (fld x 22 17 6) (fld x 16 11 6))
    | 0x1 => if bits x 22 0 != 0 then .error .reserved else .ok (.frameClose (fld x 25 23 3))
    | 0x2 => if bits x 24 0 != 0 then .error .reserved else .ok (.framePlace (flag x 25))
    | 0x3 => if bits x 11 0 != 0 then .error .reserved
             else .ok (.frameBin (fld x 25 21 5) (fld x 20 14 7) (fld x 13 12 2))
    | 0x4 =>
      match bits x 20 19 with
      | 0 => if bits x 10 0 != 0 then .error .reserved
             else .ok (.boutFrameInput (fld x 25 21 5) (fld x 18 16 3) (fld x 15 11 5))
      | 1 => if bits x 18 16 != 0 || bits x 10 0 != 0 then .error .reserved
             else .ok (.boutThisInput (fld x 25 21 5) (fld x 15 11 5))
      | 2 => if bits x 9 0 != 0 then .error .reserved
             else .ok (.boutNodePort (fld x 25 21 5) (fld x 18 12 7) (fld x 11 10 2))
      | _ => .error .reserved
    | 0x5 =>
      if bits x 8 0 != 0 then .error .reserved
      else if bits x 25 24 == 3 && bits x 20 9 != 0 then .error .reserved
      else match tagOpOf (bits x 20 17) (bits x 16 9) with
        | .error e => .error e
        | .ok op => .ok (.cnext (fld x 25 24 2) (fld x 23 21 3) op)
    | 0x6 => if bits x 25 17 != 0 then .error .reserved else .ok (.cset (flag x 16) (fld x 15 0 16))
    | 0x7 => .ok (.hbind (fld x 25 20 6) (fld x 19 14 6) (fld x 13 0 14))
    | 0x8 => if bits x 13 0 != 0 then .error .reserved else .ok (.hfree (fld x 25 20 6) (fld x 19 14 6))
    | _ => .error .opcode

/-- A FRAME word from its command and argument (R71, R75). -/
def frameWord (cmd arg : Nat) : Word := BitVec.ofNat 32 (1 * 2 ^ 30 + cmd * 2 ^ 26 + arg)

/-- The configuration word of an instruction, none for every other instruction (R71 to R75). -/
def encodeConfig : Instr → Option Word
  | .field s f v => some (BitVec.ofNat 32 (s.toNat * 2 ^ 23 + f.toNat * 2 ^ 20 + v.toNat))
  | .wide u => some (BitVec.ofNat 32 (2 * 2 ^ 30 + u.toNat))
  | .frameOpen f i o => some (frameWord 0 (f.toNat * 2 ^ 23 + i.toNat * 2 ^ 17 + o.toNat * 2 ^ 11))
  | .frameClose f => some (frameWord 1 (f.toNat * 2 ^ 23))
  | .framePlace p => some (frameWord 2 (b2n p * 2 ^ 25))
  | .frameBin i s o => some (frameWord 3 (i.toNat * 2 ^ 21 + s.toNat * 2 ^ 14 + o.toNat * 2 ^ 12))
  | .boutFrameInput o f i => some (frameWord 4 (o.toNat * 2 ^ 21 + f.toNat * 2 ^ 16 + i.toNat * 2 ^ 11))
  | .boutThisInput o i => some (frameWord 4 (o.toNat * 2 ^ 21 + 1 * 2 ^ 19 + i.toNat * 2 ^ 11))
  | .boutNodePort o n s => some (frameWord 4 (o.toNat * 2 ^ 21 + 2 * 2 ^ 19 + n.toNat * 2 ^ 12 + s.toNat * 2 ^ 10))
  | .cnext k f op => some (frameWord 5 (k.toNat * 2 ^ 24 + f.toNat * 2 ^ 21 + tagOpCode op * 2 ^ 17 + tagOpArg op * 2 ^ 9))
  | .cset h b => some (frameWord 6 (b2n h * 2 ^ 16 + b.toNat))
  | .hbind n t h => some (frameWord 7 (n.toNat * 2 ^ 20 + t.toNat * 2 ^ 14 + h.toNat))
  | .hfree n t => some (frameWord 8 (n.toNat * 2 ^ 20 + t.toNat * 2 ^ 14))
  | _ => none

/-! ## Node commands -/

/-- A vector command (R91, R92). -/
def decodeVector (w : Word) : Except Reject Instr :=
  let x := w.toNat
  let op := bits x 31 26
  if op == 0x12 then .ok (.vtileRd (fld x 25 22 4) (fld x 21 14 8) (fld x 13 0 14))
  else if op == 0x13 then .ok (.vtileWr (fld x 25 22 4) (fld x 21 14 8) (fld x 13 0 14))
  else match vecRow op, vtOf (bits x 25 23) with
    | none, _ => .error .opcode
    | _, none => .error .typeCode
    | some r, some vt =>
      let v : VArgs := { vt := vt, d := fld x 22 18 5, a := fld x 17 13 5, b := fld x 12 8 5, c := fld x 7 3 5,
                         mod := fld x 2 0 3 }
      match vecReject r v with
      | some e => .error e
      | none => .ok (r.make v)

/-- The vector command word of an instruction (R91). -/
def encodeVector (i : Instr) : Option Word :=
  match vecParts i with
  | some (op, v) => some (BitVec.ofNat 32 (op * 2 ^ 26 + vtCode v.vt * 2 ^ 23 + v.d.toNat * 2 ^ 18 + v.a.toNat * 2 ^ 13 +
      v.b.toNat * 2 ^ 8 + v.c.toNat * 2 ^ 3 + v.mod.toNat))
  | none =>
    match i with
    | .vtileRd w t r => some (BitVec.ofNat 32 (0x12 * 2 ^ 26 + w.toNat * 2 ^ 22 + t.toNat * 2 ^ 14 + r.toNat))
    | .vtileWr w t r => some (BitVec.ofNat 32 (0x13 * 2 ^ 26 + w.toNat * 2 ^ 22 + t.toNat * 2 ^ 14 + r.toNat))
    | _ => none

/-- A matrix command (R93). -/
def decodeMatrix (w : Word) : Except Reject Instr :=
  let x := w.toNat
  match bits x 31 26 with
  | 0x00 =>
    if bits x 6 0 != 0 then .error .reserved
    else match fmtOf (bits x 25 22) with
      | none => .error .typeCode
      | some f => if mwLoadOk f (bits x 21 20) then .ok (.mwLoad f (fld x 21 20 2) (flag x 19) (fld x 18 7 12))
                  else .error .typeCode
  | 0x01 => if bits x 25 20 != 0 || bits x 18 0 != 0 then .error .reserved else .ok (.mwSwap (flag x 19))
  | 0x02 =>
    if bits x 6 0 != 0 then .error .reserved
    else match fmtOf (bits x 25 22) with
      | none => .error .typeCode
      | some f => if mmRunOk f then .ok (.mmRun f (fld x 21 20 2) (fld x 19 7 13)) else .error .typeCode
  | 0x03 => if bits x 25 19 != 0 || bits x 10 0 != 0 then .error .reserved else .ok (.mmZp (fld x 18 11 8))
  | 0x04 => if bits x 25 20 != 0 || bits x 18 0 != 0 then .error .reserved else .ok (.mmRec (flag x 19))
  | 0x05 =>
    if bits x 25 22 != 0 || bits x 19 16 != 0 then .error .reserved
    else if bits x 15 0 == 0 then .error .count
    else .ok (.mmEnd (fld x 21 20 2) (fld x 15 0 16))
  | _ => .error .opcode

/-- An accumulator command (R93). -/
def decodeAcc (w : Word) : Except Reject Instr :=
  let x := w.toNat
  match bits x 31 26 with
  | 0x06 => if bits x 25 20 != 0 || bits x 11 0 != 0 then .error .reserved else .ok (.accCfg (fld x 19 12 8))
  | 0x07 => if bits x 25 0 != 0 then .error .reserved else .ok .accRel
  | _ => .error .opcode

/-- A converter command (R94). -/
def decodeConv (w : Word) : Except Reject Instr :=
  let x := w.toNat
  match fmtOf (bits x 25 22), fmtOf (bits x 21 18) with
  | some s, some d =>
    let c : CvArgs := { s := s, d := d, rto := flag x 17, grp := fld x 16 15 2, tile := fld x 14 7 8 }
    match bits x 31 26 with
    | 0x00 => if bits x 6 0 != 0 then .error .reserved else if cvqOk c then .ok (.cvq c) else .error .typeCode
    | 0x01 => if bits x 6 0 != 0 then .error .reserved else if cvdqOk c then .ok (.cvdq c) else .error .typeCode
    | 0x02 => if bits x 16 0 != 0 then .error .reserved
              else if cvfOk s d (flag x 17) then .ok (.cvf s d (flag x 17)) else .error .typeCode
    | _ => .error .opcode
  | _, _ => .error .typeCode

/-- A node command on a node of the given kind (R93, R95): an opcode is valid only on its own kind. -/
def decodeNode (k : NodeKind) (w : Word) : Except Reject Instr :=
  match k with
  | .vector => decodeVector w
  | .matrix => decodeMatrix w
  | .acc => decodeAcc w
  | .conv => decodeConv w

/-- A converter command word. -/
def convWord (op : Nat) (c : CvArgs) : Word :=
  BitVec.ofNat 32 (op * 2 ^ 26 + fmtCode c.s * 2 ^ 22 + fmtCode c.d * 2 ^ 18 + b2n c.rto * 2 ^ 17 + c.grp.toNat * 2 ^ 15 +
    c.tile.toNat * 2 ^ 7)

/-- The matrix, accumulator or converter command word of an instruction (R93, R94). -/
def encodeMatrix : Instr → Option Word
  | .mwLoad f g b r => some (BitVec.ofNat 32 (fmtCode f * 2 ^ 22 + g.toNat * 2 ^ 20 + b2n b * 2 ^ 19 + r.toNat * 2 ^ 7))
  | .mwSwap b => some (BitVec.ofNat 32 (0x01 * 2 ^ 26 + b2n b * 2 ^ 19))
  | .mmRun f a n => some (BitVec.ofNat 32 (0x02 * 2 ^ 26 + fmtCode f * 2 ^ 22 + a.toNat * 2 ^ 20 + n.toNat * 2 ^ 7))
  | .mmZp t => some (BitVec.ofNat 32 (0x03 * 2 ^ 26 + t.toNat * 2 ^ 11))
  | .mmRec b => some (BitVec.ofNat 32 (0x04 * 2 ^ 26 + b2n b * 2 ^ 19))
  | .mmEnd a c => some (BitVec.ofNat 32 (0x05 * 2 ^ 26 + a.toNat * 2 ^ 20 + c.toNat))
  | .accCfg e => some (BitVec.ofNat 32 (0x06 * 2 ^ 26 + e.toNat * 2 ^ 12))
  | .accRel => some (BitVec.ofNat 32 (0x07 * 2 ^ 26))
  | .cvq c => some (convWord 0x00 c)
  | .cvdq c => some (convWord 0x01 c)
  | .cvf s d r => some (convWord 0x02 { s := s, d := d, rto := r, grp := 0, tile := 0 })
  | _ => none

/-! ## Sequencer instructions -/

/-- A sequencer instruction (R96, R97, R113, R117). A rejection is an illegal instruction. -/
def decodeSeq (w : Word) : Except Reject Instr :=
  let x := w.toNat
  let st := fld x 31 29 3
  let p := fld x 21 17 5
  let q := fld x 16 12 5
  let r := fld x 11 7 5
  let imm := fld x 11 0 12
  let rsvR := bits x 6 0 != 0
  let sh := fld x 5 0 6
  let rsvSh := bits x 11 6 != 0
  match bits x 28 22 with
  | 0x00 => if rsvR then .error .reserved else .ok (.seqAdd st p q r)
  | 0x01 => if rsvR then .error .reserved else .ok (.seqSub st p q r)
  | 0x02 => if rsvR then .error .reserved else .ok (.seqAnd st p q r)
  | 0x03 => if rsvR then .error .reserved else .ok (.seqOr st p q r)
  | 0x04 => if rsvR then .error .reserved else .ok (.seqXor st p q r)
  | 0x05 => if rsvR then .error .reserved else .ok (.seqShl st p q r)
  | 0x06 => if rsvR then .error .reserved else .ok (.seqShr st p q r)
  | 0x07 => if rsvR then .error .reserved else .ok (.seqSra st p q r)
  | 0x08 => if rsvR then .error .reserved else .ok (.seqMul st p q r)
  | 0x09 => if rsvR then .error .reserved else .ok (.seqSlt st p q r)
  | 0x0A => if rsvR then .error .reserved else .ok (.seqSltu st p q r)
  | 0x10 => .ok (.seqAddi st p q imm)
  | 0x11 => .ok (.seqAndi st p q imm)
  | 0x12 => .ok (.seqOri st p q imm)
  | 0x13 => .ok (.seqXori st p q imm)
  | 0x14 => if rsvSh then .error .reserved else .ok (.seqShli st p q sh)
  | 0x15 => if rsvSh then .error .reserved else .ok (.seqShri st p q sh)
  | 0x16 => if rsvSh then .error .reserved else .ok (.seqSrai st p q sh)
  | 0x17 => .ok (.seqSlti st p q imm)
  | 0x18 => .ok (.seqLui st p (fld x 16 0 17))
  | 0x20 => .ok (.seqLd st p q imm)
  | 0x21 => .ok (.seqLw st p q imm)
  | 0x22 => .ok (.seqSd st p q imm)
  | 0x23 => .ok (.seqSw st p q imm)
  | 0x28 => .ok (.seqBeq st p q imm)
  | 0x29 => .ok (.seqBne st p q imm)
  | 0x2A => .ok (.seqBlt st p q imm)
  | 0x2B => .ok (.seqBge st p q imm)
  | 0x2C => .ok (.seqBltu st p q imm)
  | 0x2D => .ok (.seqBgeu st p q imm)
  | 0x2E => .ok (.seqJal st p (fld x 16 0 17))
  | 0x2F => .ok (.seqJalr st p q imm)
  | 0x40 => if bits x 16 12 != 0 || bits x 7 6 != 0 then .error .reserved
            else .ok (.sbind st p (fld x 11 8 4) (fld x 5 0 6))
  | 0x41 => if bits x 16 12 != 0 || bits x 7 0 != 0 then .error .reserved else .ok (.sgo st p (fld x 11 8 4))
  | 0x42 => if bits x 16 12 != 0 || bits x 7 0 != 0 then .error .reserved else .ok (.swait st p (fld x 11 8 4))
  | 0x43 => if bits x 16 0 != 0 then .error .reserved else .ok (.bpush st p)
  | 0x44 => if bits x 21 3 != 0 then .error .reserved else .ok (.bframe st (fld x 2 0 3))
  | 0x45 => if bits x 16 1 != 0 then .error .reserved
            else if flag x 0 then .ok (.qpopNb st p) else .ok (.qpop st p)
  | 0x46 => if bits x 11 0 != 0 then .error .reserved else .ok (.cwait st p q)
  | 0x47 => if bits x 11 1 != 0 then .error .reserved
            else if flag x 0 then .ok (.cosigAdd st p q) else .ok (.cosig st p q)
  | 0x48 => if bits x 16 1 != 0 then .error .reserved
            else if flag x 0 then .ok (.pbarFinal st p) else .ok (.pbar st p)
  | 0x49 => if bits x 21 8 != 0 then .error .reserved else .ok (.seqTrap st (fld x 7 0 8))
  | 0x4A => if bits x 21 0 != 0 then .error .reserved else .ok (.eret st)
  | 0x4B => if bits x 16 8 != 0 then .error .reserved else .ok (.srd st p (fld x 7 0 8))
  | 0x4C => if bits x 16 8 != 0 then .error .reserved else .ok (.swr st p (fld x 7 0 8))
  | 0x4D => if bits x 21 0 != 0 then .error .reserved else .ok (.halt st)
  | _ => .error .opcode

/-- A sequencer word from stall, opcode and the low 22 bits (R96). -/
def seqWord (st : BitVec 3) (op low : Nat) : Word := BitVec.ofNat 32 (st.toNat * 2 ^ 29 + op * 2 ^ 22 + low)

/-- The low 22 bits of the forms with two register fields (R96). -/
def seqLow (p q : BitVec 5) (low : Nat) : Nat := p.toNat * 2 ^ 17 + q.toNat * 2 ^ 12 + low

/-- The sequencer instruction word of an instruction (R96, R97, R117). -/
def encodeSeq : Instr → Option Word
  | .seqAdd st p q r => some (seqWord st 0x00 (seqLow p q (r.toNat * 2 ^ 7)))
  | .seqSub st p q r => some (seqWord st 0x01 (seqLow p q (r.toNat * 2 ^ 7)))
  | .seqAnd st p q r => some (seqWord st 0x02 (seqLow p q (r.toNat * 2 ^ 7)))
  | .seqOr st p q r => some (seqWord st 0x03 (seqLow p q (r.toNat * 2 ^ 7)))
  | .seqXor st p q r => some (seqWord st 0x04 (seqLow p q (r.toNat * 2 ^ 7)))
  | .seqShl st p q r => some (seqWord st 0x05 (seqLow p q (r.toNat * 2 ^ 7)))
  | .seqShr st p q r => some (seqWord st 0x06 (seqLow p q (r.toNat * 2 ^ 7)))
  | .seqSra st p q r => some (seqWord st 0x07 (seqLow p q (r.toNat * 2 ^ 7)))
  | .seqMul st p q r => some (seqWord st 0x08 (seqLow p q (r.toNat * 2 ^ 7)))
  | .seqSlt st p q r => some (seqWord st 0x09 (seqLow p q (r.toNat * 2 ^ 7)))
  | .seqSltu st p q r => some (seqWord st 0x0A (seqLow p q (r.toNat * 2 ^ 7)))
  | .seqAddi st p q i => some (seqWord st 0x10 (seqLow p q i.toNat))
  | .seqAndi st p q i => some (seqWord st 0x11 (seqLow p q i.toNat))
  | .seqOri st p q i => some (seqWord st 0x12 (seqLow p q i.toNat))
  | .seqXori st p q i => some (seqWord st 0x13 (seqLow p q i.toNat))
  | .seqSlti st p q i => some (seqWord st 0x17 (seqLow p q i.toNat))
  | .seqLd st p q i => some (seqWord st 0x20 (seqLow p q i.toNat))
  | .seqLw st p q i => some (seqWord st 0x21 (seqLow p q i.toNat))
  | .seqSd st p q i => some (seqWord st 0x22 (seqLow p q i.toNat))
  | .seqSw st p q i => some (seqWord st 0x23 (seqLow p q i.toNat))
  | .seqBeq st p q i => some (seqWord st 0x28 (seqLow p q i.toNat))
  | .seqBne st p q i => some (seqWord st 0x29 (seqLow p q i.toNat))
  | .seqBlt st p q i => some (seqWord st 0x2A (seqLow p q i.toNat))
  | .seqBge st p q i => some (seqWord st 0x2B (seqLow p q i.toNat))
  | .seqBltu st p q i => some (seqWord st 0x2C (seqLow p q i.toNat))
  | .seqBgeu st p q i => some (seqWord st 0x2D (seqLow p q i.toNat))
  | .seqJalr st p q i => some (seqWord st 0x2F (seqLow p q i.toNat))
  | .seqShli st p q i => some (seqWord st 0x14 (seqLow p q i.toNat))
  | .seqShri st p q i => some (seqWord st 0x15 (seqLow p q i.toNat))
  | .seqSrai st p q i => some (seqWord st 0x16 (seqLow p q i.toNat))
  | .seqLui st p i => some (seqWord st 0x18 (p.toNat * 2 ^ 17 + i.toNat))
  | .seqJal st p i => some (seqWord st 0x2E (p.toNat * 2 ^ 17 + i.toNat))
  | .sbind st p a n => some (seqWord st 0x40 (p.toNat * 2 ^ 17 + a.toNat * 2 ^ 8 + n.toNat))
  | .sgo st p a => some (seqWord st 0x41 (p.toNat * 2 ^ 17 + a.toNat * 2 ^ 8))
  | .swait st p a => some (seqWord st 0x42 (p.toNat * 2 ^ 17 + a.toNat * 2 ^ 8))
  | .bpush st p => some (seqWord st 0x43 (p.toNat * 2 ^ 17))
  | .bframe st f => some (seqWord st 0x44 f.toNat)
  | .qpop st p => some (seqWord st 0x45 (p.toNat * 2 ^ 17))
  | .qpopNb st p => some (seqWord st 0x45 (p.toNat * 2 ^ 17 + 1))
  | .cwait st p q => some (seqWord st 0x46 (seqLow p q 0))
  | .cosig st p q => some (seqWord st 0x47 (seqLow p q 0))
  | .cosigAdd st p q => some (seqWord st 0x47 (seqLow p q 1))
  | .pbar st p => some (seqWord st 0x48 (p.toNat * 2 ^ 17))
  | .pbarFinal st p => some (seqWord st 0x48 (p.toNat * 2 ^ 17 + 1))
  | .seqTrap st c => some (seqWord st 0x49 c.toNat)
  | .eret st => some (seqWord st 0x4A 0)
  | .srd st p n => some (seqWord st 0x4B (p.toNat * 2 ^ 17 + n.toNat))
  | .swr st p n => some (seqWord st 0x4C (p.toNat * 2 ^ 17 + n.toNat))
  | .halt st => some (seqWord st 0x4D 0)
  | _ => none

/-! ## Queue command records -/

/-- The common words of a record (R98, R99). -/
def decodeHeader (ws : List Word) : Except Reject CmdHeader :=
  let w1 := wordAt ws 1
  let wa := dwordAt ws 2
  let wv := dwordAt ws 4
  let sa := dwordAt ws 6
  let sv := dwordAt ws 8
  if bits (wordAt ws 0) 23 20 != 1 || bits (wordAt ws 0) 19 16 != 0 || bits w1 28 0 != 0 then .error .reserved
  else if !(flag w1 31) && (wa != 0 || wv != 0) then .error .reserved
  else if !(flag w1 30) && (sa != 0 || sv != 0) then .error .reserved
  else if wa % 8 != 0 || sa % 8 != 0 then .error .rule
  else .ok {
    cid := fld (wordAt ws 0) 15 0 16
    wait := if flag w1 31 then some (BitVec.ofNat 64 wa, BitVec.ofNat 64 wv) else none
    sig := if flag w1 30 then some (BitVec.ofNat 64 sa, BitVec.ofNat 64 sv) else none
    irq := flag w1 29 }

/-- All the listed words are zero. -/
def zeroWords (ws : List Word) (is : List Nat) : Bool := is.all fun i => wordAt ws i == 0

/-- The payload words 10 to 15 of each command (R138, R400, R403, R407, R411, R412, R442). -/
def decodePayload (opcode : Nat) (h : CmdHeader) (ws : List Word) : Except Reject Instr :=
  let w := wordAt ws
  let d := fun i => BitVec.ofNat 64 (dwordAt ws i)
  let guard := fun (c : Bool) (i : Instr) => if c then (Except.ok i : Except Reject Instr) else .error .reserved
  match opcode with
  | 0x01 =>
    let p : LaunchCmd := {
      chain := d 10, hbase := d 12, cmask := fld (w 14) 31 16 16, sdom := fld (w 14) 9 0 10,
      sdv := flag (w 15) 31, kpol := flag (w 15) 30, role := flag (w 15) 29, partw := fld (w 15) 23 0 24 }
    guard (bits (w 14) 15 10 == 0 && bits (w 15) 28 24 == 0 && p.wf) (.launch h p)
  | 0x02 => guard (zeroWords ws [12, 13, 14, 15]) (.chain h (d 10))
  | 0x03 => guard (zeroWords ws [13, 14, 15] && w 12 % 4 == 0) (.capRead h (d 10) (BitVec.ofNat 32 (w 12)))
  | 0x04 => guard (zeroWords ws [12, 13, 14, 15]) (.healthRead h (d 10))
  | 0x05 => guard (bits (w 10) 31 2 == 0 && zeroWords ws [11, 12, 13, 14, 15]) (.modeSet h (fld (w 10) 1 0 2))
  | 0x06 =>
    let p : PartCmd := {
      part := fld (w 10) 2 0 3, mask := fld (w 10) 15 8 8, vf := fld (w 10) 19 16 4, isSealed := flag (w 10) 20,
      first := fld (w 11) 15 0 16, count := fld (w 11) 31 16 16, root := d 12 }
    guard (bits (w 10) 7 3 == 0 && bits (w 10) 31 21 == 0 && zeroWords ws [14, 15] && p.wf)
      (if p.mask == 0 then .partitionTeardown h p else .partitionCfg h p)
  | 0x07 =>
    let p : RankCmd := {
      job := fld (w 10) 27 16 12, rank := fld (w 10) 11 0 12, package := fld (w 11) 15 0 16, part := fld (w 11) 18 16 3,
      ports := BitVec.ofNat 96 (w 12 + w 13 * 2 ^ 32 + w 14 * 2 ^ 64) }
    guard (bits (w 10) 31 28 == 0 && bits (w 10) 15 12 == 0 && bits (w 11) 31 19 == 0 && zeroWords ws [15]) (.rankSet h p)
  | 0x08 =>
    let p : InvalCmd := { start := d 10, length := d 12, asid := fld (w 14) 31 16 16, sizes := fld (w 14) 3 0 4 }
    guard (bits (w 14) 15 4 == 0 && zeroWords ws [15]) (.invalRange h p)
  | 0x09 =>
    if flag (w 10) 31 then
      guard (bits (w 10) 30 0 == 0 && zeroWords ws [12, 13, 14, 15]) (.ringRestartFaultRing h (BitVec.ofNat 32 (w 11)))
    else
      guard (bits (w 10) 30 17 == 0 && zeroWords ws [12, 13, 14, 15])
        (.ringRestart h (fld (w 10) 16 0 17) (BitVec.ofNat 32 (w 11)))
  | 0x0A => guard (bits (w 10) 31 17 == 0 && zeroWords ws [11, 14, 15]) (.preempt h (fld (w 10) 16 0 17) (d 12))
  | 0x0B => guard (bits (w 10) 31 17 == 0 && zeroWords ws [11, 14, 15]) (.resume h (fld (w 10) 16 0 17) (d 12))
  | 0x10 =>
    let p : SealCmd := { sdom := fld (w 10) 9 0 10, nchunk := BitVec.ofNat 32 (w 11), src := d 12, dst := d 14 }
    if bits (w 10) 27 10 != 0 then .error .reserved
    else match bits (w 10) 31 28 with
      | 0 => guard (p.wf false) (.sealLoadCreate h p)
      | 1 => guard (p.wf true) (.sealLoadImport h p)
      | 2 => guard (p.wf false) (.sealLoadDestroy h p)
      | _ => .error .rule
  | 0x11 =>
    let p : SessCmd := { sdom := fld (w 10) 9 0 10, sid := BitVec.ofNat 32 (w 11), msg := d 12, rsp := d 14 }
    if bits (w 10) 27 10 != 0 then .error .reserved
    else match bits (w 10) 31 28 with
      | 0 => guard (p.wf false) (.sessionOpen h p)
      | 1 => guard (p.wf true) (.sessionClose h p)
      | _ => .error .rule
  | 0x12 =>
    if flag (w 10) 31 then
      guard (bits (w 10) 30 8 == 0 && zeroWords ws [11, 12, 13, 14, 15]) (.replyUnbind h (fld (w 10) 7 0 8))
    else
      let p : BindCmd := {
        sdom := fld (w 10) 25 16 10, b := fld (w 10) 7 0 8, sid := BitVec.ofNat 32 (w 11), base := d 12,
        size := fld (w 14) 15 0 16, sv := flag (w 15) 31, q := fld (w 15) 9 0 10 }
      guard (bits (w 10) 30 26 == 0 && bits (w 10) 15 8 == 0 && bits (w 14) 31 16 == 0 && bits (w 15) 30 10 == 0)
        (.replyBind h p)
  | 0x13 =>
    let p : SignCmd := { sdv := flag (w 10) 10, sdom := fld (w 10) 9 0 10, sid := BitVec.ofNat 32 (w 11), dst := d 12 }
    if bits (w 10) 27 11 != 0 || !(zeroWords ws [14, 15]) then .error .reserved
    else match bits (w 10) 31 28 with
      | 0 => .ok (.usageSignReport h p)
      | 1 => .ok (.usageSignUsage h p)
      | _ => .error .rule
  | 0x14 =>
    let p : AdmitCmd := {
      aid := fld (w 10) 27 16 12, sdom := fld (w 10) 9 0 10, size := BitVec.ofNat 32 (w 11), src := d 12, dst := d 14 }
    if bits (w 10) 15 10 != 0 then .error .reserved
    else match bits (w 10) 31 28 with
      | 0 => guard (p.wf false) (.kernelAdmitLibrary h p)
      | 1 => guard (p.wf false) (.kernelAdmitRaw h p)
      | 2 => guard (p.wf true) (.kernelAdmitRevoke h p)
      | _ => .error .rule
  | _ => .error .opcode

/-- A 64-byte queue command record (R98, R99). A rejection is the status BADCMD. -/
def decodeCommand (ws : List Word) : Except Reject Instr :=
  match decodeHeader ws with
  | .error e => .error e
  | .ok h => decodePayload (bits (wordAt ws 0) 31 24) h ws

/-- The two words of a 64-bit field. -/
def dw (x : DWord) : List Word := splitWords x.toNat 2

/-- A word from a number. -/
def wd (n : Nat) : Word := BitVec.ofNat 32 n

/-- A record from its opcode, header and payload words (R98). -/
def commandWords (op : Nat) (h : CmdHeader) (payload : List Word) : List Word :=
  let pair := fun (o : Option (DWord × DWord)) => match o with | none => [0, 0, 0, 0] | some (a, v) => dw a ++ dw v
  wd (op * 2 ^ 24 + 1 * 2 ^ 20 + h.cid.toNat) ::
  wd (b2n h.wait.isSome * 2 ^ 31 + b2n h.sig.isSome * 2 ^ 30 + b2n h.irq * 2 ^ 29) ::
  pair h.wait ++ pair h.sig ++ payload

/-- The record of a queue command, none for every other instruction (R98, R99, R138). -/
def encodeCommand : Instr → Option (List Word)
  | .launch h p => some (commandWords 0x01 h (dw p.chain ++ dw p.hbase ++
      [wd (p.cmask.toNat * 2 ^ 16 + p.sdom.toNat),
       wd (b2n p.sdv * 2 ^ 31 + b2n p.kpol * 2 ^ 30 + b2n p.role * 2 ^ 29 + p.partw.toNat)]))
  | .chain h b => some (commandWords 0x02 h (dw b ++ [0, 0, 0, 0]))
  | .capRead h d l => some (commandWords 0x03 h (dw d ++ [l, 0, 0, 0]))
  | .healthRead h d => some (commandWords 0x04 h (dw d ++ [0, 0, 0, 0]))
  | .modeSet h m => some (commandWords 0x05 h [wd m.toNat, 0, 0, 0, 0, 0])
  | .partitionCfg h p => some (partWords h p)
  | .partitionTeardown h p => some (partWords h p)
  | .rankSet h p => some (commandWords 0x07 h
      ([wd (p.job.toNat * 2 ^ 16 + p.rank.toNat), wd (p.part.toNat * 2 ^ 16 + p.package.toNat)] ++
        splitWords p.ports.toNat 3 ++ [0]))
  | .invalRange h p => some (commandWords 0x08 h (dw p.start ++ dw p.length ++
      [wd (p.asid.toNat * 2 ^ 16 + p.sizes.toNat), 0]))
  | .ringRestart h o x => some (commandWords 0x09 h [wd o.toNat, x, 0, 0, 0, 0])
  | .ringRestartFaultRing h x => some (commandWords 0x09 h [wd (2 ^ 31), x, 0, 0, 0, 0])
  | .preempt h o a => some (commandWords 0x0A h ([wd o.toNat, 0] ++ dw a ++ [0, 0]))
  | .resume h o a => some (commandWords 0x0B h ([wd o.toNat, 0] ++ dw a ++ [0, 0]))
  | .sealLoadCreate h p => some (sealWords 0 h p)
  | .sealLoadImport h p => some (sealWords 1 h p)
  | .sealLoadDestroy h p => some (sealWords 2 h p)
  | .sessionOpen h p => some (sessWords 0 h p)
  | .sessionClose h p => some (sessWords 1 h p)
  | .replyBind h p => some (commandWords 0x12 h ([wd (p.sdom.toNat * 2 ^ 16 + p.b.toNat), p.sid] ++ dw p.base ++
      [wd p.size.toNat, wd (b2n p.sv * 2 ^ 31 + p.q.toNat)]))
  | .replyUnbind h b => some (commandWords 0x12 h [wd (2 ^ 31 + b.toNat), 0, 0, 0, 0, 0])
  | .usageSignReport h p => some (signWords 0 h p)
  | .usageSignUsage h p => some (signWords 1 h p)
  | .kernelAdmitLibrary h p => some (admitWords 0 h p)
  | .kernelAdmitRaw h p => some (admitWords 1 h p)
  | .kernelAdmitRevoke h p => some (admitWords 2 h p)
  | _ => none
where
  /-- PARTITION.CFG (R138). -/
  partWords (h : CmdHeader) (p : PartCmd) : List Word :=
    commandWords 0x06 h ([wd (p.part.toNat + p.mask.toNat * 2 ^ 8 + p.vf.toNat * 2 ^ 16 + b2n p.isSealed * 2 ^ 20),
      wd (p.first.toNat + p.count.toNat * 2 ^ 16)] ++ dw p.root ++ [0, 0])
  /-- SEAL.LOAD (R400). -/
  sealWords (m : Nat) (h : CmdHeader) (p : SealCmd) : List Word :=
    commandWords 0x10 h ([wd (m * 2 ^ 28 + p.sdom.toNat), p.nchunk] ++ dw p.src ++ dw p.dst)
  /-- SESSION.OPEN (R407). -/
  sessWords (m : Nat) (h : CmdHeader) (p : SessCmd) : List Word :=
    commandWords 0x11 h ([wd (m * 2 ^ 28 + p.sdom.toNat), p.sid] ++ dw p.msg ++ dw p.rsp)
  /-- USAGE.SIGN (R412). -/
  signWords (m : Nat) (h : CmdHeader) (p : SignCmd) : List Word :=
    commandWords 0x13 h ([wd (m * 2 ^ 28 + b2n p.sdv * 2 ^ 10 + p.sdom.toNat), p.sid] ++ dw p.dst ++ [0, 0])
  /-- KERNEL.ADMIT (R403). -/
  admitWords (m : Nat) (h : CmdHeader) (p : AdmitCmd) : List Word :=
    commandWords 0x14 h ([wd (m * 2 ^ 28 + p.aid.toNat * 2 ^ 16 + p.sdom.toNat), p.size] ++ dw p.src ++ dw p.dst)

/-! ## Fabric packets -/

/-- A packet from its header flit and data (R295). -/
def decodePacket (ws : List Word) (data : List Byte) : Packet :=
  let w := wordAt ws
  { ptype := fld (w 0) 31 24 8, ver := fld (w 0) 23 20 4, d := flag (w 0) 19, f := flag (w 0) 18, len := fld (w 0) 8 0 9,
    job := fld (w 1) 31 20 12, spart := fld (w 1) 14 12 3, srank := fld (w 1) 11 0 12,
    dpart := fld (w 2) 14 12 3, drank := fld (w 2) 11 0 12,
    gen := fld (w 3) 31 16 16, cid := fld (w 3) 15 8 8,
    reqid := fld (w 4) 31 16 16, seq := fld (w 4) 12 0 13,
    ty := fld (w 5) 31 28 4, op := fld (w 5) 27 24 4, wexp := fld (w 5) 23 16 8, ncon := fld (w 5) 15 4 12,
    sdv := flag (w 6) 31, tmo := fld (w 6) 25 16 10, sdom := fld (w 6) 9 0 10,
    va := BitVec.ofNat 57 (dwordAt ws 7),
    cnt := fld (w 9) 12 0 13, flg := fld (w 9) 18 16 3,
    val := BitVec.ofNat 128 (joinWords ((ws.drop 10).take 4)),
    tag := BitVec.ofNat 64 (dwordAt ws 14),
    data := data.take (bits (w 0) 8 0) }

/-- The header words of a packet (R295). -/
def encodePacket (p : Packet) : List Word :=
  [wd (p.ptype.toNat * 2 ^ 24 + p.ver.toNat * 2 ^ 20 + b2n p.d * 2 ^ 19 + b2n p.f * 2 ^ 18 + p.len.toNat),
   wd (p.job.toNat * 2 ^ 20 + p.spart.toNat * 2 ^ 12 + p.srank.toNat),
   wd (p.dpart.toNat * 2 ^ 12 + p.drank.toNat),
   wd (p.gen.toNat * 2 ^ 16 + p.cid.toNat * 2 ^ 8),
   wd (p.reqid.toNat * 2 ^ 16 + p.seq.toNat),
   wd (p.ty.toNat * 2 ^ 28 + p.op.toNat * 2 ^ 24 + p.wexp.toNat * 2 ^ 16 + p.ncon.toNat * 2 ^ 4),
   wd (b2n p.sdv * 2 ^ 31 + p.tmo.toNat * 2 ^ 16 + p.sdom.toNat)] ++
  splitWords p.va.toNat 2 ++ [wd (p.cnt.toNat + p.flg.toNat * 2 ^ 16)] ++ splitWords p.val.toNat 4 ++ splitWords p.tag.toNat 2

/-- The step that takes a packet, by its PTYPE (R295): a reserved PTYPE is discarded. -/
def packetInstr (p : Packet) : Instr :=
  match p.ptype.toNat with
  | 0x01 => .wr
  | 0x02 => .fabricOpen
  | 0x03 => .openack
  | 0x04 => .rel
  | 0x05 => .relnote
  | 0x06 => .resend
  | 0x07 => .fabricFail
  | 0x08 => .rldreq
  | 0x09 => .rldrep
  | 0x0A => .ratreq
  | 0x0B => .ratrep
  | 0x0C => .wcon
  | _ => .reservedPtypePacket

/-! ## One encoder and the table's words -/

/-- The words of a well-formed instruction: one word for a configuration word, node command or sequencer instruction; the eight
slot fields (and the WIDE upper half, where there is one) of an element instruction; sixteen words of a queue command. An event
has no words. -/
def encode (i : Instr) : List Word :=
  match encodeConfig i, encodeSeq i, encodeVector i, encodeMatrix i with
  | some w, _, _, _ => [w]
  | _, some w, _, _ => [w]
  | _, _, some w, _ => [w]
  | _, _, _, some w => [w]
  | _, _, _, _ =>
    match encodeCommand i, elemParts i with
    | some ws, _ => ws
    | _, some (opc, a) =>
      let s := encodeElem opc a
      s.f.map wd ++ (match s.wide with | none => [] | some u => [wd u.toNat])
    | _, _ => []

/-- The place an instruction word of the table is fetched from: the five spaces of 32-bit words share their values. -/
inductive WordSpace where
  | sequencer | config | vector | matrix | acc | conv
  deriving DecidableEq, Repr

/-- Decode a word in one space. -/
def decodeIn (sp : WordSpace) (w : Word) : Except Reject Instr :=
  match sp with
  | .sequencer => decodeSeq w
  | .config => decodeConfig w
  | .vector => decodeVector w
  | .matrix => decodeMatrix w
  | .acc => decodeAcc w
  | .conv => decodeConv w

/-- Whether a space accepts a word. -/
def accepts (sp : WordSpace) (w : Word) : Bool := (decodeIn sp w).toOption.isSome

/-- The space a bare table word is read in. FRAME and WIDE words come first, then sequencer instructions of stall 0, vector,
matrix, accumulator and converter commands, then FIELD words and sequencer instructions of any stall. The order is a choice
(assumption log 3): the table's rows of five spaces share words. -/
def spaceOf (w : Word) : Option WordSpace :=
  let k := bits w.toNat 31 30
  if (k == 1 || k == 2) && accepts .config w then some .config
  else if bits w.toNat 31 29 == 0 && accepts .sequencer w then some .sequencer
  else if accepts .vector w then some .vector
  else if accepts .matrix w then some .matrix
  else if accepts .acc w then some .acc
  else if accepts .conv w then some .conv
  else if accepts .config w then some .config
  else if accepts .sequencer w then some .sequencer
  else none

/-- The instruction this decoder reads from a table row's word. Every encoded row of the table is one 32-bit word. -/
def decodeTableWord (nbits w : Nat) : Option Instr :=
  if nbits == 0 then none
  else
    let x : Word := BitVec.ofNat 32 w
    match spaceOf x with
    | none => none
    | some sp => (decodeIn sp x).toOption

end Sys2Proof
end

