-- ==== Sys2Proof/Machine/Float.lean ====
section
/-! DEFINITION. Floating-point formats, rounding and the correctly rounded operations (05_number_formats R141 to R154, R169 to
R172, R174 to R176). Every value is computed exactly and rounded once. -/

namespace Sys2Proof.Machine

open Sys2Proof

/-- A binary floating-point format (R142): exponent and fraction widths, bias, whether the top exponent holds infinities and NaNs
(`ieee`), whether its all-ones pattern alone is NaN (`topNan`, E4M3). -/
structure FFmt where
  eb : Nat
  fb : Nat
  bias : Nat
  ieee : Bool
  topNan : Bool
  deriving DecidableEq, Repr

/-- FP32. -/
def fp32 : FFmt := ⟨8, 23, 127, true, false⟩
/-- FP16. -/
def fp16 : FFmt := ⟨5, 10, 15, true, false⟩
/-- BF16. -/
def bf16 : FFmt := ⟨8, 7, 127, true, false⟩
/-- E5M2. -/
def e5m2 : FFmt := ⟨5, 2, 15, true, false⟩
/-- E4M3. -/
def e4m3 : FFmt := ⟨4, 3, 7, false, true⟩
/-- E2M1. -/
def e2m1 : FFmt := ⟨2, 1, 1, false, false⟩

/-- The value of a pattern: a NaN with its sign and fraction, an infinity, or the finite value `m × 2 ^ e`. -/
inductive FVal where
  | nan (s : Bool) (f : Nat)
  | inf (s : Bool)
  | fin (s : Bool) (m : Nat) (e : Int)
  deriving DecidableEq, Repr

/-- Rounding modes (R151), and the two directed modes of `frnd` (R175). -/
inductive RMode where
  | rne | rto | rtz | down | up
  deriving DecidableEq, Repr

/-- Read a pattern (R142). -/
def fdecode (k : FFmt) (x : Nat) : FVal :=
  let s := bit x (k.eb + k.fb)
  let e := bits x (k.eb + k.fb - 1) k.fb
  let f := x % 2 ^ k.fb
  if k.ieee && e == 2 ^ k.eb - 1 then (if f == 0 then .inf s else .nan s f)
  else if k.topNan && e == 2 ^ k.eb - 1 && f == 2 ^ k.fb - 1 then .nan s f
  else if e == 0 then .fin s f (1 - (k.bias : Int) - k.fb)
  else .fin s (2 ^ k.fb + f) ((e : Int) - k.bias - k.fb)

/-- A sign bit in place. -/
def signBit (k : FFmt) (s : Bool) : Nat := b2n s * 2 ^ (k.eb + k.fb)

/-- Largest finite magnitude pattern (R142). -/
def maxFinite (k : FFmt) : Nat :=
  if k.ieee then (2 ^ k.eb - 1) * 2 ^ k.fb - 1
  else if k.topNan then 2 ^ (k.eb + k.fb) - 2
  else 2 ^ (k.eb + k.fb) - 1

/-- Pattern of an infinity, or of the largest finite value where the format has none (R146). -/
def infPattern (k : FFmt) (s : Bool) : Nat :=
  signBit k s + (if k.ieee then (2 ^ k.eb - 1) * 2 ^ k.fb else maxFinite k)

/-- Canonical NaN (R142, R144). -/
def canonicalNan (k : FFmt) (s : Bool) : Nat :=
  signBit k s + (if k.topNan then 2 ^ (k.eb + k.fb) - 1 else (2 ^ k.eb - 1) * 2 ^ k.fb + 2 ^ (k.fb - 1))

/-- A NaN quietened in its own format (R144). -/
def quietNan (k : FFmt) (s : Bool) (f : Nat) : Nat :=
  if k.topNan then canonicalNan k s
  else signBit k s + (2 ^ k.eb - 1) * 2 ^ k.fb + (f ||| 2 ^ (k.fb - 1))

/-- A NaN converted to another format (R144): canonical with the source's sign into E5M2 and E4M3 and out of E4M3, otherwise sign and
top fraction bits kept and quietened. -/
def convertNan (src dst : FFmt) (s : Bool) (f : Nat) : Nat :=
  if dst.topNan || src.topNan || dst.fb == 2 then canonicalNan dst s
  else quietNan dst s (if src.fb ≤ dst.fb then f * 2 ^ (dst.fb - src.fb) else f / 2 ^ (src.fb - dst.fb))

/-- Round the quotient step: `n` with remainder `r` of `2 ^ sh` and a sticky rest, to an integer by the mode (R151, R175). -/
def roundStep (mode : RMode) (s : Bool) (n r half : Nat) (sticky : Bool) : Nat :=
  let inexact := r != 0 || sticky
  match mode with
  | .rne => if half < r || (r == half && half != 0 && (sticky || n % 2 == 1)) then n + 1 else n
  | .rto => if inexact then (if n % 2 == 0 then n + 1 else n) else n
  | .rtz => n
  | .down => if inexact && s then n + 1 else n
  | .up => if inexact && !s then n + 1 else n

/-- The magnitude `m × 2 ^ e` (with a non-zero rest below it when `sticky`) divided by `2 ^ q` and rounded to an integer. -/
def roundAt (mode : RMode) (s : Bool) (m : Nat) (e q : Int) (sticky : Bool) : Nat :=
  if q ≤ e then roundStep mode s (m * 2 ^ (e - q).toNat) 0 0 sticky
  else
    let sh := (q - e).toNat
    roundStep mode s (m / 2 ^ sh) (m % 2 ^ sh) (2 ^ (sh - 1)) sticky

/-- Overflow result of a conversion or operation (R146, R169 case 6): RNE gives an infinity where the format has one, the other modes
the largest finite value. -/
def overflowPattern (k : FFmt) (mode : RMode) (s : Bool) : Nat :=
  match mode with
  | .rne => infPattern k s
  | _ => signBit k s + maxFinite k

/-- Round the exact magnitude `m × 2 ^ e` (plus a sticky rest) to a format (R143, R146, R151). -/
def fround (k : FFmt) (mode : RMode) (s : Bool) (m : Nat) (e : Int) (sticky : Bool) : Nat :=
  if m == 0 then
    signBit k s + (if sticky && mode == .rto then 1 else 0)
  else
    let emin : Int := 1 - (k.bias : Int) - k.fb
    let q : Int := max ((Nat.log2 m : Int) + e - k.fb) emin
    let n := roundAt mode s m e q sticky
    let n' := if n == 2 ^ (k.fb + 1) then 2 ^ k.fb else n
    let q' := if n == 2 ^ (k.fb + 1) then q + 1 else q
    let mag : Nat := if n' < 2 ^ k.fb then n' else ((q' + k.fb + k.bias).toNat * 2 ^ k.fb + (n' - 2 ^ k.fb))
    if maxFinite k < mag then overflowPattern k mode s else signBit k s + mag

/-- Round a rational magnitude `num / den` to a format. -/
def froundQuot (k : FFmt) (mode : RMode) (s : Bool) (num den : Nat) (e : Int) : Nat :=
  let sh := Nat.log2 den + k.fb + 4
  fround k mode s (num * 2 ^ sh / den) (e - sh) (num * 2 ^ sh % den != 0)

/-- Sum of two finite values: sign, magnitude and exponent; an exact zero takes −0 only from two −0 (R143). -/
def exactSum (s₁ : Bool) (m₁ : Nat) (e₁ : Int) (s₂ : Bool) (m₂ : Nat) (e₂ : Int) : Bool × Nat × Int :=
  let e := min e₁ e₂
  let a : Int := (if s₁ then -1 else 1) * ((m₁ * 2 ^ (e₁ - e).toNat : Nat) : Int)
  let b : Int := (if s₂ then -1 else 1) * ((m₂ * 2 ^ (e₂ - e).toNat : Nat) : Int)
  let v := a + b
  if v == 0 then (m₁ == 0 && m₂ == 0 && s₁ && s₂, 0, e) else (decide (v < 0), v.natAbs, e)

/-- `fadd` on one lane (R169). -/
def fadd (k : FFmt) (a b : Nat) : Nat :=
  match fdecode k a, fdecode k b with
  | .nan s f, _ => quietNan k s f
  | _, .nan s f => quietNan k s f
  | .inf s, .inf t => if s == t then infPattern k s else canonicalNan k false
  | .inf s, .fin _ _ _ => infPattern k s
  | .fin _ _ _, .inf t => infPattern k t
  | .fin s m e, .fin t n f =>
    let (u, v, w) := exactSum s m e t n f
    fround k .rne u v w false

/-- Negate a lane's sign bit. -/
def fneg (k : FFmt) (a : Nat) : Nat := a ^^^ 2 ^ (k.eb + k.fb)

/-- `fsub` on one lane (R169): a NaN operand keeps its own sign. -/
def fsub (k : FFmt) (a b : Nat) : Nat :=
  match fdecode k b with
  | .nan s f => (match fdecode k a with | .nan s' f' => quietNan k s' f' | _ => quietNan k s f)
  | _ => fadd k a (fneg k b)

/-- `fmul` on one lane (R169). -/
def fmul (k : FFmt) (a b : Nat) : Nat :=
  match fdecode k a, fdecode k b with
  | .nan s f, _ => quietNan k s f
  | _, .nan s f => quietNan k s f
  | .inf s, .inf t => infPattern k (s != t)
  | .inf s, .fin t m _ => if m == 0 then canonicalNan k false else infPattern k (s != t)
  | .fin s m _, .inf t => if m == 0 then canonicalNan k false else infPattern k (s != t)
  | .fin s m e, .fin t n f => fround k .rne (s != t) (m * n) (e + f) false

/-- `fma` on one lane (R169): one rounding of a × b + c. -/
def ffma (k : FFmt) (a b c : Nat) : Nat :=
  match fdecode k a, fdecode k b, fdecode k c with
  | .nan s f, _, _ => quietNan k s f
  | _, .nan s f, _ => quietNan k s f
  | _, _, .nan s f => quietNan k s f
  | .inf s, .fin t m _, z =>
    if m == 0 then canonicalNan k false else infPlus k (s != t) z
  | .fin s m _, .inf t, z =>
    if m == 0 then canonicalNan k false else infPlus k (s != t) z
  | .inf s, .inf t, z => infPlus k (s != t) z
  | .fin _ _ _, .fin _ _ _, .inf u => infPattern k u
  | .fin s m e, .fin t n f, .fin u l g =>
    let (v, w, x) := exactSum (s != t) (m * n) (e + f) u l g
    fround k .rne v w x false
where
  /-- An infinite product plus a third operand (R169 cases 3 and 4). -/
  infPlus (k : FFmt) (s : Bool) (z : FVal) : Nat :=
    match z with
    | .inf u => if s == u then infPattern k s else canonicalNan k false
    | _ => infPattern k s

/-- Order key of a lane that is no NaN, with −0 just below +0 (R170). -/
def fkey (k : FFmt) (a : Nat) : Int :=
  let m := a % 2 ^ (k.eb + k.fb)
  if bit a (k.eb + k.fb) then -(m : Int) - 1 else (m : Int)

/-- A lane is a NaN. -/
def isNan (k : FFmt) (a : Nat) : Bool := match fdecode k a with | .nan _ _ => true | _ => false

/-- The NaN that R144 selects among operands in slot order. -/
def firstNan (k : FFmt) : List Nat → Option Nat
  | [] => none
  | a :: t => match fdecode k a with
    | .nan s f => some (quietNan k s f)
    | _ => firstNan k t

/-- `fmin` on one lane (R170). -/
def fmin (k : FFmt) (a b : Nat) : Nat :=
  match firstNan k [a, b] with
  | some n => n
  | none => if fkey k b < fkey k a then b else a

/-- `fmax` on one lane (R170). -/
def fmax (k : FFmt) (a b : Nat) : Nat :=
  match firstNan k [a, b] with
  | some n => n
  | none => if fkey k a < fkey k b then b else a

/-- `fsgn` on one lane (R171): 0 copy, 1 inverted, 2 XOR of signs. -/
def fsgn (k : FFmt) (cond a b : Nat) : Nat :=
  match firstNan k [a, b] with
  | some n => n
  | none =>
    let sa := bit a (k.eb + k.fb)
    let sb := bit b (k.eb + k.fb)
    let s := match cond with | 0 => sb | 1 => !sb | _ => sa != sb
    signBit k s + a % 2 ^ (k.eb + k.fb)

/-- Compare the values of two lanes that are no NaN: −0 equals +0 (R172). -/
def fcompare (k : FFmt) (a b : Nat) : Ordering :=
  let z := fun (x : Nat) => if x % 2 ^ (k.eb + k.fb) == 0 then 0 else x
  let ka := fkey k (z a)
  let kb := fkey k (z b)
  if ka < kb then .lt else if ka == kb then .eq else .gt

/-- Convert a pattern between float formats with one rounding (R144, R146, R153). -/
def fconvert (src dst : FFmt) (mode : RMode) (x : Nat) : Nat :=
  match fdecode src x with
  | .nan s f => convertNan src dst s f
  | .inf s => infPattern dst s
  | .fin s m e => fround dst mode s m e false

/-- Convert an integer to a float format with one rounding (R174). -/
def fofInt (dst : FFmt) (mode : RMode) (v : Int) : Nat :=
  fround dst mode (decide (v < 0)) v.natAbs 0 false

/-- Round a float to an integer by a mode and saturate to a range; none for a NaN (R145, R146, R151). -/
def ftoInt (src : FFmt) (mode : RMode) (lo hi : Int) (x : Nat) : Option Int :=
  match fdecode src x with
  | .nan _ _ => none
  | .inf s => some (if s then lo else hi)
  | .fin s m e =>
    let n := roundAt mode s m e 0 false
    some (sat (if s then -(n : Int) else (n : Int)) lo hi)

/-- Round a rational `num / den × 2 ^ e` to an integer magnitude by RNE or RTO (R147 RoundInt). -/
def roundQuot (mode : RMode) (s : Bool) (num den : Nat) (e : Int) : Nat :=
  let num' := if 0 ≤ e then num * 2 ^ e.toNat else num
  let den' := if 0 ≤ e then den else den * 2 ^ (-e).toNat
  let n := num' / den'
  let r := num' % den'
  roundStep mode s n (2 * r) den' false

/-- `frnd` on one lane (R175). -/
def frnd (k : FFmt) (mode : RMode) (x : Nat) : Nat :=
  match fdecode k x with
  | .nan s f => quietNan k s f
  | .inf s => infPattern k s
  | .fin s m e => if 0 ≤ e then x % 2 ^ (k.eb + k.fb + 1) else fround k .rtz s (roundAt mode s m e 0 false) 0 false

/-- `fclass` of one lane (R176): exactly one of bits 9 to 0. -/
def fclass (k : FFmt) (x : Nat) : Nat :=
  match fdecode k x with
  | .nan _ f => if bit f (k.fb - 1) then 2 ^ 1 else 2 ^ 0
  | .inf s => if s then 2 ^ 2 else 2 ^ 9
  | .fin s m _ =>
    if m == 0 then (if s then 2 ^ 5 else 2 ^ 6)
    else if m < 2 ^ k.fb then (if s then 2 ^ 4 else 2 ^ 7)
    else (if s then 2 ^ 3 else 2 ^ 8)

/-- Widen a 16-bit float lane to FP32 exactly (R144, R195). -/
def widenTo32 (k : FFmt) (x : Nat) : Nat := fconvert k fp32 .rne x

end Sys2Proof.Machine
end

