-- ==== Sys2Proof/Config.lean ====
section
/-! DEFINITION. What an implementation fixes, and the free values: constants with no body, so that nothing can be proved of what they
are (assumption log 5, 6). -/

namespace Sys2Proof.Config

open Sys2Proof

/-- A value of an approximated function that the bounds of Machine/Approx.lean do not settle (R173, R194, R225): function number,
format number, operand. -/
opaque apxFree : Nat → Nat → Nat → Nat

/-- A byte of ciphertext as it is stored: what an OPEN mapping reads of an encrypted line (R394): the number of the key draw, the class
and the seal domain that its key or subkey is derived for (R399), the physical address, and the 128 plaintext bytes of the line as a
number. -/
opaque cipherByte : Nat → Nat → Nat → Nat → Nat → Byte

/-- The bytes of a random draw by Celadon (R399): draw number, byte index. -/
opaque randomByte : Nat → Nat → Byte

/-- ECDH P-384 and ML-KEM-1024 with the sealing pair (R399, R401): point, ciphertext; the two shared secrets. -/
opaque sealSecrets : List Byte → List Byte → List Byte × List Byte

/-- ECDH and ML-KEM with a domain's session pair (R399, R408): number of the pair's draw, point, ciphertext. -/
opaque sessionSecrets : Nat → List Byte → List Byte → List Byte × List Byte

/-- The two session public keys of a domain by the number of their draw (R408, R413): 96 bytes and 1,568 bytes. -/
opaque sessionPublic : Nat → List Byte × List Byte

/-- The device's identity public key, sealing pair and measurements (R413): field number 0 MROM, 1 MCEL, 2 MUMB, 3 identity key,
4 P-384 point of the sealing pair, 5 its ML-KEM key. -/
opaque deviceBytes : Nat → List Byte

/-- XMSS^MT signature with an index (R414, R415): index, message. -/
opaque xmssSign : Nat → List Byte → List Byte

/-- The placement that Riuri gives a portable body (R345): body, implementation, grade (assumption log 133). -/
opaque riuriPlace : List Byte → Nat → Nat → RiuriPlacement

/-- The HBM channel, 0 to 31, of the stack that holds a 64 KiB frame: the spec gives no mapping (assumption log 5). -/
opaque channelOf : Nat → Nat

/-- A result that the spec states no value for (R-numbered in its log entry): site number and a counter. -/
opaque freeWord : Nat → Nat → Word

/-- Sign and fraction of the NaN that a window's minimum or maximum of unlike NaNs gives (R304, R305; assumption log 128). -/
opaque windowNan : Word

/-! ## Implementation constants -/

/-- Implementation identifier of the IFH-PSX1 (R31, R37). -/
def implId : Nat := 1

/-- Grade identifier of the device (R32 CLOCK). DESIGN CHOICE: the spec gives no number (assumption log 7). -/
def grade : Nat := 1

/-- Nominal main clock in MHz (R26). -/
def nominalMhz : Nat := 1900
/-- Units of a microsecond in which the reference timer's fraction is kept: every clock of R28 has a period of whole units (R9). -/
def subUnits : Nat := 23279256000

/-- Work queues of the package: 131,072 (13_progress, R133 DETAIL widths of 17 bits). -/
def queueCount : Nat := 131072

/-- QBASE of a function. DESIGN CHOICE (assumption log 8): the PF and the first six VFs own 16,384 queues each, the last two VFs 8,192
each, in the order of their numbers. R447 names queue 0x4000 of VF 1 and queue 0x8000 of VF 2. -/
def qbase (fn : Nat) : Nat := if fn ≤ 7 then 16384 * fn else 122880

/-- QCOUNT of a function. DESIGN CHOICE (assumption log 8). -/
def qcount (fn : Nat) : Nat := if fn ≤ 6 then 16384 else if fn ≤ 8 then 8192 else 0

/-- The function that owns a queue. -/
def queueFn (q : Nat) : Nat := if q < 114688 then q / 16384 else if q < 122880 then 7 else 8

end Sys2Proof.Config
end

