-- ==== Sys2Proof/Machine/State.lean ====
section
/-! DEFINITION. The state of the package as plain data: everything the spec gives the machine, the model's own scheduling fields, the
faults and refusals, and the state after reset. Cores are numbered 0-63, elements y * 32 + x (R38), nodes by node-port index (R18). -/

namespace Sys2Proof.Machine

open Sys2Proof

/-! ## Faults and refusals -/

/-- Why a step stops. -/
inductive Fault where
  /-- A step names a core, element, node, queue, port or launch outside the ranges of R16, R17 or R18; raised by a turn of
  `State.agenda` that no machine can take. Safe. -/
  | noSuchResource
  /-- A step is run by an agent that does not perform it (a vector command at an element, say); raised by the places of
  Machine/Ops.lean. Safe: no hardware takes that step. -/
  | wrongAgent
  deriving DecidableEq, Repr

/-- Why an instruction is refused. -/
inductive Refusal where
  /-- The model gives the instruction no meaning yet; raised by exec alone. Safe. -/
  | notModelled (mnemonic : String)
  deriving DecidableEq, Repr

/-! ## Who acts -/

/-- Who performs a step: the place whose registers, queues or buffers the step's operands come from. -/
inductive Agent where
  | device                              -- the package, its management cores and its endpoint
  | fn (n : Nat)                        -- a PCI Express function
  | queue (q : Nat)                     -- the queue whose head command executes
  | sched (d : Nat)                     -- a schedule domain: partitions 0-7, or 8 for the PF's own
  | launch (l : Nat)
  | loader (c : Nat)                    -- Riuri's loader on a cluster sequencer (R137)
  | seq (c : Nat)                       -- a cluster sequencer
  | ap (c a : Nat)                      -- a stream: cluster and access-pattern register
  | config (k : Nat)                    -- the configuration FIFO of a core
  | core (k : Nat)
  | elem (k e : Nat)
  | node (k n : Nat)
  | inst (k frame : Nat) (tag : Tag)    -- a block instance
  | access (k id : Nat)                 -- an access of a core
  | part (p : Nat)
  | route (p n : Nat)                   -- a barrier route
  | slot (q : Nat)                      -- a sequence slot
  | port (p : Nat)                      -- a fabric port
  | epoch (i : Nat)                     -- a sender's epoch, a receiver's record, a request or a round, by its place in its list
  deriving DecidableEq, Repr

/-- What may move next. The list `State.agenda` of turns is the model's own: it stands for the order in which the package's agents
and the outside move, which the spec leaves open (R4, R235, R237). -/
inductive Turn where
  | run (a : Agent)                     -- the agent performs the instruction that it holds
  | event (a : Agent) (i : Instr)       -- the agent takes this event or internal step
  | deliver (k i : Nat)                 -- the i-th message in transit to core k arrives, if it is the first of its channel
  | receive (p : Nat) (packet : Packet) -- a packet without flits stands at a fabric port (R307)
  | tick (n : Nat)                      -- n cycles pass
  | evict (line : Nat)                  -- a line leaves the last-level cache (R382)
  | post                                -- the oldest write of the endpoint's outbound posted queue reaches host memory (R236)
  | hostStore (a : Nat) (bs : List Byte) -- the host writes its own memory (00_scope, Three parties)
  | forget (c : Nat)                    -- the translation caches of a cluster and its cores lose their entries (R383)
  deriving DecidableEq, Repr

/-! ## Tokens and matching (R38 to R55) -/

/-- A narrow token (R38, R39). `origin` is the origin tag of an F token, none for a value; `fab` is the fabricated flag (R331); `inst`
is the tag of the block instance that an in-block token belongs to (R58, R430). `ord` is the token's place in its element's arrival
order once the matcher has taken it (R47). -/
structure Token where
  elem : Nat := 0
  slot : Nat := 0
  ma : MA := .normal
  slv : Nat := 0
  tag : Tag := 0
  val : Word := 0
  d : Bool := false
  origin : Option Tag := none
  fab : Bool := false
  inst : Option Tag := none
  ord : Nat := 0
  deriving DecidableEq, Repr

/-- A token in an input queue, with the cycle in which it entered (R43, R47). `hold` marks a token re-injected from tier 3, which
the matcher takes first, with the free entry that it holds: false in tier 1, true in tier 2 (R47, R327). -/
structure Queued where
  tok : Token
  entered : Nat
  hold : Option Bool := none
  deriving DecidableEq, Repr

/-- A fired set: the tokens by operand slot, its tag, the cycle from which it may issue and, while a tier-2 search of it runs, the
cycle in which the search returns (R49, R52). `inst` is the tag of its block instance. -/
structure Fired where
  toks : List (Option Token)
  tag : Tag
  due : Nat
  inst : Tag
  search : Option Nat := none
  deriving DecidableEq, Repr

/-- A running `wait.t` timer: the tag of the stored b token and its expiry cycle (R341). -/
structure Timer where
  tag : Tag
  expiry : Nat
  deriving DecidableEq, Repr

/-- Configuration and state of one element (R43 to R55, R69, R70, R73). -/
structure Elem where
  instr : Option Instr := none
  frame : Nat := 0
  slot : Nat := 0
  blocked : Bool := false
  queue : List Queued := []
  tier1 : List Token := []
  fired : List Fired := []
  s : Word := 0
  sd : Bool := false
  timers : List Timer := []
  tombs : List Tag := []
  takeFrom : Nat := 0
  issueFrom : Nat := 0
  deriving DecidableEq, Repr

/-- Where a token in transit is bound for: an operand slot of an element, a block input, or a port of a node. -/
inductive Dest where
  | elem (e slot : Nat)
  | input (frame input : Nat)
  | node (n port : Nat)
  deriving DecidableEq, Repr

/-- A wide token or wide packet: 64 lanes, lane 0 first (R65, R192). -/
structure Wide where
  lanes : List Word := []
  tag : Tag := 0
  d : Bool := false
  task : Nat := 0
  f : Bool := false
  deriving DecidableEq, Repr

/-- A token in the arrival buffer, or in tier 3 where the buffer had no room (R69). -/
structure Held where
  dest : Dest
  tok : Token
  spilled : Bool := false
  deriving DecidableEq, Repr

/-- What travels: a narrow token with the task type of its sender (R65), or a wide packet. -/
inductive Msg where
  | narrow (t : Token) (task : Nat)
  | wide (w : Wide)
  deriving DecidableEq, Repr

/-- A message on the core's network: its channel (one producer target, R43), destination, and the cycle from which it may arrive. -/
structure Transit where
  chan : List Nat
  dest : Dest
  msg : Msg
  ready : Nat
  src : Option Nat := none
  deriving DecidableEq, Repr

/-! ## Frames and configuration (R56, R57, R71 to R77) -/

/-- What BOUT binds a block output to (R75). -/
inductive OutBind where
  | frame (f input : Nat)
  | here (input : Nat)
  | node (n port : Nat)
  deriving DecidableEq, Repr

/-- The commit output of a block (R75 CNEXT). -/
inductive CommitNext where
  | frame (f : Nat) (op : TagOp)
  | here (op : TagOp)
  | last
  | entry
  deriving DecidableEq, Repr

/-- The state of one slot under configuration: fields F0 to F7 written so far and the upper half of a WIDE immediate (R73, R74). -/
structure SlotCfg where
  f : List (Option Nat) := List.replicate 8 none
  wide : Option (BitVec 16) := none
  bad : Bool := false
  deriving DecidableEq, Repr

/-- How far a frame's configuration has come. -/
inductive FrameStatus where
  | empty | opened | closed
  deriving DecidableEq, Repr

/-- Configuration of one frame (R56, R75, R76). `levels` is the block's level table (R41). -/
structure Frame where
  status : FrameStatus := .empty
  nin : Nat := 0
  nout : Nat := 0
  place : Bool := false
  fieldSeen : Bool := false
  slots : Tab SlotCfg := []
  bins : Tab (Nat × Nat) := []
  bouts : Tab OutBind := []
  cnext : Option CommitNext := none
  cset : Nat := 0
  levels : List (Nat × Nat) := []
  map : Tab Nat := []
  acceptFrom : Option Nat := none
  deriving DecidableEq, Repr

/-- A cached translation or pointer entry (R383): address space, level, page-aligned address and the 64-bit entry. -/
structure Tlb where
  asid : Nat
  level : Nat
  va : Nat
  entry : Nat
  deriving DecidableEq, Repr

/-! ## Accesses (R60, R61, R237 to R248, R450) -/

/-- The three regions of the wave unit (R240), and the places of the other held accesses. -/
inductive Region where
  | localWin | device | hostMem | none
  deriving DecidableEq, Repr

/-- How far an access has come. -/
inductive AccStage where
  | held        -- waits for its instance to commit (R61)
  | ready       -- may be performed; released stores wait their turn in their region (R241)
  | waiting     -- waits at its point of order: tile, full/empty, episode, slot, ring, drain
  | copying     -- a `send` whose copy engine runs (R279)
  | parked      -- a resolvable fault at release or at a copy (R435)
  | firing      -- an `rst` row whose tile is being filled: it has not fired (R261, R292)
  | done        -- a ring slot that is complete while an earlier one is not (R283)
  | lost        -- a ring slot whose copy stopped at a fault: it never becomes complete (R279, R283)
  deriving DecidableEq, Repr

/-- How a waiting access stands to the tile table (R233, R274): free of it, waiting for a tile, or met by the freeing of its tile. -/
inductive TileWait where
  | none
  | tile (no : Nat)
  | freed
  deriving DecidableEq, Repr

/-- An access of a core: the element that fired it with its place in its block, its instruction and fired tokens, the tag of its block
instance, and how far it has come. `after` names the accesses that must be performed before it, `joined` its place in the order of
release or of a wait list, `rel` the cycle in which its instance released it, `slotNo` the ring slot it claims or awaits, `tileAt` the
tile it waits for, `row` the rows that a copy has read, and `ringAt` the ring object that a copy has claimed a slot of, or that a
`ring.init` has begun with: its core and offset, or 64 and its physical address. `ringEl` is the element address of the object that a copy
has claimed a slot of: the entry that named it may be bound to another object later (R282, R283). -/
structure Access where
  id : Nat
  elem : Nat
  frame : Nat
  slot : Nat
  instr : Instr
  toks : List (Option Token)
  tag : Tag
  inst : Tag
  region : Region := .none
  stage : AccStage := .ready
  va : Nat := 0
  width : Nat := 0
  after : List Nat := []
  joined : Nat := 0
  rel : Option Nat := none
  slotNo : Nat := 0
  tileAt : TileWait := .none
  row : Nat := 0
  ringAt : Option (Nat × Nat) := none
  ringEl : Nat := 0
  deriving DecidableEq, Repr

/-- An accepted access of a wave (R238, R239). -/
structure WaveLink where
  pred : Nat
  own : Nat
  succ : Nat
  access : Nat
  deriving DecidableEq, Repr

/-- A block instance (R58, R60, R239, R318). `order` is the place of its commit in the order of commits. -/
structure Instance where
  frame : Nat
  tag : Tag
  inputs : List Nat := []      -- block inputs whose token has arrived
  outs : List Nat := []        -- outputs of the commit set that have emitted
  rels : List Nat := []        -- slots of the release set that have fired
  chain : List WaveLink := []
  broken : Bool := false       -- two accesses took one chain position: the wave never closes
  faulted : Bool := false      -- a precise fault: the instance never completes (R62)
  committed : Bool := false
  order : Nat := 0
  deriving DecidableEq, Repr

/-- Where a fault became precise (R430). -/
structure Place where
  node : Nat
  x : Nat := 0
  y : Nat := 0
  frame : Nat := 0
  slot : Nat := 0
  deriving DecidableEq, Repr

/-- A fault that has become precise and waits for its record (R62, R428). `inst` is the block instance that it ends. -/
structure Precise where
  word : Word
  otag : Tag
  itag : Tag
  d : Bool
  place : Place
  ctx : Nat
  res : Bool := false
  va : Option Nat := none
  inst : Option (Nat × Tag) := none
  deriving DecidableEq, Repr

/-- An entry of the fault address table (R429). -/
structure FaultVa where
  otag : Tag
  code : Nat
  va : Nat
  deriving DecidableEq, Repr

/-- A fault that a stream to a block input has raised: what its record is known by, and the input whose element gives the record's
coordinates when it is written (R429). -/
structure StreamFault where
  otag : Tag
  code : Nat
  frame : Nat
  input : Nat
  deriving DecidableEq, Repr

/-! ## Nodes (R63 to R65, R189 to R224) -/

/-- A valid handler table entry: the address of the image and its checked commands, with the ports that they read (R63, R78). -/
structure Handler where
  addr : Nat
  cmds : List Instr
  reads : List Nat
  deriving DecidableEq, Repr

/-- A task token: its type, tag and packets by port. `formed` is false for a packet whose type had no valid entry when it arrived; it
is a task of its own until a later HBIND (R64, R190). -/
structure Task where
  ty : Nat
  tag : Tag
  packets : List (Nat × Wide)
  formed : Bool := true
  deriving DecidableEq, Repr

/-- A running `mm.run`: its accumulator, activation format, vectors to take and taken, and the packets of the next vector that have
been taken (R210). -/
structure Stream where
  acc : Nat
  fmt : Fmt
  n : Nat
  taken : Nat := 0
  got : List Wide := []
  deriving DecidableEq, Repr

/-- The running handler of a node: what is left of it, its task, the read set, the ports that it names as destinations, a running
`mm.run` (R219), and the cycle from which the next command may issue. -/
structure Running where
  cmds : List Instr
  task : Task
  reads : List Nat := []
  dests : List Nat := []
  stream : Option Stream := none
  next : Nat := 0
  deriving DecidableEq, Repr

/-- A vector register: 64 lanes and a D bit (R189). -/
structure Vec where
  lanes : List Word := []
  d : Bool := false
  deriving DecidableEq, Repr

/-- A weight bank of a matrix node (R205). Codes and entries are listed by column and row or group as their number format reads. -/
structure Bank where
  fmt : Fmt := .q8
  grp : Nat := 0
  codes : List (List Nat) := []
  entries : List (List Word) := []
  record : Nat := 0
  wd : Bool := false
  cv : Bool := false
  ev : Bool := false
  zp : Bool := false           -- `mm.zp` loaded the entries (R440)
  poison : Bool := false
  deriving DecidableEq, Repr

/-- A row of an accumulator node (R213). -/
structure AccRow where
  a : List Int := []
  cnt : Nat := 0
  used : Bool := false
  pos : Bool := false
  neg : Bool := false
  nan : Bool := false
  poison : Bool := false
  fresh : Bool := false        -- USED only because it was poisoned (R202)
  bad : Bool := false          -- its storage cannot be read (R444)
  tag : Tag := 0
  d : Bool := false
  deriving DecidableEq, Repr

/-- What a matrix node has sent to an accumulator node and has not arrived: a pass for a row, or an end token (R210, R217). -/
inductive Pass where
  | row (acc j : Nat) (vals : List Word) (tag : Tag) (d : Bool) (origin : Tag)
  | fin (acc count : Nat) (origin : Tag)
  deriving DecidableEq, Repr

/-- A node of a core. -/
structure Node where
  handlers : Tab Handler := []
  ports : List (List Wide) := [[], [], [], []]
  pending : List Task := []
  running : Option Running := none
  w : Tab Vec := []
  wReady : Tab Nat := []       -- cycle from which the latest result of a vector register is readable (R191)
  bank0 : Bank := {}
  bank1 : Bank := {}
  active : Bool := false
  lb : Bool := false
  e : Int := 0
  rc : Nat := 0
  rows : Tab AccRow := []
  passes : List Pass := []
  lastIssue : Nat := 0
  deriving DecidableEq, Repr

/-- A gather write that waits at a memory-node port (R276). -/
structure Gather where
  node : Nat
  port : Nat
  msg : Msg
  frame : Nat := 0
  deriving DecidableEq, Repr

/-! ## Scratchpad, tiles and rings (R230, R232, R271, R281) -/

/-- State of a tile (R232). -/
inductive TileState where
  | empty | filling | ready | draining
  deriving DecidableEq, Repr

/-- A tile table entry. `rows` are the rows whose filled bit is set, `words` the words written of the other rows (R272). -/
structure Tile where
  st : TileState := .empty
  first : Nat := 0
  nrow : Nat := 0
  fill : Bool := false
  isI : Bool := false
  dmark : Bool := false
  rows : List Nat := []
  words : List Nat := []
  deriving DecidableEq, Repr

/-- A result at a commit node: the pair of tokens of one iteration, or the half that has arrived (R353). `src` is the block that
sent the port-a token (R369). -/
structure CommitResult where
  slot : Nat
  iter : Nat
  tag : Tag
  index : Option (Word × Bool) := none
  status : Option (Word × Bool) := none
  src : Option Nat := none
  deriving DecidableEq, Repr

/-- A core (R17 to R21, R43 to R69). -/
structure Core where
  launch : Option Nat := none
  partw : Nat := 0x00204020
  prev : Option (Nat × Option Nat) := none
  configured : Bool := false
  zeroUntil : Nat := 0
  fifo : List (Nat × Word) := []
  wordsFrom : Nat := 0         -- cycle from which the last configuration word that the core took is in effect (R68)
  openFrame : Option Nat := none
  wideHalf : Option (BitVec 20) := none
  frames : Tab Frame := []
  elems : Tab Elem := []
  tier2 : List Token := []
  tier3 : List Token := []
  reserved1 : List Nat := []
  reserved2 : Nat := 0
  arrival : List Held := []
  lost : List Held := []
  transit : List Transit := []
  injected : List Nat := []
  commits : List (Nat × Tag) := []
  insts : List Instance := []
  accesses : List Access := []
  precise : List Precise := []
  vas : List FaultVa := []
  streamFaults : List StreamFault := []
  nodes : Tab Node := []
  gathers : List Gather := []
  results : List CommitResult := []
  cells : List Host.Cell := []
  empties : List Nat := []
  dmarks : List Nat := []
  tiles : Tab Tile := []
  rings : Tab Nat := []
  user : Tab Word := []
  counters : Tab Word := []
  sc : Nat := 0
  tlb : List Tlb := []
  poisoned : List Nat := []
  deriving DecidableEq, Repr
/-! ## Cluster sequencer (R108 to R129) -/

/-- A decoded access-pattern descriptor (R118). -/
structure Descr where
  base : Nat := 0
  str1 : Int := 0
  str2 : Int := 0
  cnt0 : Nat := 0
  cnt1 : Nat := 0
  cnt2 : Nat := 0
  wide : Bool := false
  src : Nat := 0
  mnode : Nat := 0
  ma : MA := .normal
  slv : Nat := 0
  kind : Nat := 0
  frame : Nat := 0
  index : Nat := 0
  os : Nat := 0
  tagOp : TagOp := .keep
  tag : Tag := 0
  deriving DecidableEq, Repr

/-- State of an access-pattern register (R119). -/
inductive ApState where
  | free | bound | running
  deriving DecidableEq, Repr

/-- An access-pattern register: descriptor, bound stream port, state, next element of a running stream with its tag, and the
token count of the latest run (R108, R118, R119). `parked` marks a stream element kept at its source (R435). -/
structure Ap where
  descr : Descr := {}
  port : Nat := 0
  st : ApState := .free
  pos : Nat := 0
  tag : Tag := 0
  count : Nat := 0
  parked : Bool := false
  nextEmit : Nat := 0          -- cycle from which the next element may leave
  tile : Option Nat := none    -- tile that the next element waits for (R118)
  lines : Tab (List Byte) := []    -- lines that a running stream has read, by line number, class, seal domain and memory (R234, R382)
  deriving DecidableEq, Repr

/-- Why a register is not readable yet: a producer of fixed latency, or one of variable latency (R111, R112). -/
structure Ready where
  from_ : Nat := 0
  fixed : Bool := true
  deriving DecidableEq, Repr

/-- How a sequencer stands. -/
inductive SeqMode where
  | idle       -- no launch
  | run        -- fetching instructions
  | wait       -- in a waiting instruction that a later step completes (`pbar`, `pbar.final`, `halt` with a phase open, `cwait`)
  | halted     -- ended at `halt`
  | stopped    -- stopped by PREEMPT or by a launch failure
  deriving DecidableEq, Repr

/-- What a waiting sequencer waits for (R123, R125, R126). -/
inductive SeqWait where
  | none
  | pbar (xd : BitVec 5)
  | pbarFinal (xd : BitVec 5)
  | halt
  | cwait (addr : Nat) (target : Nat)
  deriving DecidableEq, Repr

/-- An action of the generated control program of a chain without SEQIMG: registers to load, the instruction to run, and the
block and entry it comes from (R133, R136, R137). -/
structure GenAction where
  regs : List (Nat × DWord)
  instr : Instr
  block : Nat
  entry : Nat
  deriving DecidableEq, Repr

/-- A cluster sequencer (R108, R109). -/
structure Seq where
  mode : SeqMode := .idle
  waitFor : SeqWait := .none
  x : Tab DWord := []
  aps : Tab Ap := []
  pc : Nat := 0
  imem : Tab Word := []
  params : List DWord := []
  ranNative : Bool := false
  gen : List GenAction := []
  genAp : Nat := 0             -- the register that the generated program bound last (R136 STREAMS)
  start : Nat := 0
  phase : Nat := 0
  tvec : DWord := 0
  epc : DWord := 0
  ecause : DWord := 0
  eval : DWord := 0
  intrap : Bool := false
  shortstall : DWord := 0
  bframe : Nat := 0
  ready : Tab Ready := []
  issueFrom : Nat := 0
  ctxfaults : List Nat := []
  chainNext : Nat := 0         -- address of the next block that the loader reads; 0 while it waits for CHAIN (R137)
  chainFirst : Bool := true
  chainEnded : Bool := false
  chainUsed : Nat := 0         -- links that CHAIN commands appended and the loader has followed
  sawPhase : Bool := false
  held : List DWord := []      -- PARAM values that wait for room in the parameter queue (R124)
  deriving DecidableEq, Repr
/-! ## Work queues and launches (R130 to R138) -/

/-- How a queue's head command stands. -/
inductive HeadState where
  | idle                       -- not read yet
  | waiting (i : Instr)        -- read and checked; its wait object has not reached WAITVAL
  | ready (i : Instr)          -- read and checked; may be dispatched
  | running (i : Instr)        -- dispatched and executing
  deriving DecidableEq, Repr

/-- A work queue (R130, R131, R134). R and W are free-running 32-bit indices; `head` is the state of command `next`, which runs ahead
of R while a LAUNCH of the queue has not completed (R132, R134). -/
structure WorkQueue where
  known : Bool := false
  rbase : Nat := 0
  crbase : Nat := 0
  asid : Nat := 0
  size : Nat := 0
  prio : Nat := 0
  en : Bool := false
  vec : Nat := 0
  r : Word := 0
  w : Word := 0
  next : Word := 0             -- index of the next command to read
  error : Bool := false
  head : HeadState := .idle
  age : Nat := 0
  launch : Option Nat := none
  drain : Bool := false        -- its INVAL.RANGE has dropped the caches and waits for the drain (R387)
  left : Bool := false         -- its ASID lay in a partition that was torn down: its next command is DENIED (R377)
  deriving DecidableEq, Repr

/-- A PCI Express function: whether a doorbell to QBASE is taken as a table write, the table's bus address, raised MSI-X vectors, and
the FTD registers of the PF (R130, R135, R319). -/
structure Function where
  table : Option Nat := none
  msix : List Nat := []
  ftd0 : Word := 0
  ftd1 : Word := 0
  deriving DecidableEq, Repr

/-- A schedule domain's scheduler (R324): position in the round and the queue last dispatched at each priority. -/
structure Sched where
  round : Nat := 0
  last : Tab Nat := []
  nextSlot : Nat := 0
  deriving DecidableEq, Repr

/-- Failure of a launch (R133, R343, R431). -/
structure Failure where
  status : Nat
  detail0 : Nat := 0
  detail1 : Nat := 0
  code : Nat := 0
  va : Option Nat := none
  score : Nat := 0
  sx : Nat := 0
  sy : Nat := 0
  byReset : Bool := false      -- a function-level reset: no completion record (R443)
  deriving DecidableEq, Repr

/-- How far a launch has come. -/
inductive LaunchState where
  | running
  | failing        -- failed; released accesses and open epochs are finishing (R343)
  | draining       -- stopped by PREEMPT (R439)
  | stopped        -- drained, but the checkpoint area failed (R439)
  deriving DecidableEq, Repr

/-- State of a context under its launch's fault policy (R433, R434). -/
inductive CtxFate where
  | suspended (allRes : Bool)
  | killed
  deriving DecidableEq, Repr

/-- An image that a sequencer has fetched and pushed: an element image with the frame that it went to (R122), or a sequencer image (R137). -/
structure Pushed where
  cluster : Nat
  va : Nat
  frame : Option Nat := none
  deriving DecidableEq, Repr

/-- A running launch (R66, R123, R136 to R138, R451). -/
structure Launch where
  q : Nat := 0
  fn : Nat := 0
  cid : Nat := 0
  cq : Nat := 0                -- queue and index of the command whose completion reports the launch
  idx : Word := 0
  hdr : CmdHeader := {}
  cmd : LaunchCmd := { chain := 0, hbase := 0, cmask := 0, sdom := 0, sdv := false, kpol := false, role := false, partw := 0 }
  st : LaunchState := .running
  asid : Nat := 0
  part : Option Nat := none
  start : Nat := 0
  links : List Nat := []       -- block addresses that CHAIN commands appended (R138)
  phase : Nat := 0             -- number of the last phase to open
  isOpen : Bool := false
  ended : Nat := 0             -- number of the phase that has ended and whose boundary is to come (R123)
  segs : List Nat := []        -- segment table (R256), 64-bit entries
  remote : List (List Word) := []   -- remote segment table (R289)
  routes : Tab Nat := []       -- claimed barrier routes with NM1 (R333)
  bindings : Tab (Tab Nat) := []    -- node binding tables by core (R315), valid entries only
  slotTables : Tab (Tab Nat) := []  -- router slot tables by core (R312), non-zero entries only
  header : List Word := []     -- generation header (R356)
  adapters : Tab Nat := []     -- adapter slot table (R362), non-zero entries
  bound : Tab Nat := []        -- sequence slots with the core whose commit node each is bound to in this launch (R353)
  admission : Option Nat := none   -- the admission whose images the launch has fetched (R406)
  fates : Tab CtxFate := []
  firstKill : Option Nat := none
  kills : Nat := 0
  failure : Option Failure := none
  images : List Pushed := []   -- images pushed, in order (R441)
  preempt : Option (Option Nat × CmdHeader × Nat) := none   -- PREEMPT in progress: queue, unless abandoned (R442), header, area
  stopAt : Option Nat := none  -- cycle in which PREEMPT stopped the launch (R439)
  deriving DecidableEq, Repr

/-! ## Scale-up fabric (R286 to R310) -/

/-- A rank table entry (R286, R288). -/
structure RankEntry where
  package : Nat := 0xFFFF
  part : Nat := 0
  ports : Nat := 0
  pins : Nat := 0
  deriving DecidableEq, Repr

/-- A job known to this package: its owning partition, its rank table, and the package's own rank with the ASID of the queue that
set it (R286, R287). -/
structure Job where
  owner : Nat := 0
  ranks : Tab RankEntry := []
  own : Option (Nat × Nat) := none
  deriving DecidableEq, Repr

/-- State of a sender's epoch (R296); an epoch that is FREE is not listed. -/
inductive SendState where
  | opening | opened | releasing | failed
  deriving DecidableEq, Repr

/-- A sender's epoch (R293 to R296): its core and remote segment, its partition, the OPEN packet (which holds the job, rank, counter id,
generation and timeout), the expiry of its timer in microseconds, the retransmit window by sequence number, the accesses whose writes are
not sent yet, the OR of the writes' D bits, and the `rcopen` and `rrel` that wait for a result. -/
structure Epoch where
  core : Nat
  seg : Nat
  part : Nat
  hdr : Packet
  st : SendState := .opening
  rounds : Nat := 0
  due : Nat := 0
  writes : Nat := 0
  window : List (Nat × Packet) := []
  held : List (Nat × Nat) := []
  d : Bool := false
  openAcc : Option Nat := none
  relAcc : Option Nat := none
  deriving DecidableEq, Repr

/-- State of a receiver's record (R297); a record that is IDLE is not listed. -/
inductive RecvState where
  | collecting | waiting | released | failed
  deriving DecidableEq, Repr

/-- A receiver's record of one source package, source partition and counter id (R297 to R300): the OPEN packet, whether a flag word may
be written, the sequence numbers that have arrived, the count of REL, the status, and the RELNOTE sent. -/
structure RecvRec where
  package : Nat
  hdr : Packet
  st : RecvState := .collecting
  flagOk : Bool := true
  arrived : List Nat := []
  count : Option Nat := none
  rounds : Nat := 0
  due : Nat := 0
  status : Option (Nat × Nat) := none
  d : Bool := false
  note : Option Packet := none
  deriving DecidableEq, Repr

/-- A remote load or atomic awaiting its reply (R301, R302). -/
structure Request where
  core : Nat
  access : Nat
  packet : Packet
  resends : Nat := 0
  due : Nat := 0
  deriving DecidableEq, Repr

/-- A round of a reduction window word (R304, R305), with the first contribution's header; `waiting` are the atomics that wait for its
end (R306). -/
structure Round where
  asid : Nat
  hdr : Packet
  sum : Int := 0
  flags : Nat := 0
  cnt : Nat := 0
  poison : Bool := false
  due : Nat := 0
  waiting : List Packet := []
  deriving DecidableEq, Repr

/-- Link state of a fabric port (R309). -/
inductive Link where
  | down | plain | secure (dom : DWord)
  deriving DecidableEq, Repr

/-- A fabric port: link state, the package that its link leads to, consecutive flits whose CRC failed, of which the first asks for a replay
and every later one is a failed replay, flits of a packet being assembled, packets that have arrived or wait to leave during a key update
with the microsecond in which they came, the peer's domain list, and whether a key update holds traffic (R27, R307, R309, R391, R417,
R418). -/
structure FabricPort where
  link : Link := .down
  peer : Nat := 0
  crcFails : Nat := 0
  retrain : Bool := false
  flits : List Byte := []
  arrived : List (Nat × Packet) := []
  out : List (Nat × Packet) := []
  peerDomains : List (Nat × Nat × List Byte) := []
  hold : Bool := false
  deriving DecidableEq, Repr

/-- A packet that left for a peer: port, packet and the microsecond it was sent (R297). -/
structure Sent where
  port : Nat
  packet : Packet
  time : Nat
  deriving DecidableEq, Repr
/-! ## Seal domains, sessions and admissions (R399 to R418) -/

/-- A seal domain (R400 to R402). Keys are free values of Config named by `keyEpoch`; the policy is the package's body. -/
structure Domain where
  live : Bool := false
  keyEpoch : Nat := 0
  tdid : DWord := 0
  peers : List (List Byte) := []
  keys : List (List Byte) := []
  graphs : List DWord := []
  digest : List Byte := []
  wkey : List Byte := []
  deriving DecidableEq, Repr

/-- A session by index (R408 to R412). `part` is 8 where no domain keeps its counters any more. -/
structure Session where
  gen : Nat := 0
  isOpen : Bool := false
  part : Nat := 8
  sdom : Nat := 0
  secret : List Byte := []
  rqseq : DWord := 0
  rpseq : DWord := 0
  reqs : DWord := 0
  prompt : DWord := 0
  gentok : DWord := 0
  deriving DecidableEq, Repr

/-- A reply binding (R411): its size in bytes, the bytes written, the slot that it gives to its session, and its place in the order of
binding. -/
structure Binding where
  sdom : Nat
  sid : Word
  base : Nat
  size : Nat
  woff : Nat := 0
  slot : Option Nat := none
  asid : Nat
  order : Nat
  deriving DecidableEq, Repr

/-- An admission of the package (R404, R405). -/
structure Admission where
  aid : Nat
  part : Nat
  sdom : Nat
  digest : List Byte := []
  deriving DecidableEq, Repr

/-- Signing state (R415). -/
structure Signing where
  index : Nat := 0
  blockEnd : Nat := 0
  refused : Bool := false
  deriving DecidableEq, Repr

/-! ## Fault rings (R428 to R432) -/

/-- A partition's fault ring (R432). -/
structure FaultRing where
  enabled : Bool := false
  base : Nat := 0
  en : Bool := false
  vfi : Bool := false
  vec : Nat := 0
  size : Nat := 0
  wi : Word := 0
  error : Bool := false
  seq : Word := 0
  deriving DecidableEq, Repr

/-! ## Partitions, memory and generation (R230 to R236, R349 to R365, R372 to R388) -/

/-- A barrier route (R333, R334). `done` is EP_done, and `due` lists the cycles of the DONE events to come. -/
structure Route where
  holder : Option Nat := none
  nm1 : Nat := 0
  ep : Word := 0
  cnt : Nat := 0
  done : Word := 0
  due : List Nat := []
  deriving DecidableEq, Repr

/-- A prefix cache entry (R360). -/
structure PrefixEntry where
  key : DWord
  frames : List Nat
  count : Nat := 0
  released : Nat := 0
  deriving DecidableEq, Repr

/-- A hard partition (R372 to R376). -/
structure Partition where
  units : List Nat := []
  vf : Nat := 0
  sealing : Bool := false
  first : Nat := 0
  count : Nat := 0
  root : Nat := 0
  rootHost : Bool := false
  slot0 : Nat := 0
  nslot : Nat := 0
  spillVa : Nat := 0
  spillPages : Nat := 0
  spillFrames : List Nat := []
  kvVa : Nat := 0
  kvFrames : List Nat := []
  kvFree : List Nat := []
  unclaimed : Nat := 0
  spillUsed : Nat := 0
  imageKey : Nat := 0
  routes : Tab Route := []
  prefixes : Tab PrefixEntry := []
  domains : Tab Domain := []
  bindings : Tab Binding := []
  admissions : List Admission := []
  ring : FaultRing := {}
  counters : Tab Word := []
  deriving DecidableEq, Repr

/-- A verdict of a sequence slot whose range is not yet fully retired (R355). -/
structure Verdict where
  iter : Nat
  span : Nat
  accepted : Nat
  deriving DecidableEq, Repr

/-- STATE of a sequence record (R349). -/
inductive SeqState where
  | free | opened | ended
  deriving DecidableEq, Repr

/-- A sequence record (R349), the KV map entries of its slot (R357), its verdicts (R355) and its session bindings (R411). -/
structure SeqRec where
  st : SeqState := .free
  ending : Nat := 0
  next : Nat := 0
  pos : Word := 0
  limit : Word := 0
  eos : Word := BitVec.allOnes 32
  seed : DWord := 0
  need : Nat := 0
  held : Nat := 0
  gv : Bool := false
  pv : Bool := false
  gctx : Nat := 0
  pfxe : Nat := 0
  sdv : Bool := false
  sdom : Nat := 0
  pages : Tab DWord := []
  verdicts : List Verdict := []
  closing : Bool := false
  deriving DecidableEq, Repr

/-- A drain of KV pages in progress (R359): the slot, its pages, and the access whose result it holds up: a `kv.attach`, a `kv.free` or a
`seq.close`. `freed` are the map entries of the pages that it unmaps: the cores drop them when the drain ends. -/
structure KvDrain where
  slot : Nat
  pages : List Nat := []
  freed : Tab DWord := []
  core : Nat
  access : Nat
  deriving DecidableEq, Repr

/-- One step of a Serpent context's journal: the iteration, and the state and the stack before it (R364). -/
structure JournalStep where
  iter : Nat
  st : Nat
  stack : List Nat
  deriving DecidableEq, Repr

/-- A Serpent context (R364). -/
structure Serpent where
  gaddr : Nat := 0
  st : Nat := 0
  stack : List Nat := []
  d : Bool := false
  journal : List JournalStep := []
  dropped : Option Nat := none
  deriving DecidableEq, Repr

/-- Class and seal domain of a line: its tag in HBM (R35, R382), or the tag of the line in its slice. `key` numbers the key draw. -/
structure LineTag where
  cls : Nat
  sdom : Nat
  part : Nat
  key : Nat
  deriving DecidableEq, Repr

/-- What HBM holds of a line that is dirty in its slice: its bytes, its tag, and whether it is poisoned. A line that is dropped without
write-back has them again (R376, R402). -/
structure HbmLine where
  bytes : List Byte
  tag : Option LineTag
  bad : Bool := false
  deriving DecidableEq, Repr

/-- A pre-empted launch's checkpoint: the partition's area, and what was saved (R439 to R441). -/
structure Checkpoint where
  part : Nat
  area : Nat
  frame : Nat
  id : Nat
  launch : Launch
  cores : Tab Core
  seqs : Tab Seq
  routes : Tab Route
  time : Nat
  stop : Nat                   -- cycle in which PREEMPT stopped the launch: its timers have stood still since
  deriving DecidableEq, Repr

/-! ## The package (R16 to R37) -/

/-- Bring-up, health, clock and the spare map (R27 to R37). -/
structure Board where
  package : Nat := 0           -- this package's identifier in its pod (R286)
  trained : Option (Nat × Nat) := none
  powered : Bool := false
  step : Nat := 0
  failed : Nat := 0
  ready : Bool := false
  eccwarn : Bool := false
  throttled : Bool := false
  mode : Nat := 0
  pending : Option Nat := none
  bins : Nat := 0
  gen : Word := 0
  spares : List Spare := []
  micros : Nat := 0            -- the reference timer (R9, R430)
  sub : Nat := 0               -- time since the timer last advanced, in units of 1 / `Config.subUnits` microsecond
  cycle : Nat := 0             -- main-clock cycles since power-good
  deriving DecidableEq, Repr

/-- The package as it stands. The fields from `agenda` to `free` are the model's own: who moves next, who moves now, the position of
the default schedule, and the number of the next free value. `hbm` holds the newest bytes of every line, and `dirty` what HBM itself holds
of the lines that are dirty in their slices. `hostMem` is host memory as the package reads it, and `posted` the writes
that still stand in the endpoint's outbound posted queue, oldest first, each with the bytes that the host reads at its address until it
arrives (R236). -/
structure State where
  agenda : List Turn := []
  agent : Agent := .device
  rota : Nat := 0
  free : Nat := 0
  nextId : Nat := 0
  board : Board := {}
  fns : Tab Function := []
  queues : Tab WorkQueue := []
  scheds : Tab Sched := []
  launches : Tab Launch := []
  seqs : Tab Seq := []
  cores : Tab Core := []
  parts : Tab Partition := []
  slots : Tab SeqRec := []
  drains : List KvDrain := []
  serpents : Tab Serpent := []
  jobs : Tab Job := []
  epochs : List Epoch := []
  records : List RecvRec := []
  requests : List Request := []
  answers : List ((Nat × Nat × Nat × Nat) × Packet) := []
  reqids : Tab (BitVec 16) := []
  rounds : List Round := []
  gens : Tab (BitVec 16) := []
  ports : Tab FabricPort := []
  sent : List Sent := []
  hbm : List Host.Cell := []
  hostMem : List Host.Cell := []
  posted : List (Nat × List Byte) := []
  hostDead : List (Nat × Nat) := []
  fullWords : List Nat := []
  lines : Tab LineTag := []
  cache : Tab LineTag := []
  dirty : Tab HbmLine := []
  poison : List Nat := []
  locks : Tab (Nat × Nat) := []
  walkers : List Tlb := []
  clusterTlb : Tab (List Tlb) := []
  sessions : Tab Session := []
  signing : Signing := {}
  draws : Nat := 0
  checkpoints : List Checkpoint := []
  deriving DecidableEq, Repr

/-- The package right after reset: everything that the spec gives a reset value has it, and the rest holds what assumption log 2
names. -/
def State.reset : State := {}

end Sys2Proof.Machine
end

