-- ==== Sys2Proof/Machine/Ops.lean ====
section
/-! DEFINITION. The named operations over State: reading and writing its tables, counters, memory bytes, full/empty and D bits, tags,
fault words, tokens on their way, and taking an exception at a sequencer (the CTXFAULT and trap entry of R127 and R128). -/

namespace Sys2Proof.Machine

open Sys2Proof

/-- The outcome of a step of this machine. -/
abbrev Out := Host.Outcome State Fault Refusal

/-! ## Tables of the state -/

def State.core (s : State) (k : Nat) : Core := Tab.get {} s.cores k
def State.setCore (s : State) (k : Nat) (c : Core) : State := { s with cores := Tab.set s.cores k c }
def State.onCore (s : State) (k : Nat) (f : Core → Core) : State := s.setCore k (f (s.core k))

def Core.elem (c : Core) (e : Nat) : Elem := Tab.get {} c.elems e
def Core.onElem (c : Core) (e : Nat) (f : Elem → Elem) : Core := { c with elems := Tab.set c.elems e (f (c.elem e)) }
def State.elem (s : State) (k e : Nat) : Elem := (s.core k).elem e
def State.onElem (s : State) (k e : Nat) (f : Elem → Elem) : State := s.onCore k (·.onElem e f)

def Core.node (c : Core) (n : Nat) : Node := Tab.get {} c.nodes n
def Core.onNode (c : Core) (n : Nat) (f : Node → Node) : Core := { c with nodes := Tab.set c.nodes n (f (c.node n)) }
def State.node (s : State) (k n : Nat) : Node := (s.core k).node n
def State.onNode (s : State) (k n : Nat) (f : Node → Node) : State := s.onCore k (·.onNode n f)

def Core.frame (c : Core) (f : Nat) : Frame := Tab.get {} c.frames f
def Core.onFrame (c : Core) (f : Nat) (g : Frame → Frame) : Core := { c with frames := Tab.set c.frames f (g (c.frame f)) }

def Core.tile (c : Core) (t : Nat) : Tile := Tab.get {} c.tiles t
def Core.onTile (c : Core) (t : Nat) (f : Tile → Tile) : Core := { c with tiles := Tab.set c.tiles t (f (c.tile t)) }

def State.launch (s : State) (l : Nat) : Launch := Tab.get {} s.launches l
def State.onLaunch (s : State) (l : Nat) (f : Launch → Launch) : State :=
  { s with launches := Tab.set s.launches l (f (s.launch l)) }

def State.seq (s : State) (c : Nat) : Seq := Tab.get {} s.seqs c
def State.onSeq (s : State) (c : Nat) (f : Seq → Seq) : State := { s with seqs := Tab.set s.seqs c (f (s.seq c)) }
def Seq.ap (q : Seq) (a : Nat) : Ap := Tab.get {} q.aps a
def Seq.onAp (q : Seq) (a : Nat) (f : Ap → Ap) : Seq := { q with aps := Tab.set q.aps a (f (q.ap a)) }

def State.queue (s : State) (q : Nat) : WorkQueue := Tab.get {} s.queues q
def State.onQueue (s : State) (q : Nat) (f : WorkQueue → WorkQueue) : State :=
  { s with queues := Tab.set s.queues q (f (s.queue q)) }

def State.part (s : State) (p : Nat) : Partition := Tab.get {} s.parts p
def State.onPart (s : State) (p : Nat) (f : Partition → Partition) : State :=
  { s with parts := Tab.set s.parts p (f (s.part p)) }

def State.fn (s : State) (n : Nat) : Function := Tab.get {} s.fns n
def State.onFn (s : State) (n : Nat) (f : Function → Function) : State := { s with fns := Tab.set s.fns n (f (s.fn n)) }

def State.slot (s : State) (q : Nat) : SeqRec := Tab.get {} s.slots q
def State.onSlot (s : State) (q : Nat) (f : SeqRec → SeqRec) : State := { s with slots := Tab.set s.slots q (f (s.slot q)) }

def State.port (s : State) (p : Nat) : FabricPort := Tab.get {} s.ports p
def State.onPort (s : State) (p : Nat) (f : FabricPort → FabricPort) : State :=
  { s with ports := Tab.set s.ports p (f (s.port p)) }

/-- The cycle of the main clock. -/
def State.now (s : State) : Nat := s.board.cycle

/-- A free value of a site, and the state that will give another (assumption log 6). -/
def State.freeWord (s : State) (site : Nat) : Word × State := (Config.freeWord site s.free, { s with free := s.free + 1 })

/-- `n` free values of a site. -/
def State.freeWords (s : State) (site : Nat) : Nat → List Word × State
  | 0 => ([], s)
  | n + 1 =>
    let (w, s) := s.freeWord site
    let (ws, s) := s.freeWords site n
    (w :: ws, s)

/-- A new number for an access, a launch or a place in an arrival order. -/
def State.newId (s : State) : Nat × State := (s.nextId, { s with nextId := s.nextId + 1 })

/-! ## Places: who may perform a step -/

def atElem (s : State) (f : Nat → Nat → State) : Out :=
  match s.agent with
  | .elem k e => if k < 64 ∧ e < 1024 then .next (f k e) else .fault .noSuchResource
  | _ => .fault .wrongAgent

def atNode (s : State) (f : Nat → Nat → State) : Out :=
  match s.agent with
  | .node k n => if k < 64 ∧ n < 36 then .next (f k n) else .fault .noSuchResource
  | _ => .fault .wrongAgent

def atSeq (s : State) (f : Nat → State) : Out :=
  match s.agent with
  | .seq c => if c < 16 then .next (f c) else .fault .noSuchResource
  | _ => .fault .wrongAgent

def atConfig (s : State) (f : Nat → State) : Out :=
  match s.agent with
  | .config k => if k < 64 then .next (f k) else .fault .noSuchResource
  | _ => .fault .wrongAgent

def atCore (s : State) (f : Nat → State) : Out :=
  match s.agent with
  | .core k => if k < 64 then .next (f k) else .fault .noSuchResource
  | _ => .fault .wrongAgent

def atQueue (s : State) (f : Nat → State) : Out :=
  match s.agent with
  | .queue q => if q < Config.queueCount then .next (f q) else .fault .noSuchResource
  | _ => .fault .wrongAgent

def atSched (s : State) (f : Nat → State) : Out :=
  match s.agent with
  | .sched d => if d < 9 then .next (f d) else .fault .noSuchResource
  | _ => .fault .wrongAgent

def atLaunch (s : State) (f : Nat → State) : Out :=
  match s.agent with
  | .launch l => .next (f l)
  | _ => .fault .wrongAgent

def atLoader (s : State) (f : Nat → State) : Out :=
  match s.agent with
  | .loader c => if c < 16 then .next (f c) else .fault .noSuchResource
  | _ => .fault .wrongAgent

def atAp (s : State) (f : Nat → Nat → State) : Out :=
  match s.agent with
  | .ap c a => if c < 16 ∧ a < 16 then .next (f c a) else .fault .noSuchResource
  | _ => .fault .wrongAgent

def atInst (s : State) (f : Nat → Nat → Tag → State) : Out :=
  match s.agent with
  | .inst k fr t => if k < 64 ∧ fr < 8 then .next (f k fr t) else .fault .noSuchResource
  | _ => .fault .wrongAgent

def atAccess (s : State) (f : Nat → Nat → State) : Out :=
  match s.agent with
  | .access k id => if k < 64 then .next (f k id) else .fault .noSuchResource
  | _ => .fault .wrongAgent

def atPort (s : State) (f : Nat → State) : Out :=
  match s.agent with
  | .port p => if p < 96 then .next (f p) else .fault .noSuchResource
  | _ => .fault .wrongAgent

def atEpoch (s : State) (f : Nat → State) : Out :=
  match s.agent with
  | .epoch i => .next (f i)
  | _ => .fault .wrongAgent

def atRoute (s : State) (f : Nat → Nat → State) : Out :=
  match s.agent with
  | .route p n => if p < 8 ∧ n < 8 then .next (f p n) else .fault .noSuchResource
  | _ => .fault .wrongAgent

def atFn (s : State) (f : Nat → State) : Out :=
  match s.agent with
  | .fn n => if n < 9 then .next (f n) else .fault .noSuchResource
  | _ => .fault .wrongAgent

def atDevice (s : State) (f : State) : Out :=
  match s.agent with
  | .device => .next f
  | _ => .fault .wrongAgent

/-! ## Counters (R438) -/

/-- Core counters, by number 0x100 + i of R438. -/
def cntStrayPurge : Nat := 0
def cntStraySticky : Nat := 1
def cntFabColl : Nat := 2
def cntLate : Nat := 3
def cntStickyEnd : Nat := 4
def cntSpilled : Nat := 5
def cntOvfl : Nat := 6
def cntNoBind : Nat := 7
def cntEccCorr : Nat := 8
def cntTraps : Nat := 9

/-- Partition counters, by number 0x180 + i of R438. -/
def cntCommitStray : Nat := 0
def cntDup : Nat := 1
def cntStale : Nat := 2
def cntDmarkDrop : Nat := 3
def cntNoJob : Nat := 4
def cntQueueDisabled : Nat := 5
def cntStaleDb : Nat := 6
def cntMalformed : Nat := 7
def cntForeign : Nat := 8
def cntLost : Nat := 9

def Core.count (c : Core) (i : Nat) (n : Nat := 1) : Core :=
  { c with counters := Tab.set c.counters i (Tab.get 0 c.counters i + BitVec.ofNat 32 n) }

def State.countCore (s : State) (k i : Nat) : State := s.onCore k (·.count i)

def State.countPart (s : State) (p i : Nat) : State :=
  s.onPart p fun q => { q with counters := Tab.set q.counters i (Tab.get 0 q.counters i + 1) }

/-! ## Bytes (R8, R22, R230) -/

/-- A byte of a memory; a byte that nothing has written reads zero (assumption log 1). -/
def byteAt (m : List Host.Cell) (a : Nat) : Byte := Tab.get 0#8 m a

/-- Write a byte, keeping the canonical form: rising addresses and no listed zero. -/
def putByte (m : List Host.Cell) (a : Nat) (b : Byte) : List Host.Cell :=
  if b == 0#8 then Tab.del m a else Tab.set m a b

/-- The canonical form of a memory. -/
abbrev Memory.wf (m : List Host.Cell) : Bool := Tab.wf m && m.all fun c => c.2 != 0#8

def readBytes (m : List Host.Cell) (a n : Nat) : List Byte := (List.range n).map fun i => byteAt m (a + i)

def writeBytes (m : List Host.Cell) (a : Nat) : List Byte → List Host.Cell
  | [] => m
  | b :: bs => writeBytes (putByte m a b) (a + 1) bs

/-- Words `w0` to `w0 + n - 1` as a list. -/
def span (w0 n : Nat) : List Nat := (List.range n).map (w0 + ·)

/-- The 32-bit word numbers that `n` bytes from `a` touch. -/
def wordsTouched (a n : Nat) : List Nat := if n == 0 then [] else span (a / 4) ((a + n - 1) / 4 + 1 - a / 4)

/-- The 128-byte line numbers that `n` bytes from `a` touch. -/
def linesTouched (a n : Nat) : List Nat := if n == 0 then [] else span (a / 128) ((a + n - 1) / 128 + 1 - a / 128)

def insertAll (xs : List Nat) (set : List Nat) : List Nat := xs.foldl (fun acc x => insertSorted x acc) set
def removeAll (xs : List Nat) (set : List Nat) : List Nat := xs.foldl (fun acc x => removeSorted x acc) set

/-! ## Tags (R40 to R42) -/

def ctxOf (t : Tag) : Nat := bits t.toNat 63 52
def depthOf (t : Tag) : Nat := bits t.toNat 51 48
/-- The iteration that the commit node, the sequence unit and the Serpent unit read (R353). -/
def iterOf (t : Tag) : Nat := bits t.toNat 15 0

def tagLevel (t : Tag) (ofs wid : Nat) : Nat := (t.toNat >>> (4 * ofs)) % 2 ^ widthOf wid
def tagSetLevel (t : Tag) (ofs wid v : Nat) : Tag :=
  BitVec.ofNat 64 (setBits t.toNat (4 * ofs + widthOf wid - 1) (4 * ofs) v)
def tagSetDepth (t : Tag) (d : Nat) : Tag := BitVec.ofNat 64 (setBits t.toNat 51 48 d)

/-- The DETAIL of an ARITH fault of a tag operation, or its result (R41). -/
def tagApply (op : TagOp) (t : Tag) : Except Nat Tag :=
  match op with
  | .keep => .ok t
  | .enter o w =>
    if depthOf t == 12 || !levelOk o.toNat w.toNat then .error 0x01
    else .ok (tagSetLevel (tagSetDepth t (depthOf t + 1)) o.toNat w.toNat 0)
  | .next o w =>
    if depthOf t == 0 then .error 0x02
    else .ok (tagSetLevel t o.toNat w.toNat (tagLevel t o.toNat w.toNat + 1))
  | .leave o w =>
    if depthOf t == 0 then .error 0x02
    else .ok (tagSetLevel (tagSetDepth t (depthOf t - 1)) o.toNat w.toNat 0)

/-- The levels in which two tags are compared: those of the table and the maximal runs below bit 48 that no level covers, by bit
offset and width, from bit 0 upward (R42). -/
def ageLevels (levels : List (Nat × Nat)) : List (Nat × Nat) :=
  let covered (b : Nat) : Option (Nat × Nat) := levels.find? fun l => l.1 ≤ b && b < l.1 + l.2
  let rec go : Nat → Nat → List (Nat × Nat)
    | 0, _ => []
    | fuel + 1, b =>
      if b ≥ 48 then [] else
      match covered b with
      | some l => (b, l.1 + l.2 - b) :: go fuel (l.1 + l.2)
      | none =>
        let n := ((List.range (48 - b)).takeWhile fun i => (covered (b + i)).isNone).length
        (b, n) :: go fuel (b + n)
  go 48 0

/-- Whether tag `a` is older than `b` in the age order (R42); false where there is none. -/
def tagOlder (levels : List (Nat × Nat)) (a b : Tag) : Bool :=
  if ctxOf a != ctxOf b || depthOf a != depthOf b then false
  else match (ageLevels levels).find? fun l => (a.toNat >>> l.1) % 2 ^ l.2 != (b.toNat >>> l.1) % 2 ^ l.2 with
    | none => false
    | some l =>
      let d := ((b.toNat >>> l.1) % 2 ^ l.2 + 2 ^ l.2 - (a.toNat >>> l.1) % 2 ^ l.2) % 2 ^ l.2
      1 ≤ d && d + 1 ≤ 2 ^ (l.2 - 1)

/-- Whether the iteration `a` is newer than `b` among 16-bit iterations (R42, R355, R366). -/
def iterNewer (a b : Nat) : Bool :=
  let d := (a + 65536 - b) % 65536
  1 ≤ d && d < 32768

/-! ## Faults (R39, R427) -/

def fcMisalign : Nat := 0x01
def fcAttrSplit : Nat := 0x02
def fcTrans : Nat := 0x03
def fcProt : Nat := 0x04
def fcClass : Nat := 0x05
def fcDmark : Nat := 0x06
def fcDuptag : Nat := 0x07
def fcOvfl : Nat := 0x08
def fcIstw : Nat := 0x09
def fcBlocked : Nat := 0x0A
def fcUnbound : Nat := 0x0B
def fcSig : Nat := 0x0C
def fcFabric : Nat := 0x0D
def fcEccu : Nat := 0x0E
def fcTimeout : Nat := 0x0F
def fcArith : Nat := 0x10

/-- The fault word of R39. -/
def faultWord (code core x y detail : Nat) : Word :=
  BitVec.ofNat 32 (code % 256 * 2 ^ 24 + core % 64 * 2 ^ 18 + x % 32 * 2 ^ 13 + y % 32 * 2 ^ 8 + detail % 256)

/-- Column and row of an element number. -/
def colOf (e : Nat) : Nat := e % 32
def rowOf (e : Nat) : Nat := e / 32

/-- The frame that covers an element (R17). -/
def frameOf (e : Nat) : Nat := colOf e / 16 + 2 * (rowOf e / 8)

/-- The element at an offset of a frame (R17, R57). -/
def frameElem (f dx dy : Nat) : Nat := (8 * (f / 2) + dy) * 32 + 16 * (f % 2) + dx

/-- The first element that R18 attaches to a node-port index. -/
def firstAttached (n : Nat) : Nat :=
  let at_ (x y : Nat) := y * 32 + x
  if n < 8 then at_ (4 * n) 0
  else if n < 16 then at_ (4 * (n - 8)) 31
  else if n < 24 then at_ (if (n - 16) % 2 == 0 then 0 else 31) (8 * ((n - 16) / 2))
  else if n < 32 then
    let m := (n - 24) % 4
    at_ (if m % 2 == 0 then 0 else 31) (if m < 2 then 0 else 16)
  else if n == 32 then at_ 15 7
  else if n == 33 then at_ 15 23
  else if n == 34 then at_ 12 31
  else at_ 12 0

/-- Note the virtual address that a fault held: the newest 64 are kept (R429). -/
def State.noteVa (s : State) (k : Nat) (otag : Tag) (code va : Nat) : State :=
  s.onCore k fun c =>
    let vs := c.vas ++ [{ otag := otag, code := code, va := va }]
    { c with vas := vs.drop (vs.length - 64) }

/-! ## Instances (R58, R60, R62) -/

def Core.inst? (c : Core) (f : Nat) (t : Tag) : Option Instance := c.insts.find? fun i => i.frame == f && i.tag == t

def Core.onInst (c : Core) (f : Nat) (t : Tag) (g : Instance → Instance) : Core :=
  match c.inst? f t with
  | some _ => { c with insts := replaceFirst (fun i => i.frame == f && i.tag == t) g c.insts }
  | none => { c with insts := c.insts ++ [g { frame := f, tag := t }] }

/-- A fault has become precise: it waits for its record, and the instance that carries it never completes (R62). -/
def Core.addPrecise (c : Core) (p : Precise) (inst : Option (Nat × Tag)) : Core :=
  let c := { c with precise := c.precise ++ [{ p with inst := inst }] }
  match inst with
  | some (f, t) => c.onInst f t fun i => { i with faulted := true }
  | none => c

/-! ## Spares (R19, R32, R445) -/

/-- Whether a core is mapped out. -/
def State.coreLost (s : State) (k : Nat) : Bool := s.board.spares.contains (.core k)

/-- Whether an element, or its whole core, is mapped out. -/
def State.elemLost (s : State) (k e : Nat) : Bool := s.coreLost k || s.board.spares.contains (.elem k (colOf e) (rowOf e))

/-- The trust domain of the package: that of its live domains; 0 where none has one (R401). -/
def State.tdid (s : State) : DWord :=
  (s.parts.findSome? fun (p : Nat × Partition) => p.2.domains.findSome? fun (d : Nat × Domain) =>
    if d.2.live && d.2.tdid != 0 then some d.2.tdid else none).getD 0

/-! ## Launches (R66, R433, R434) -/

/-- The launch that a core serves. -/
def State.coreLaunch (s : State) (k : Nat) : Option (Nat × Launch) :=
  match (s.core k).launch with
  | some l => (Tab.find? s.launches l).map fun x => (l, x)
  | none => none

/-- The partition that a core's launch belongs to. -/
def State.corePart (s : State) (k : Nat) : Option Nat :=
  match s.coreLaunch k with
  | some (_, l) => l.part
  | none => none

/-- Clusters and cores of a launch. -/
def Launch.clusters (l : Launch) : List Nat := (List.range 16).filter fun c => bit l.cmd.cmask.toNat c
def Launch.cores (l : Launch) : List Nat := l.clusters.flatMap fun c => [4 * c, 4 * c + 1, 4 * c + 2, 4 * c + 3]

/-- The seal domain of a launch, if it has one (R138). -/
def Launch.sdom? (l : Launch) : Option Nat := if l.cmd.sdv then some l.cmd.sdom.toNat else none

def Launch.ctxKilled (l : Launch) (ctx : Nat) : Bool :=
  match Tab.find? l.fates ctx with | some .killed => true | _ => false
def Launch.ctxSuspended (l : Launch) (ctx : Nat) : Bool :=
  match Tab.find? l.fates ctx with | some (.suspended _) => true | _ => false
def Launch.ctxHeld (l : Launch) (ctx : Nat) : Bool := (Tab.find? l.fates ctx).isSome

/-- Whether items of a context may move on a core: its launch runs and the context is neither suspended nor killed (R433, R439). -/
def State.ctxRuns (s : State) (k : Nat) (ctx : Nat) : Bool :=
  match s.coreLaunch k with
  | some (_, l) => l.st == .running && !l.ctxHeld ctx
  | none => false

/-- Whether every configuration word pushed to a core is in effect: it has been received in an earlier cycle (R68, R123). -/
def State.wordsTaken (s : State) (k : Nat) : Bool := (s.core k).fifo.isEmpty && (s.core k).wordsFrom ≤ s.now

/-- Whether a core serves a launch that has not failed. -/
def State.coreLive (s : State) (k : Nat) : Bool :=
  match s.coreLaunch k with
  | some (_, l) => l.st == .running || l.st == .draining
  | none => false

/-- The address space of a core's launch. -/
def State.coreAsid (s : State) (k : Nat) : Nat :=
  match s.coreLaunch k with
  | some (_, l) => l.asid
  | none => 0

/-- A launch fails: its first failure counts, and it stops as R343 lays down once the step LAUNCH_FAIL_COMPLETE is taken. -/
def State.failLaunch (s : State) (l : Nat) (f : Failure) : State :=
  s.onLaunch l fun x =>
    match x.st with
    | .failing => x
    | _ => { x with st := .failing, failure := some f }

/-- A launch fails at a core. -/
def State.failCore (s : State) (k : Nat) (f : Failure) : State :=
  match s.coreLaunch k with
  | some (l, _) => s.failLaunch l f
  | none => s

/-- Completion statuses of R133 and R419. -/
def stOk : Nat := 0x00
def stNotReady : Nat := 0x01
def stDenied : Nat := 0x02
def stBadCmd : Nat := 0x03
def stBadAddr : Nat := 0x04
def stBadPart : Nat := 0x05
def stBadCfg : Nat := 0x06
def stFrameBusy : Nat := 0x07
def stBadNode : Nat := 0x08
def stBadSeq : Nat := 0x09
def stBadImage : Nat := 0x0A
def stBadStream : Nat := 0x0B
def stSeqFault : Nat := 0x0C
def stSeqTrap : Nat := 0x0D
def stBlocked : Nat := 0x0E
def stNoLaunch : Nat := 0x0F
def stClosed : Nat := 0x10
def stReBusy : Nat := 0x11
def stOverrun : Nat := 0x12
def stBadChain : Nat := 0x13
def stKilled : Nat := 0x14
def stPreempted : Nat := 0x15

/-- Statuses of the security commands (R419). -/
def stBadSeal : Nat := 0x80
def stPolicy : Nat := 0x81
def stNotSealed : Nat := 0x82
def stDomFull : Nat := 0x83
def stDomBusy : Nat := 0x84
def stSig : Nat := 0x85
def stLocked : Nat := 0x86
def stSessFail : Nat := 0x87
def stSessFull : Nat := 0x88
def stNoSession : Nat := 0x89
def stSigState : Nat := 0x8A
def stSigExh : Nat := 0x8B

/-- A computation over the state that may end in a launch failure. -/
abbrev Try (α : Type) := Except Failure α × State

/-- Go on with a value, or keep the failure. -/
def tryThen {α β : Type} (m : Try α) (f : α → State → Try β) : Try β :=
  match m with
  | (.error e, s) => (.error e, s)
  | (.ok v, s) => f v s

/-! ## The SPILL pool (R326, R328) -/

/-- Records that the pool of a partition holds: 4096 of 16 bytes for each page of 64 KiB. -/
def Partition.spillRecords (p : Partition) : Nat := p.spillFrames.length * 4096

/-- Take `n` records from the pool of a core's partition; none where it has not so many free. -/
def State.spillTake (s : State) (k n : Nat) : Option State :=
  match s.corePart k with
  | none => none
  | some p =>
    if (s.part p).spillUsed + n ≤ (s.part p).spillRecords then
      some (s.onPart p fun q => { q with spillUsed := q.spillUsed + n })
    else none

/-- Return `n` records to the pool of a core's partition. -/
def State.spillGive (s : State) (k n : Nat) : State :=
  match s.corePart k with
  | none => s
  | some p => s.onPart p fun q => { q with spillUsed := q.spillUsed - n }

/-- The 16-byte token record of R38, and the second record of an F token, which holds its origin tag (R39). -/
def Token.record (t : Token) : List (BitVec 128) :=
  BitVec.ofNat 128 (t.elem % 1024 * 2 ^ 106 + t.slv % 16 * 2 ^ 102 + t.slot % 4 * 2 ^ 100 + b2n t.origin.isSome * 2 ^ 99 +
    b2n t.d * 2 ^ 98 + maCode t.ma * 2 ^ 96 + t.tag.toNat * 2 ^ 32 + t.val.toNat) ::
  match t.origin with
  | some o => [o.setWidth 128]
  | none => []

/-- The token that records hold (R38, R39): the fabricated flag is no part of them (R331), and bits [127:116] are ignored. -/
def Token.ofRecord : List (BitVec 128) → Token
  | [] => { elem := 0, slot := 0 }
  | r :: more =>
    let x := r.toNat
    { elem := bits x 115 106, slv := bits x 105 102, slot := bits x 101 100, d := bit x 98, ma := maOf (bits x 97 96),
      tag := BitVec.ofNat 64 (bits x 95 32), val := BitVec.ofNat 32 (bits x 31 0),
      origin := if bit x 99 then some ((more.headD 0).setWidth 64) else none }

/-- A token as tiers 2 and 3 and the overflow of the arrival buffer hold it: its records, with the block instance and the place in the
arrival order, which are the model's own. -/
def Token.recorded (t : Token) : Token := { Token.ofRecord t.record with inst := t.inst, ord := t.ord }

/-- Records that a token occupies in tiers 2 and 3 (R48). -/
def Token.records (t : Token) : Nat := t.record.length

/-! ## Taking an exception at a sequencer (R127, R128) -/

/-- A pc that R116 allows. -/
def pcOk (pc : Nat) : Bool := pc % 4 == 0 && pc < 0x10000

/-- The entry of a trap: EPC holds the return address, ECAUSE the code and the cause, EVAL the context; INTRAP is set and pc goes to
TVEC (R127, R128). -/
def Seq.takeTrap (q : Seq) (cause code ctx ret : Nat) : Seq :=
  { q with epc := BitVec.ofNat 64 ret, ecause := BitVec.ofNat 64 (code * 256 + cause), eval := BitVec.ofNat 64 ctx,
           intrap := true, pc := q.tvec.toNat }

/-- The return from a trap: INTRAP is cleared and pc goes to EPC (R127). -/
def Seq.returnTrap (q : Seq) : Seq := { q with intrap := false, pc := q.epc.toNat }

/-- A link is DOWN: what it was assembling or held is lost with it (R307). -/
def FabricPort.down (x : FabricPort) : FabricPort :=
  { x with retrain := false, crcFails := 0, link := .down, flits := [], out := [], hold := false, peerDomains := [] }

end Sys2Proof.Machine
end

