-- ==== Sys2Proof/Machine/Operands.lean ====
section
/-! DEFINITION. The operands of an element: immediates (R87), the fired set (R46, R52, R157), lanes of packed types (R80, R157), and
the data of a wide packet (R65, R192). -/

namespace Sys2Proof.Machine

open Sys2Proof

/-- Lane width and signedness of an integer type (R80, R157). -/
def intLanes : ElemType → Nat × Bool
  | .s32 => (32, true) | .n32 => (32, false) | .s16x2 => (16, true) | .n16x2 => (16, false)
  | .s8x4 => (8, true) | .n8x4 => (8, false) | _ => (32, false)

/-- Lane format and width of a float type (R80, R169). -/
def floatLanes : ElemType → FFmt × Nat
  | .bf16x2 => (bf16, 16) | .f16x2 => (fp16, 16) | _ => (fp32, 32)

/-- Quieten every NaN of a float operand, keeping its payload (R87). -/
def quietLanes (k : FFmt) (w x : Nat) : Nat :=
  ofLanes w ((lanes w x).map fun l => match fdecode k l with | .nan s f => quietNan k s f | _ => l)

/-- The 32-bit operand of an immediate (R87). -/
def immOperand (ty : ElemType) (imm : Nat) (wide : Option (BitVec 16)) : Nat :=
  let v := match wide with
    | some u => u.toNat * 2 ^ 16 + imm
    | none => match ty with
      | .s32 => wrap (signExt imm 16) 32
      | .n32 => imm
      | .s16x2 | .n16x2 | .bf16x2 | .f16x2 => imm * 2 ^ 16 + imm
      | .s8x4 | .n8x4 => imm % 256 * 0x01010101
      | .f32 => imm * 2 ^ 16
  match ty with
  | .f32 => quietLanes fp32 32 v
  | .bf16x2 => quietLanes bf16 16 v
  | .f16x2 => quietLanes fp16 16 v
  | _ => v

/-- The immediate of an element (R87); opcodes of type "—" have type code 0 and take ZeroExt(IMM, 16) (R157). -/
def immValue (a : ElemArgs) (typed : Bool) : Nat :=
  immOperand (if typed then a.ty else .n32) a.imm.toNat a.wide

/-- The operands of a fired set: payloads by slot with the substituted slot filled, the tokens, and the fired tag (R46, R52). -/
structure Opnds where
  vals : List Nat
  toks : List (Option Token)
  tag : Tag
  deriving DecidableEq, Repr

/-- Payload of a slot. -/
def Opnds.val (o : Opnds) (i : Nat) : Nat := o.vals.getD i 0
/-- D bit of a slot's token; a substituted slot has none. -/
def Opnds.d (o : Opnds) (i : Nat) : Bool := match o.toks.getD i none with | some t => t.d | none => false
/-- The OR of the D bits of the fired set (R53). -/
def Opnds.dAll (o : Opnds) : Bool := o.toks.any fun t => match t with | some x => x.d | none => false
/-- Whether a slot's token is an F token. -/
def Opnds.f (o : Opnds) (i : Nat) : Bool := match o.toks.getD i none with | some t => t.origin.isSome | none => false
/-- The lowest slot that holds an F token (R54). -/
def Opnds.firstF (o : Opnds) : Option Nat := [0, 1, 2, 3].find? o.f

/-- The operands of a fired set under an instruction's fields. -/
def operandsOf (a : ElemArgs) (typed : Bool) (x : Fired) : Opnds :=
  { vals := [0, 1, 2, 3].map fun i =>
      if a.sub == some (BitVec.ofNat 2 i) then immValue a typed
      else match x.toks.getD i none with | some t => t.val.toNat | none => 0
    toks := x.toks
    tag := x.tag }

/-- Lanes of an integer operand, read signed or unsigned by the type (R157). -/
def laneInts (ty : ElemType) (x : Nat) : List Int :=
  let (w, s) := intLanes ty
  (lanes w x).map fun l => if s then signExt l w else (l : Int)

/-- A 32-bit word from lane results modulo the lane width (R157). -/
def ofLaneInts (ty : ElemType) (ls : List Int) : Nat :=
  let w := (intLanes ty).1
  ofLanes w (ls.map fun v => wrap v w)

/-- A lane operation of two operands. -/
def int2 (ty : ElemType) (f : Int → Int → Int) (x y : Nat) : Nat :=
  ofLaneInts ty (List.zipWith f (laneInts ty x) (laneInts ty y))

/-- A lane operation on the unsigned lanes of two operands, with the lane width. -/
def lane2 (ty : ElemType) (f : Nat → Nat → Nat → Nat) (x y : Nat) : Nat :=
  let w := (intLanes ty).1
  ofLanes w (List.zipWith (f w) (lanes w x) (lanes w y))

/-- Float lane operations. -/
def float1 (ty : ElemType) (f : FFmt → Nat → Nat) (x : Nat) : Nat :=
  let (k, w) := floatLanes ty
  ofLanes w ((lanes w x).map (f k))
def float2 (ty : ElemType) (f : FFmt → Nat → Nat → Nat) (x y : Nat) : Nat :=
  let (k, w) := floatLanes ty
  ofLanes w (List.zipWith (f k) (lanes w x) (lanes w y))
def float3 (ty : ElemType) (f : FFmt → Nat → Nat → Nat → Nat) (x y z : Nat) : Nat :=
  let (k, w) := floatLanes ty
  ofLanes w (List.zipWith (fun (a : Nat × Nat) c => f k a.1 a.2 c) (List.zip (lanes w x) (lanes w y)) (lanes w z))

/-- Lane `i` of a wide packet; lanes that are not listed are zero. -/
def Wide.lane (w : Wide) (i : Nat) : Word := w.lanes.getD i 0

/-- The 64 lanes of a wide packet. -/
def Wide.all (w : Wide) : List Word := (List.range 64).map w.lane

/-- A narrow token as the wide packet that it enters a node port as: an F token puts its origin tag in lanes 1 and 2 (R65, R192). -/
def widen (t : Token) (task : Nat) : Wide :=
  match t.origin with
  | none => { lanes := [t.val], tag := t.tag, d := t.d, task := task }
  | some o => { lanes := [t.val, BitVec.ofNat 32 o.toNat, BitVec.ofNat 32 (o.toNat / 2 ^ 32)], tag := t.tag, d := t.d, task := task,
                f := true }

/-- The origin tag of a wide F packet (R192). -/
def Wide.origin (w : Wide) : Tag := BitVec.ofNat 64 ((w.lane 1).toNat + 2 ^ 32 * (w.lane 2).toNat)

/-- The wide F packet of a fault word and an origin tag (R192). -/
def wideFault (word : Word) (otag tag : Tag) (d : Bool) : Wide :=
  { lanes := [word, BitVec.ofNat 32 otag.toNat, BitVec.ofNat 32 (otag.toNat / 2 ^ 32)], tag := tag, d := d, f := true }

end Sys2Proof.Machine
end

