-- ==== Sys2Proof/Machine/Flags.lean ====
section
/-! DEFINITION. The predicates and conditions of the element instructions: the predicate of F6 (R85, R159), the WHEN of a target, the
comparison conditions (R81, R166, R172), and the sequencer's branch conditions (R116). -/

namespace Sys2Proof.Machine

open Sys2Proof

/-- The predicate that F6 selects; true where it selects none (R85, R159). -/
def predicate (a : ElemArgs) (o : Opnds) : Bool :=
  match a.f6 with
  | .pred inv p => if p == 0 then true else (o.val (p.toNat - 1) != 0) != inv
  | .wave _ _ _ => true

/-- Whether a target receives a result under a predicate (R159). -/
def whenOk (t : Target) (p : Bool) : Bool := t.whenP == 0 || (t.whenP == 1 && p) || (t.whenP == 2 && !p)

/-- A comparison condition on integers (R81, R166). -/
def intCond (cond : Nat) (x y : Int) : Bool :=
  match cond with
  | 0 => x == y
  | 1 => x != y
  | 2 => decide (x < y)
  | 3 => decide (x ≤ y)
  | 4 => decide (y < x)
  | _ => decide (y ≤ x)

/-- A comparison condition on two float lanes (R172). -/
def floatCond (k : FFmt) (cond a b : Nat) : Bool :=
  let nan := isNan k a || isNan k b
  match cond with
  | 0 => !nan && fcompare k a b == .eq
  | 1 => nan || fcompare k a b != .eq
  | 2 => !nan && fcompare k a b == .lt
  | 3 => !nan && fcompare k a b != .gt
  | 4 => !nan && fcompare k a b == .gt
  | 5 => !nan && fcompare k a b != .lt
  | 6 => nan
  | _ => !nan

/-- All ones or zero in a lane (R166, R172). -/
def laneTruth (w : Nat) (b : Bool) : Nat := if b then 2 ^ w - 1 else 0

/-- `cmp` on the lanes of two operands (R166). -/
def cmpLanes (ty : ElemType) (cond x y : Nat) : Nat :=
  let w := (intLanes ty).1
  ofLanes w (List.zipWith (fun a b => laneTruth w (intCond cond a b)) (laneInts ty x) (laneInts ty y))

/-- `fcmp` on the lanes of two operands (R172). -/
def fcmpLanes (ty : ElemType) (cond x y : Nat) : Nat :=
  let (k, w) := floatLanes ty
  ofLanes w (List.zipWith (fun a b => laneTruth w (floatCond k cond a b)) (lanes w x) (lanes w y))

end Sys2Proof.Machine
end

