-- ==== Sys2Proof/Machine/Emit.lean ====
section
/-! DEFINITION. How an element issues a fired set and emits its results: the order of issue (R49, R52), result tokens (R53), forwarded
and raised F tokens (R54, R160), the predicate of a target (R159), and where a fault becomes precise (R62). -/

namespace Sys2Proof.Machine

open Sys2Proof

/-- What all results of one firing share: the place, the fields of the instruction, the block instance, and the cycle from which they
may arrive. -/
structure Shot where
  k : Nat
  e : Nat
  args : ElemArgs
  frame : Nat
  slot : Nat
  inst : Tag
  ready : Nat
  deriving DecidableEq, Repr

/-- The fields of one result that R53 and R54 do not take from the target. -/
structure Res where
  val : Word
  tag : Tag
  d : Bool
  origin : Option Tag := none
  fab : Bool := false
  deriving DecidableEq, Repr

/-- Put a message on a core's network. -/
def State.travel (s : State) (k : Nat) (t : Transit) : State := s.onCore k fun c => { c with transit := c.transit ++ [t] }

/-- The token that a result gives an operand slot (R53). -/
def Res.token (r : Res) (ma : MA) (t : Target) (e slot : Nat) (inst : Option Tag) : Token :=
  { elem := e, slot := slot, ma := ma, slv := if ma == .sticky || ma == .purge then t.slv.toNat else 0, tag := r.tag, val := r.val,
    d := r.d, origin := r.origin, fab := r.fab, inst := inst }

/-- A fault becomes precise at an element (R62, R430 NODE 63): the instance never completes. -/
def State.preciseAt (s : State) (sh : Shot) (word : Word) (otag : Tag) (d : Bool) : State :=
  s.onCore sh.k fun c => c.addPrecise
    { word := word, otag := otag, itag := sh.inst, d := d, ctx := ctxOf sh.inst,
      place := { node := 63, x := colOf sh.e, y := rowOf sh.e, frame := sh.frame, slot := sh.slot } }
    (some (sh.frame, sh.inst))

/-- Send a result to a node port; an F token ends the instance of its fired set (R62). -/
def State.toNode (s : State) (sh : Shot) (i n port : Nat) (t : Target) (r : Res) : State :=
  let s := if r.origin.isSome then s.onCore sh.k (·.onInst sh.frame sh.inst fun x => { x with faulted := true }) else s
  s.travel sh.k { chan := [0, sh.e, i], dest := .node n port, ready := sh.ready, src := some sh.frame,
                  msg := .narrow (r.token sh.args.ma t sh.e port (some sh.inst)) sh.args.task.toNat }

/-- Send a result to a block output: a value goes where BOUT binds the output (R56, R60, R75), an F token becomes precise (R62). -/
def State.toOutput (s : State) (sh : Shot) (i n : Nat) (t : Target) (r : Res) : State :=
  match r.origin with
  | some o => s.preciseAt sh r.val o r.d
  | none =>
    let s := s.onCore sh.k (·.onInst sh.frame sh.inst fun x => { x with outs := insertSorted n x.outs })
    let go (f inp : Nat) : State :=
      s.travel sh.k { chan := [0, sh.e, i], dest := .input f inp, ready := sh.ready, src := some sh.frame,
                      msg := .narrow (r.token sh.args.ma t 0 0 none) sh.args.task.toNat }
    match Tab.find? ((s.core sh.k).frame sh.frame).bouts n with
    | none => s
    | some (.frame f inp) => go f inp
    | some (.here inp) => go sh.frame inp
    | some (.node nd port) => s.toNode sh i nd port t r

/-- Send a result to one target (R53, R82). -/
def State.toTarget (s : State) (sh : Shot) (i : Nat) (t : Target) (r : Res) : State :=
  match t.dest with
  | .none => s
  | .slot n os =>
    match Tab.find? ((s.core sh.k).frame sh.frame).map n.toNat with
    | none => s
    | some e =>
      s.travel sh.k { chan := [0, sh.e, i], dest := .elem e os.toNat, ready := sh.ready, src := some sh.frame,
                      msg := .narrow (r.token sh.args.ma t e os.toNat (some sh.inst)) sh.args.task.toNat }
  | .out n => s.toOutput sh i n.toNat t r
  | .node n os => s.toNode sh i n.toNat os.toNat t r

/-- The three targets of an element, numbered 1 to 3. -/
def targetsOf (a : ElemArgs) : List (Nat × Target) := [(1, a.t1), (2, a.t2), (3, a.t3)]

/-- Emit one result to every target that a test admits. -/
def State.emitWhere (s : State) (sh : Shot) (ok : Nat → Target → Bool) (r : Res) : State :=
  (targetsOf sh.args).foldl (fun s it => if ok it.1 it.2 then s.toTarget sh it.1 it.2 r else s) s

/-- The tag of an F token: the fired tag under F5, or the fired tag where F5 itself faults (R54). -/
def faultTag (op : TagOp) (t : Tag) : Tag := match tagApply op t with | .ok x => x | .error _ => t

/-- Emit an F token to every target whatever its WHEN (R54, R159, R160). -/
def State.emitF (s : State) (sh : Shot) (word : Word) (otag tag : Tag) (d : Bool) : State :=
  s.emitWhere sh (fun _ _ => true) { val := word, tag := faultTag sh.args.tagOp tag, d := d, origin := some otag }

/-- Raise a fault in place of a result (R160). -/
def State.raise (s : State) (sh : Shot) (code detail : Nat) (tag : Tag) (d : Bool) : State :=
  s.emitF sh (faultWord code sh.k (colOf sh.e) (rowOf sh.e) detail) tag tag d

/-- What an instruction gives for a fired set without an F token. -/
inductive Yield where
  /-- A payload for each target F1 to F3, the result tag or the DETAIL of its ARITH fault, the D bit, the fabricated flag, and
  whether WHEN is read. -/
  | emit (vals : List (Option Word)) (tag : Except Nat Tag) (d fab useWhen : Bool)
  | fault (code detail : Nat)
  | silent

/-- One payload for every target under F5. -/
def yieldAll (a : ElemArgs) (o : Opnds) (v : Nat) (d : Bool) : Yield :=
  .emit [some (BitVec.ofNat 32 v), some (BitVec.ofNat 32 v), some (BitVec.ofNat 32 v)] (tagApply a.tagOp o.tag) d false true

/-- Emit what an instruction gives (R53, R159, R160). -/
def State.yield (s : State) (sh : Shot) (o : Opnds) (y : Yield) : State :=
  match y with
  | .silent => s
  | .fault code detail => s.raise sh code detail o.tag o.dAll
  | .emit _ (.error detail) d _ _ => s.raise sh fcArith detail o.tag d
  | .emit vals (.ok tag) d fab useWhen =>
    let p := predicate sh.args o
    (targetsOf sh.args).foldl (fun s it =>
      match vals.getD (it.1 - 1) none with
      | none => s
      | some v => if useWhen && !whenOk it.2 p then s else s.toTarget sh it.1 it.2 { val := v, tag := tag, d := d, fab := fab }) s

/-- Forward the F token of a slot (R54): its fault word and origin tag are unchanged. -/
def State.forwardSlot (s : State) (sh : Shot) (o : Opnds) (i : Nat) (d : Bool) (useWhen : Bool) : State :=
  match o.toks.getD i none with
  | none => s
  | some t =>
    let p := predicate sh.args o
    s.emitWhere sh (fun _ x => !useWhen || whenOk x p)
      { val := t.val, tag := faultTag sh.args.tagOp o.tag, d := d, origin := t.origin }

/-- The fired set that an element may issue now: the first of a context that runs, if it is due and no search of it runs (R49, R433). -/
def State.issuable (s : State) (k e : Nat) : Option (Fired × List Fired) :=
  let el := s.elem k e
  match takeFirst (fun x : Fired => s.ctxRuns k (ctxOf x.tag)) el.fired with
  | some (x, rest) => if x.search.isNone && x.due ≤ s.now && el.issueFrom ≤ s.now then some (x, rest) else none
  | none => none

/-- Take a fired set for issue: one a cycle (R49, R52). -/
def State.takeShot (s : State) (k e : Nat) (rest : List Fired) : State :=
  s.onElem k e fun el => { el with fired := rest, issueFrom := s.now + 1 }

/-- Issue the element's next fired set; an element with none to issue does nothing in this step. -/
def issueWith (s : State) (a : ElemArgs) (typed : Bool) (lat : Nat) (act : State → Shot → Opnds → State) : Out :=
  atElem s fun k e =>
    match s.issuable k e with
    | none => s
    | some (x, rest) =>
      let el := s.elem k e
      act (s.takeShot k e rest)
        { k := k, e := e, args := a, frame := el.frame, slot := el.slot, inst := x.inst, ready := s.now + lat }
        (operandsOf a typed x)

/-- Issue with the F-token rule of R54. -/
def issueOp (s : State) (a : ElemArgs) (typed : Bool) (lat : Nat) (act : State → Shot → Opnds → State) : Out :=
  issueWith s a typed lat fun s sh o =>
    match o.firstF with
    | some i => s.forwardSlot sh o i o.dAll false
    | none => act s sh o

/-- Issue an instruction whose whole effect is its result. -/
def issuePure (s : State) (a : ElemArgs) (typed : Bool) (lat : Nat) (f : Opnds → Yield) : Out :=
  issueOp s a typed lat fun s sh o => s.yield sh o (f o)

/-- Issue an instruction that gives one payload to every target, with the D bit of R53. -/
def issueVal (s : State) (a : ElemArgs) (typed : Bool) (lat : Nat) (f : Opnds → Nat) : Out :=
  issuePure s a typed lat fun o => yieldAll a o (f o) o.dAll

end Sys2Proof.Machine
end

