-- ==== Sys2Proof/Machine/Memory.lean ====
section
/-! DEFINITION. Memory: page tables and translation caches (R379 to R385), the lines of slices and HBM with their class tags, locks and
poison (R22, R35, R382, R394, R405, R424, R444), full/empty bits (R231, R245), and the scratchpad (R229, R230). -/

namespace Sys2Proof.Machine

open Sys2Proof

/-! ## Address ranges -/

/-- First address of the local window (R229). -/
def windowBase : Nat := 2 ^ 57 - 2 ^ 25
/-- First address of the KV range (R357). -/
def kvBase : Nat := 0x1F0 * 2 ^ 48
/-- Bytes of one HBM4 stack (R22). -/
def stackBytes : Nat := 0xC00000000

def inWindow (va : Nat) : Bool := windowBase ≤ va && va < 2 ^ 57
def inKv (va : Nat) : Bool := kvBase ≤ va && va < kvBase + 2 ^ 38

/-- Whether a physical address lies in a stack of the partition (R372). -/
def Partition.owns (p : Partition) (pa : Nat) : Bool := p.units.contains (pa / stackBytes / 2) && pa < 16 * stackBytes

/-- The home slice of a line (R22). -/
def homeSlice (pa : Nat) : Nat := 16 * (pa / stackBytes) + (bits pa 10 7 ^^^ bits pa 14 11)

/-- Bytes of a core's scratchpad (R20, R229). -/
def Core.scrBytes (c : Core) : Nat := bits c.partw 15 8 * 2 ^ 18

/-! ## The page walk (R379 to R381) -/

/-- Address bits below the index of a level. -/
def lvShift : Nat → Nat
  | 0 => 16 | 1 => 21 | 2 => 30 | 3 => 36 | _ => 48
/-- Index bits of a level. -/
def lvBits : Nat → Nat
  | 0 => 5 | 1 => 9 | 2 => 6 | 3 => 12 | _ => 9
/-- Bytes of a table of a level, and its alignment. -/
def lvTable (lv : Nat) : Nat := 8 * 2 ^ lvBits lv
def lvIndex (va lv : Nat) : Nat := (va >>> lvShift lv) % 2 ^ lvBits lv
/-- The part of an address that one entry of a level covers. -/
def lvAlign (va lv : Nat) : Nat := va / 2 ^ lvShift lv * 2 ^ lvShift lv

def pteV (e : Nat) : Bool := bit e 63
def pteLeaf (e : Nat) : Bool := bit e 62
def pteClass (e : Nat) : Nat := bits e 61 59
def pteHost (e : Nat) : Bool := bit e 58
def pteSync (e : Nat) : Bool := bit e 57
def pteCache (e : Nat) : Bool := bit e 56
def pteR (e : Nat) : Bool := bit e 55
def pteW (e : Nat) : Bool := bit e 54
def ptePa (e : Nat) : Nat := bits e 51 16 * 2 ^ 16
def pteSdom (e : Nat) : Nat := bits e 15 6
def ptePtr (e : Nat) : Nat := bits e 51 8 * 2 ^ 8

/-- Whether an entry of a level with V = 1 is malformed (R380). A leaf of class 7 is malformed, so that its page translates nothing and an
access to it ends in TRANS; R35 and R258 name CLASS for it (assumption log 116). -/
def pteMalformed (e lv : Nat) : Bool :=
  if pteLeaf e then
    lv == 4 || bits e 53 52 != 0 || bits e 5 0 != 0 || ptePa e % 2 ^ lvShift lv != 0 ||
    pteClass e == 7 ||
    ((pteClass e == 0 || pteClass e == 5) && pteSdom e != 0) ||
    (pteHost e && (pteSync e || pteCache e || !(pteClass e == 0 || pteClass e == 3 || pteClass e == 4)))
  else
    lv == 0 || bits e 61 59 != 0 || bits e 57 52 != 0 || bits e 7 0 != 0 || ptePtr e % lvTable (lv - 1) != 0

/-- A byte of a line as HBM stores it: ciphertext for the encrypted classes, under the key of its class and domain (R35, R394, R399). -/
def State.storedByte (s : State) (a : Nat) : Byte :=
  match Tab.find? s.lines (a / 128) with
  | some x =>
    if x.cls == 5 || x.cls == 0 then byteAt s.hbm a
    else Config.cipherByte x.key x.cls x.sdom a (ofLeBytes (readBytes s.hbm (a / 128 * 128) 128))
  | none => byteAt s.hbm a

/-- Whether a 64 KiB frame lies on a mapped-out channel: it is poisoned and never given out again (R445). -/
def State.frameDead (s : State) (frame : Nat) : Bool :=
  s.board.spares.any fun x =>
    match x with
    | .channel k c => 65536 * frame / stackBytes == k && Config.channelOf frame == c
    | _ => false

/-- Whether a line is poisoned. -/
def State.linePoisoned (s : State) (line : Nat) : Bool := s.poison.contains line || s.frameDead (line / 512)

/-- Bytes of a table at a physical address: what HBM stores there, or host memory on the bus; none where the host answers with an error,
where the address lies past HBM, or where a line of it is poisoned (R374, R381, R444). -/
def State.tableBytes (s : State) (host : Bool) (a n : Nat) : Option (List Byte) :=
  if host then
    if s.hostDead.any fun r => r.1 < a + n && a < r.2 then none else some (readBytes s.hostMem a n)
  else if a + n ≤ 16 * stackBytes && !(linesTouched a n).any s.linePoisoned then
    some ((List.range n).map fun i => s.storedByte (a + i))
  else none

/-- Eight bytes of a table. -/
def State.tableEntry (s : State) (host : Bool) (a : Nat) : Option Nat := (s.tableBytes host a 8).map ofLeBytes

/-- How a walk ends. -/
inductive WalkEnd where
  | leaf (level entry : Nat)
  | invalid
  | malformed
  deriving DecidableEq, Repr

/-- A walk from a table of a level, with the pointer entries that it caches (R381, R383). A cached pointer entry is used in place of
the table's. -/
def walkFrom (s : State) (asid va : Nat) : Nat → Nat → Bool → List Tlb → WalkEnd × List Tlb
  | lv, t, h, ps =>
    let cached := ps.find? fun x => x.asid == asid && x.level == lv && x.va == lvAlign va lv
    let got := match cached with
      | some x => some x.entry
      | none => s.tableEntry h (t + 8 * lvIndex va lv)
    match got with
    | none => (.invalid, ps)
    | some e =>
      if !pteV e then (.invalid, ps)
      else if pteMalformed e lv then (.malformed, ps)
      else if pteLeaf e then (.leaf lv e, ps)
      else
        let ps := if cached.isSome then ps else ps ++ [{ asid := asid, level := lv, va := lvAlign va lv, entry := e }]
        match lv with
        | 0 => (.malformed, ps)
        | n + 1 => walkFrom s asid va n (ptePtr e) (pteHost e) ps

/-- The partition whose ASID range holds an ASID (R378). -/
def State.asidPart (s : State) (asid : Nat) : Option Nat :=
  (List.find? (fun x : Nat × Partition => !x.2.units.isEmpty && x.2.first ≤ asid && asid < x.2.first + x.2.count) s.parts).map (·.1)

/-- A translated page part (R381). `kv` holds the KV map entry of a page of the KV range (R357); `pool` says that the mapping is one of the
two by which PARTITION.CFG was given the pools (R376). -/
structure Trans where
  host : Bool
  pa : Nat
  cls : Nat
  sdom : Nat
  sync : Bool
  cache : Bool
  r : Bool
  w : Bool
  part : Nat
  kv : Option Nat := none
  pool : Bool := false
  deriving DecidableEq, Repr

/-- The translation that a leaf gives an address. -/
def leafTrans (p lv e va : Nat) : Trans :=
  { host := pteHost e, pa := ptePa e + va % 2 ^ lvShift lv, cls := pteClass e, sdom := pteSdom e, sync := pteSync e,
    cache := pteCache e, r := pteR e, w := pteW e, part := p }

/-- Whether page tables are walked for an address: it has 57 bits and lies neither in the local window nor in the KV range (R381). -/
def walked (va : Nat) : Bool := va < 2 ^ 57 && !inWindow va && !inKv va

/-- A walk of an address: its leaf, or nothing, with the caches and counters it leaves (R381, R383, R384). -/
def State.walkVa (s : State) (p asid va : Nat) : Option (Nat × Nat) × State :=
  let q := s.part p
  if !walked va then (none, s)
  else match s.tableEntry q.rootHost (q.root + 64 + 8 * (asid - q.first)) with
  | none => (none, s)
  | some e =>
    if !bit e 63 then (none, s)
    else if bits e 62 52 != 0 || bits e 11 1 != 0 then (none, s.countPart p cntMalformed)
    else
      let (r, ws) := walkFrom s asid va 4 (bits e 51 12 * 2 ^ 12) (bit e 0) s.walkers
      let s := { s with walkers := ws }
      match r with
      | .invalid => (none, s)
      | .malformed => (none, s.countPart p cntMalformed)
      | .leaf lv x =>
        if !pteHost x && !(q.owns (ptePa x) && q.owns (ptePa x + 2 ^ lvShift lv - 1)) then (none, s.countPart p cntForeign)
        else (some (lv, x), s)

/-- A translation from a list of cached leaves. -/
def tlbFind (ts : List Tlb) (asid va : Nat) : Option Tlb := ts.find? fun x => x.asid == asid && x.va == lvAlign va x.level

/-- Add a leaf to a cache of `n` entries; the oldest entry leaves a full cache (assumption log 12). -/
def tlbAdd (n : Nat) (ts : List Tlb) (x : Tlb) : List Tlb :=
  let ts := ts ++ [x]
  ts.drop (ts.length - n)

/-- The KV map entry of a page as the cores see it: one that a running drain unmaps is seen until the drain ends (R357, R359). -/
def State.kvSeen (s : State) (q pg : Nat) : Option DWord :=
  match Tab.find? (s.slot q).pages pg with
  | some e => some e
  | none => s.drains.findSome? fun d => if d.slot == q then Tab.find? d.freed pg else none

/-- Translate an address of the KV range through the sequence unit's map (R357). -/
def State.kvTrans (s : State) (p va : Nat) : Option Trans :=
  let q := (va - kvBase) / 2 ^ 28
  let pg := (va - kvBase) % 2 ^ 28 / 2 ^ 16
  let x := s.part p
  if q < x.slot0 || x.slot0 + x.nslot ≤ q then none else
  let rec_ := s.slot q
  match s.kvSeen q pg with
  | none => none
  | some e =>
    some { host := false, pa := bits e.toNat 39 16 * 2 ^ 16 + va % 2 ^ 16, cls := if rec_.sdv then 2 else 0,
           sdom := if rec_.sdv then rec_.sdom else 0, sync := false, cache := true, r := true, w := true, part := p,
           kv := some e.toNat }

/-- Whether an address is one of those by which PARTITION.CFG was given the pools of the partition (R376). -/
def Partition.poolVa (p : Partition) (asid va : Nat) : Bool :=
  asid == p.first && ((p.spillVa ≤ va && va < p.spillVa + 65536 * p.spillPages) ||
    (p.kvVa ≤ va && va < p.kvVa + 65536 * p.kvFrames.length))

/-- The translation of an address of a partition by a cached leaf. -/
def State.tlbTrans (s : State) (p asid va : Nat) (x : Tlb) : Trans :=
  { leafTrans p x.level x.entry va with pool := (s.part p).poolVa asid va }

/-- Translate an address for a core and its cluster, or for neither (R381, R383): nothing is a TRANS fault with DETAIL 0. -/
def State.translate (s : State) (k c : Option Nat) (asid va : Nat) : Option Trans × State :=
  match s.asidPart asid with
  | none => (none, s)
  | some p =>
    if inWindow va || 2 ^ 57 ≤ va then (none, s)
    else if inKv va then (s.kvTrans p va, s)
    else
      let hit := match k with
        | some k => tlbFind (s.core k).tlb asid va
        | none => none
      match hit with
      | some x => (some (s.tlbTrans p asid va x), s)
      | none =>
        let hit := match c with
          | some c => tlbFind (Tab.get [] s.clusterTlb c) asid va
          | none => none
        let (found, s) : Option Tlb × State := match hit with
          | some x => (some x, s)
          | none => match s.walkVa p asid va with
            | (none, s) => (none, s)
            | (some (lv, e), s) => (some { asid := asid, level := lv, va := lvAlign va lv, entry := e }, s)
        match found with
        | none => (none, s)
        | some x =>
          let s := match c, hit with
            | some c, none => { s with clusterTlb := Tab.modify [] s.clusterTlb c fun ts => tlbAdd 8192 ts x }
            | _, _ => s
          let s := match k with
            | some k => s.onCore k fun co => { co with tlb := tlbAdd 512 co.tlb x }
            | none => s
          (some (s.tlbTrans p asid va x), s)

/-! ## Lines (R35, R382, R394, R405, R424) -/

/-- The tag that a line has when it is stored under a translation: its class, domain and key draw (R399). -/
def State.lineTag (s : State) (t : Trans) : LineTag :=
  let q := s.part t.part
  { cls := t.cls, sdom := t.sdom, part := t.part,
    key := if 1 ≤ t.cls && t.cls ≤ 4 then (Tab.get {} q.domains t.sdom).keyEpoch else q.imageKey }

/-- Whether the domain that a sealed page names is live (R394). -/
def State.domainLive (s : State) (t : Trans) : Bool :=
  !(1 ≤ t.cls && t.cls ≤ 4) || (Tab.get {} (s.part t.part).domains t.sdom).live

/-- Whether `n` bytes from `pa` cover the whole line. -/
def coversLine (pa n line : Nat) : Bool := pa ≤ 128 * line && 128 * line + 128 ≤ pa + n

/-- What an access to one line meets (R382, R394, R424, R444): a fault code, or none. -/
def State.lineFault (s : State) (t : Trans) (pa n : Nat) (wr : Bool) (line : Nat) : Option Nat :=
  let whole := wr && coversLine pa n line
  match Tab.find? s.cache line with
  | some x =>
    if x.cls != t.cls || x.sdom != t.sdom then some fcClass
    else if s.linePoisoned line && !whole then some fcEccu else none
  | none =>
    if whole then none
    else if s.linePoisoned line then some fcEccu
    else if t.cls == 0 then none
    else if Tab.find? s.lines line == some (s.lineTag t) then none
    else some fcEccu

/-- Whether a translation reaches a frame of its partition's pools by another way than the mappings that PARTITION.CFG was given and the
KV range: such a frame is not read (R376; the outcome, CLASS, is the model's: assumption log 84). -/
def State.poolRead (s : State) (t : Trans) (wr : Bool) : Bool :=
  !wr && t.kv.isNone && !t.pool &&
  ((s.part t.part).spillFrames.contains (t.pa / 65536) || (s.part t.part).kvFrames.contains (t.pa / 65536))

/-- What an access to `n` bytes of translated memory meets: a code with its DETAIL, or none. A write to a locked frame is refused
(R405). -/
def State.physFault (s : State) (t : Trans) (n : Nat) (wr : Bool) : Option (Nat × Nat) :=
  if t.host then none
  else if !s.domainLive t || s.poolRead t wr then some (fcClass, 0)
  else if wr && (Tab.find? s.locks (t.pa / 65536)).isSome then some (fcProt, 0xB7)
  else ((linesTouched t.pa n).findSome? fun l => s.lineFault t t.pa n wr l).map fun c => (c, 0)

/-- The lines that a cacheable access brings into its slices (R382). -/
def State.fillLines (s : State) (t : Trans) (n : Nat) : State :=
  if t.host || !t.cache then s
  else { s with cache := (linesTouched t.pa n).foldl (fun c l => Tab.set c l (s.lineTag t)) s.cache }

/-- Read `n` bytes under a translation whose checks have passed. An OPEN mapping reads what HBM stores, whether its slice holds the line
by now or not: of an encrypted line it never gives the plaintext (R382, R394). A read of host memory completes behind every posted write
of the package (R236). -/
def State.physRead (s : State) (t : Trans) (n : Nat) : List Byte × State :=
  if t.host then (readBytes s.hostMem t.pa n, { s with posted := [] })
  else
    let bs := (List.range n).map fun i => if t.cls == 0 then s.storedByte (t.pa + i) else byteAt s.hbm (t.pa + i)
    (bs, s.fillLines t n)

/-- A line that an OPEN write meets holds from then on what HBM stored: its ciphertext, untagged (R394). -/
def State.openLine (s : State) (line : Nat) : State :=
  match Tab.find? s.lines line with
  | some _ =>
    let bs := (List.range 128).map fun i => s.storedByte (128 * line + i)
    { s with hbm := writeBytes s.hbm (128 * line) bs, lines := Tab.del s.lines line }
  | none => s

/-- Lines that a write makes dirty in their slices: HBM goes on holding what it held. A line that is dirty already stays so (R22, R376). -/
def State.makeDirty (s : State) (ls : List Nat) : State :=
  let keep (d : Tab HbmLine) (l : Nat) : Tab HbmLine :=
    if (Tab.find? d l).isSome then d
    else Tab.set d l { bytes := readBytes s.hbm (128 * l) 128, tag := Tab.find? s.lines l, bad := s.poison.contains l }
  { s with dirty := ls.foldl keep s.dirty }

/-- What a write does to the dirty lines that it meets: a cacheable one makes its lines dirty; one that passes the slices leaves none of them
dirty, since what a slice held is written back ahead of it (assumption log 81). -/
def State.dirtyFor (s : State) (cacheable : Bool) (ls : List Nat) : State :=
  if cacheable then s.makeDirty ls else { s with dirty := ls.foldl Tab.del s.dirty }

/-- A line leaves its slice: what was dirty is written back (R382). -/
def State.evictLine (s : State) (line : Nat) : State := { s with cache := Tab.del s.cache line, dirty := Tab.del s.dirty line }

/-- What a slice held of a line is gone: HBM holds what it held. -/
def State.revertLine (s : State) (x : Nat × HbmLine) : State :=
  { s with hbm := writeBytes s.hbm (128 * x.1) x.2.bytes
           lines := match x.2.tag with | some t => Tab.set s.lines x.1 t | none => Tab.del s.lines x.1
           poison := if x.2.bad then insertSorted x.1 s.poison else removeSorted x.1 s.poison }

/-- Slices drop lines without write-back (R376, R377, R402). -/
def State.dropLines (s : State) (p : Nat → Bool) : State :=
  let s' := (s.dirty.filter fun x => p x.1).foldl State.revertLine s
  { s' with cache := s'.cache.filter fun x => !p x.1, dirty := s'.dirty.filter fun x => !p x.1 }

/-- Write bytes under a translation whose checks have passed: each line takes the class and domain of the translation, and where `full`
says so the words touched become full (R245). A write of host memory enters the endpoint's outbound posted queue (R236). -/
def State.physPut (s : State) (full : Bool) (t : Trans) (bs : List Byte) : State :=
  if t.host then
    { s with hostMem := writeBytes s.hostMem t.pa bs, posted := s.posted ++ [(t.pa, readBytes s.hostMem t.pa bs.length)] }
  else
    let ls := linesTouched t.pa bs.length
    let s := s.dirtyFor t.cache ls
    let s := if t.cls == 0 then ls.foldl State.openLine s
      else { s with lines := ls.foldl (fun m l => Tab.set m l (s.lineTag t)) s.lines }
    let s := { s with hbm := writeBytes s.hbm t.pa bs,
                      fullWords := if full then insertAll (wordsTouched t.pa bs.length) s.fullWords else s.fullWords,
                      poison := s.poison.filter fun l => !(coversLine t.pa bs.length l) }
    s.fillLines t bs.length

/-- A write by one of the agents of R245: an element, an engine or the fabric. Its words become full. -/
def State.physWrite (s : State) (t : Trans) (bs : List Byte) : State := s.physPut true t bs

/-! ## Host memory as the host sees it (R236) -/

/-- Host memory as the host reads it: without the writes that still stand in the outbound posted queue. -/
def State.hostView (s : State) : List Host.Cell := s.posted.reverse.foldl (fun m e => writeBytes m e.1 e.2) s.hostMem

/-- The oldest posted write reaches host memory. -/
def State.postOldest (s : State) : State := { s with posted := s.posted.drop 1 }

/-- Every posted write reaches host memory: a read issued behind them has completed, or a write of `.sys` scope (R236). -/
def State.postAll (s : State) : State := { s with posted := [] }

/-- The host writes a byte of its memory: a posted write of the package that is still to arrive will replace it. -/
def State.hostPut (s : State) (a : Nat) (b : Byte) : State :=
  if s.posted.any fun e => e.1 ≤ a && a < e.1 + e.2.length then
    { s with posted := replaceFirst (fun e => e.1 ≤ a && a < e.1 + e.2.length) (fun e => (e.1, e.2.set (a - e.1) b)) s.posted }
  else { s with hostMem := writeBytes s.hostMem a [b] }

/-- The host writes its memory. -/
def State.hostStore (s : State) (a : Nat) : List Byte → State
  | [] => s
  | b :: bs => (s.hostPut a b).hostStore (a + 1) bs

/-- Empty the words of a synchronisation page (R245). -/
def State.emptyWords (s : State) (pa n : Nat) : State := { s with fullWords := removeAll (wordsTouched pa n) s.fullWords }

def State.wordFull (s : State) (pa : Nat) : Bool := s.fullWords.contains (pa / 4)

/-! ## Whole accesses to translated memory -/

/-- The parts of an access: at most two, at a line boundary (R251), with their first addresses and lengths. -/
def lineParts (va n : Nat) : List (Nat × Nat) :=
  let k := 128 - va % 128
  if n ≤ k then [(va, n)] else [(va, k), (va + k, n - k)]

/-- The pieces of a range that lie in one 64 KiB page each. -/
def pageParts (va n : Nat) : List (Nat × Nat) :=
  let rec go : Nat → Nat → Nat → List (Nat × Nat)
    | 0, _, _ => []
    | fuel + 1, va, n =>
      if n == 0 then [] else
      let k := min n (65536 - va % 65536)
      (va, k) :: go fuel (va + k) (n - k)
  go (n / 65536 + 2) va n

/-- A translated part of an access with its length. -/
structure Piece where
  t : Trans
  n : Nat
  deriving DecidableEq, Repr

/-- Translate every part, in order; the first that does not translate ends it. -/
def State.translateAll (s : State) (k c : Option Nat) (asid : Nat) : List (Nat × Nat) → Option (List Piece) × State
  | [] => (some [], s)
  | (va, n) :: rest =>
    match s.translate k c asid va with
    | (none, s) => (none, s)
    | (some t, s) =>
      match s.translateAll k c asid rest with
      | (none, s) => (none, s)
      | (some ps, s) => (some ({ t := t, n := n } :: ps), s)

/-- Read every piece in order. -/
def State.readPieces (s : State) : List Piece → List Byte × State
  | [] => ([], s)
  | p :: ps =>
    let (b, s) := s.physRead p.t p.n
    let (bs, s) := s.readPieces ps
    (b ++ bs, s)

/-- Write every piece in order by an agent of R245. -/
def State.writePieces (s : State) : List Piece → List Byte → State
  | [], _ => s
  | p :: ps, bs => (s.physWrite p.t (bs.take p.n)).writePieces ps (bs.drop p.n)

/-- Write every piece in order by another agent, which changes no full/empty state (R245). -/
def State.putPieces (s : State) : List Piece → List Byte → State
  | [], _ => s
  | p :: ps, bs => (s.physPut false p.t (bs.take p.n)).putPieces ps (bs.drop p.n)

/-- The first check of the pieces that fails. -/
def State.piecesFault (s : State) (ps : List Piece) (wr : Bool) : Option (Nat × Nat) :=
  ps.findSome? fun p => s.physFault p.t p.n wr

/-- Why an access by the system itself (a queue command, the sequencer, a table read) fails: a fault code. -/
def State.sysCheck (s : State) (ps : List Piece) (wr : Bool) (cls : Nat → Bool) : Option Nat :=
  if ps.any fun p => if wr then !p.t.w else !p.t.r then some fcProt
  else if ps.any fun p => !cls p.t.cls then some fcClass
  else match s.piecesFault ps wr with
    | some (c, _) => some c
    | none => none

/-- Read `n` bytes at a virtual address whose pages are of classes that `cls` admits; a fault code otherwise. -/
def State.sysRead (s : State) (c : Option Nat) (asid va n : Nat) (cls : Nat → Bool) : Except Nat (List Byte) × State :=
  match s.translateAll none c asid (pageParts va n) with
  | (none, s) => (.error fcTrans, s)
  | (some ps, s) =>
    match s.sysCheck ps false cls with
    | some f => (.error f, s)
    | none =>
      let (bs, s) := s.readPieces ps
      (.ok bs, s)

/-- Whether a page of the KV range refuses the stores of a launch's queue (R357). -/
def kvForeign (queue : Option Nat) (t : Trans) : Bool :=
  match t.kv with
  | none => false
  | some e => bit e 62 || queue != some (bits e 57 41)

/-- Write bytes at a virtual address whose pages `refuses` does not refuse and are of classes that `cls` admits; a fault code otherwise.
The write is visible at `.sys` scope (R115, R135), and no word of it becomes full (R245). -/
def State.sysWriteBy (s : State) (c : Option Nat) (asid va : Nat) (bs : List Byte) (refuses : Trans → Bool) (cls : Nat → Bool) :
    Except Nat Unit × State :=
  match s.translateAll none c asid (pageParts va bs.length) with
  | (none, s) => (.error fcTrans, s)
  | (some ps, s) =>
    if ps.any fun p => refuses p.t then (.error fcProt, s)
    else match s.sysCheck ps true cls with
      | some f => (.error f, s)
      | none => (.ok (), (s.putPieces ps bs).postAll)

/-- Write bytes for the system itself. -/
def State.sysWrite (s : State) (c : Option Nat) (asid va : Nat) (bs : List Byte) (cls : Nat → Bool) : Except Nat Unit × State :=
  s.sysWriteBy c asid va bs (fun _ => false) cls

def clsOpen (c : Nat) : Bool := c == 0
def clsImage (c : Nat) : Bool := c == 5
def clsSpill (c : Nat) : Bool := c == 6
def clsOpenOrImage (c : Nat) : Bool := c == 0 || c == 5

/-! ## The scratchpad (R229, R230, R232) -/

def Core.scrRead (c : Core) (off n : Nat) : List Byte := readBytes c.cells off n
def Core.scrWord (c : Core) (w : Nat) : Word := BitVec.ofNat 32 (ofLeBytes (readBytes c.cells (4 * w) 4))
def Core.scrFull (c : Core) (w : Nat) : Bool := !c.empties.contains w
def Core.scrD (c : Core) (w : Nat) : Bool := c.dmarks.contains w

/-- The OR of the D bits of the words that `n` bytes touch. -/
def Core.scrDs (c : Core) (off n : Nat) : Bool := (wordsTouched off n).any c.scrD

/-- Whether a scratchpad word is poisoned by an uncorrectable error (R444). -/
def Core.scrPoisoned (c : Core) (off n : Nat) : Bool := (wordsTouched off n).any c.poisoned.contains

/-- The allocated tile that covers a byte, if any. -/
def Core.tileAt (c : Core) (off : Nat) : Option (Nat × Tile) :=
  List.find? (fun x : Nat × Tile => x.2.st != .empty && x.2.first * 16384 ≤ off &&
    off < x.2.first * 16384 + (x.2.nrow + 1) * 256) c.tiles

/-- The tiles that `n` bytes meet. -/
def Core.tilesOf (c : Core) (off n : Nat) : List (Nat × Tile) :=
  c.tiles.filter fun x => x.2.st != .empty && x.2.first * 16384 < off + n && off < x.2.first * 16384 + (x.2.nrow + 1) * 256

/-- Write scratchpad bytes with a D bit, the words becoming full where `full` says so (R245); a word written whole takes D, another
keeps its old D beside it (R230, R259); the D mark of a tile is set by a word written with D = 1 (R232). -/
def Core.scrPut (c : Core) (full : Bool) (off : Nat) (bs : List Byte) (d : Bool) : Core :=
  let ws := wordsTouched off bs.length
  let whole (w : Nat) : Bool := off ≤ 4 * w && 4 * w + 4 ≤ off + bs.length
  let dm := ws.foldl (fun m w => if d then insertSorted w m else if whole w then removeSorted w m else m) c.dmarks
  { c with
    cells := writeBytes c.cells off bs
    empties := if full then removeAll ws c.empties else c.empties
    dmarks := dm
    poisoned := c.poisoned.filter fun w => !(ws.contains w && whole w)
    tiles := c.tiles.map fun x =>
      if d && x.2.st != .empty && x.2.first * 16384 < off + bs.length && off < x.2.first * 16384 + (x.2.nrow + 1) * 256
      then (x.1, { x.2 with dmark := true }) else x }

/-- Write scratchpad bytes by an agent of R245: the words become full. -/
def Core.scrWrite (c : Core) (off : Nat) (bs : List Byte) (d : Bool) : Core := c.scrPut true off bs d

/-- Set words empty with D = 0, keeping their values (R232 `talloc`). -/
def Core.scrEmpty (c : Core) (w0 n : Nat) : Core :=
  { c with empties := insertAll (span w0 n) c.empties, dmarks := removeAll (span w0 n) c.dmarks }

/-- Zero words, keeping their full/empty state; a poisoned word is wholly rewritten (R427). -/
def Core.scrZero (c : Core) (w0 n : Nat) : Core :=
  { c with cells := writeBytes c.cells (4 * w0) (List.replicate (4 * n) 0#8)
           poisoned := c.poisoned.filter fun w => !(w0 ≤ w && w < w0 + n) }

/-- An engine writes bytes of a tile: the filled bit of each row that has been written whole is set, and a FILLING tile with every
row filled becomes READY (R272). -/
def Tile.engineWrote (t : Tile) (off n : Nat) : Tile :=
  if t.st != .filling then t else
  let ws := insertAll ((wordsTouched off n).filter fun w => 4 * w ≥ t.first * 16384 && 4 * w < t.first * 16384 + (t.nrow + 1) * 256)
    t.words
  let base := t.first * 4096
  let done (r : Nat) : Bool := (List.range 64).all fun i => ws.contains (base + 64 * r + i)
  let touched := (wordsTouched off n).map fun w => (w - base) / 64
  let rows := (touched.filter fun r => r ≤ t.nrow && done r).foldl (fun acc r => insertSorted r acc) t.rows
  let t := { t with words := ws, rows := rows }
  if rows.length == t.nrow + 1 then { t with st := .ready } else t

/-- An engine write into the scratchpad (R245, R272). -/
def Core.engineWrite (c : Core) (off : Nat) (bs : List Byte) (d : Bool) : Core :=
  let c := c.scrWrite off bs d
  { c with tiles := c.tiles.map fun x =>
      if x.2.first * 16384 < off + bs.length && off < x.2.first * 16384 + (x.2.nrow + 1) * 256 then (x.1, x.2.engineWrote off bs.length)
      else x }

end Sys2Proof.Machine
end

