-- ==== Sys2Proof/Machine/Wave.lean ====
section
/-! DEFINITION. Accesses and waves: the chain of an instance's ordered accesses (R237 to R241, R244), what an access waits for, the checks
of R255 to R259, and the records of accesses. -/

namespace Sys2Proof.Machine

open Sys2Proof

/-! ## Records of accesses -/

def Access.opc (x : Access) : Nat := match elemParts x.instr with | some (o, _) => o | none => 0
def Access.args (x : Access) : ElemArgs := match elemParts x.instr with | some (_, a) => a | none => {}

/-- Whether an opcode has a type; the others take ZeroExt immediates (R157). -/
def opcTyped (opc : Nat) : Bool := match elemRow opc with | some r => r.types != tyNone | none => false

def Access.opnds (x : Access) : Opnds :=
  operandsOf x.args (opcTyped x.opc) { toks := x.toks, tag := x.tag, due := 0, inst := x.inst }

def Access.shot (x : Access) (k now : Nat) : Shot :=
  { k := k, e := x.elem, args := x.args, frame := x.frame, slot := x.slot, inst := x.inst, ready := now }

def Core.access? (c : Core) (id : Nat) : Option Access := c.accesses.find? fun x => x.id == id
def Core.onAccess (c : Core) (id : Nat) (f : Access → Access) : Core :=
  { c with accesses := replaceFirst (fun x => x.id == id) f c.accesses }
def Core.dropAccess (c : Core) (id : Nat) : Core := { c with accesses := c.accesses.filter fun x => x.id != id }

/-- Whether what stands for an access is only the place of a ring slot: its result has been emitted (R283). -/
def Access.over (x : Access) : Bool := x.stage == .done || x.stage == .lost

/-- Whether an access has still to be performed. -/
def Core.pending (c : Core) (id : Nat) : Bool := c.accesses.any fun x => x.id == id && !x.over

/-- The kinds of R237 and R241. -/
def isLoadOpc (o : Nat) : Bool := o == 0x140 || o == 0x144
def isStoreOpc (o : Nat) : Bool := o == 0x141 || o == 0x147 || o == 0x148
def isFenceOpc (o : Nat) : Bool := o == 0x149
def isOrderedOpc (o : Nat) : Bool := isLoadOpc o || isStoreOpc o || isFenceOpc o
/-- The generation instructions (R347). -/
def isGenOpc (o : Nat) : Bool := 0x1C0 ≤ o && o ≤ 0x1CD
/-- Instructions released at commit in ascending slot order (R347, R410, R437). -/
def isUnitOpc (o : Nat) : Bool := isGenOpc o || o == 0x1E0 || o == 0x1E1 || o == 0x1E5
/-- Remote accesses of the release set (R318). -/
def isRemoteOpc (o : Nat) : Bool := o == 0x180 || (0x182 ≤ o && o ≤ 0x185)
/-- The unordered stores of R450, which are released with their instance. -/
def isLooseOpc (o : Nat) : Bool := o == 0x143 || o == 0x145 || o == 0x14D || o == 0x14E || o == 0x150
/-- Stores, which make an F token precise (R62, R450). -/
def isStorePoint (o : Nat) : Bool := o == 0x141 || o == 0x180 || isLooseOpc o

/-- Kind of a fence (R89): 0 `.full`, 1 `.acq`, 2 `.rel`. -/
def fenceAcq (x : Access) : Bool := x.opc == 0x149 && x.args.imm.toNat != 2
def fenceRel (x : Access) : Bool := x.opc == 0x149 && x.args.imm.toNat != 1

/-! ## The chain (R238, R239) -/

def WaveLink.start (x : WaveLink) : Bool := x.pred == x.own
def WaveLink.last (x : WaveLink) : Bool := x.succ == x.own

/-- Whether one accepted access follows another (R238). -/
def WaveLink.follows (x y : WaveLink) : Bool :=
  x.access != y.access && !x.start && (x.pred == y.own || (x.pred == 0x3F && y.succ == x.own))

/-- Whether two accesses take one chain position (R239): the same number, the same known predecessor, the same known successor, two
followers or two predecessors. -/
def linksCollide (ls : List WaveLink) : Bool :=
  ls.any fun x => ls.any fun y => x.access != y.access &&
    (x.own == y.own || (!x.start && !y.start && x.pred == y.pred && x.pred != 0x3F) ||
     (!x.last && !y.last && x.succ == y.succ && x.succ != 0x3F) ||
     ls.any fun z => (x.follows z && y.follows z) || (z.follows x && z.follows y))

/-- The accepted accesses from the start in chain order, as far as their links are resolved. -/
def chainFrom (ls : List WaveLink) : Nat → WaveLink → List WaveLink
  | 0, x => [x]
  | fuel + 1, x =>
    if x.last then [x] else
    match ls.find? fun y => y.follows x with
    | none => [x]
    | some y => x :: chainFrom ls fuel y

def chainPath (ls : List WaveLink) : List WaveLink :=
  match ls.find? WaveLink.start with
  | none => []
  | some x => chainFrom ls ls.length x

/-- Whether the wave of an instance is closed (R239). -/
def Core.waveClosed (c : Core) (i : Instance) : Bool :=
  let path := chainPath i.chain
  !i.broken && (match path.getLast? with | some x => x.last | none => false) &&
  path.all fun x => match c.access? x.access with | some a => !isLoadOpc a.opc | none => true

/-- Accept an ordered access in its instance's wave (R239); none where its wave is closed or its position is held. -/
def Core.acceptLink (c : Core) (f : Nat) (t : Tag) (l : WaveLink) : Bool × Core :=
  let i := (c.inst? f t).getD { frame := f, tag := t }
  if i.committed || c.waveClosed i then (false, c)
  else if linksCollide (i.chain ++ [l]) then (false, c.onInst f t fun i => { i with broken := true })
  else (true, c.onInst f t fun i => { i with chain := i.chain ++ [l] })

/-- The accesses that stand before an access on its instance's path; none while the path does not reach it. -/
def Core.beforeOf (c : Core) (x : Access) : Option (List Access) :=
  match c.inst? x.frame x.inst with
  | none => none
  | some i =>
    let path := chainPath i.chain
    if path.any fun l => l.access == x.id then
      some ((path.takeWhile fun l => l.access != x.id).filterMap fun l => c.access? l.access)
    else none

/-- The accesses of a list that stand before a fence of a kind that stands in the list itself. -/
def fencedBy (kind : Access → Bool) (before : List Access) : List Access :=
  match before.reverse.dropWhile fun x => !kind x with
  | [] => []
  | _ :: earlier => earlier

/-- What an ordered access waits for among the accesses before it (R240, R241, R244); `loose` are the `stx` and `iput` of its
instance. A store behind a releasing fence waits for the fence itself, which is met once the accesses before it are performed with
respect to its scope. -/
def waitsFor (x : Access) (before loose : List Access) : List Nat :=
  let acq := (fencedBy fenceAcq before).filter fun y => isLoadOpc y.opc || y.opc == 0x147
  let rel := fencedBy fenceRel before
  let rels := before.filter fenceRel
  let own :=
    if isLoadOpc x.opc then before.filter fun y => isLoadOpc y.opc && y.region == x.region
    else if isStoreOpc x.opc then
      (before.filter fun y => isStoreOpc y.opc && y.region == x.region) ++ (rel.filter fun y => isStoreOpc y.opc) ++ rels ++
      (loose.filter fun y => rels.any fun f => y.id < f.id)
    else
      (if fenceAcq x then before.filter fun y => isLoadOpc y.opc || y.opc == 0x147 else []) ++
      (if fenceRel x then (before.filter fun y => isStoreOpc y.opc) ++ loose.filter fun y => y.id < x.id else [])
  (acq ++ own).map (·.id)

/-- The `stx` and `iput` of an instance that are still to be performed. -/
def Core.looseOf (c : Core) (x : Access) : List Access :=
  c.accesses.filter fun y => y.frame == x.frame && y.inst == x.inst && (y.opc == 0x143 || y.opc == 0x145)

/-- The accesses that are held until their instance commits (R61). -/
def isHeldOpc (o : Nat) : Bool := isStoreOpc o || isLooseOpc o || isUnitOpc o || isRemoteOpc o

/-- Whether an access has been released by a committed instance. -/
def Core.isReleased (c : Core) (x : Access) : Bool :=
  x.stage != .held && x.stage != .firing &&
  (x.rel.isSome || isHeldOpc x.opc || c.insts.any fun i => i.frame == x.frame && i.tag == x.inst && i.committed)

/-- The region of an access to memory: a `relslot` is in that of its ring object. -/
def Core.regionOf (c : Core) (x : Access) : Region :=
  if x.opc == 0x150 then
    match Tab.find? c.rings (bits (x.opnds.val 0) 31 28) with
    | some a => if bits a 31 28 == 15 then .localWin else .device
    | none => .none
  else x.region

/-- Whether a released store stands behind a parked one of its context and region: it is kept until the context is resumed (R435). -/
def Core.heldBack (c : Core) (x : Access) : Bool :=
  (isStoreOpc x.opc || (isLooseOpc x.opc && x.opc != 0x14D)) && c.regionOf x != .none && c.isReleased x &&
  c.accesses.any fun y => y.stage == .parked && y.opc != 0x14D && ctxOf y.inst == ctxOf x.inst && c.regionOf y == c.regionOf x &&
    y.joined < x.joined

/-- Whether an access is kept by a suspension: it is parked, stands behind a parked one, or waits for an access of its context that does
(R435). The number bounds the accesses that it looks behind. -/
def Core.stuck (c : Core) : Nat → Access → Bool
  | 0, _ => false
  | n + 1, y =>
    y.stage == .parked || c.heldBack y ||
    c.accesses.any fun z => y.after.contains z.id && !z.over && ctxOf z.inst == ctxOf y.inst && c.stuck n z

/-- The slots of a frame's elements with their opcodes. -/
def Core.frameOpcs (c : Core) (f : Nat) : List (Nat × Nat) :=
  (c.frame f).map.filterMap fun x => ((c.elem x.2).instr.bind elemParts).map fun p => (x.1, p.1)

/-- Whether an in-block token of an instance is in motion: on the network, in the arrival buffer or an input queue, or in a fired set that
has not issued. -/
def Core.instMoves (c : Core) (f : Nat) (t : Tag) : Bool :=
  let bound (d : Dest) (tok : Token) : Bool := match d with | .elem e _ => (c.elem e).frame == f && tok.inst == some t | _ => false
  (c.transit.any fun m => match m.msg with | .narrow tok _ => bound m.dest tok | .wide _ => false) ||
  (c.arrival.any fun h => bound h.dest h.tok) ||
  c.elems.any fun x => x.2.frame == f && (x.2.queue.any (fun q => q.tok.inst == some t) || x.2.fired.any fun g => g.inst == t)

/-- Whether a generation instruction of a lower slot of the same instance stands before this one: it has fired and is to be performed, or
a token in motion may still make it fire. Within one instance these accesses reach their unit in ascending slot number (R347, R371; that
this holds of those that fire after the commit too is assumption log 127). -/
def Core.slotBehind (c : Core) (x : Access) : Bool :=
  isGenOpc x.opc &&
  (c.accesses.any (fun y => isGenOpc y.opc && y.frame == x.frame && y.inst == x.inst && y.slot < x.slot && !y.over) ||
   ((c.frameOpcs x.frame).any (fun o => isGenOpc o.2 && o.1 < x.slot) && c.instMoves x.frame x.inst))

/-- Whether an access may be performed: it is on its path and what it waits for is performed, or it has been released and the accesses
before it are performed. An access of another context that a suspension keeps holds nothing up (R433, R435), nor does a remote access that
the remote unit has taken (R291). -/
def Core.mayPerform (c : Core) (x : Access) : Bool :=
  let done (id : Nat) : Bool := !c.accesses.any fun y =>
    y.id == id && !y.over && !(isRemoteOpc y.opc && y.stage == .waiting) &&
    !(ctxOf y.inst != ctxOf x.inst && c.stuck c.accesses.length y)
  let committed := x.rel.isSome || match c.inst? x.frame x.inst with | some i => i.committed | none => true
  if isOrderedOpc x.opc && !committed then
    match c.beforeOf x with
    | none => false
    | some b => (waitsFor x b (c.looseOf x)).all done
  else x.after.all done && !c.heldBack x && !c.slotBehind x

/-! ## Element addresses and checks (R255 to R259) -/

/-- A failed check: code, DETAIL and the virtual address that the access held. -/
structure Bad where
  code : Nat
  detail : Nat
  va : Option Nat := none
  deriving DecidableEq, Repr

/-- Where an access lies: in the local window at an offset, or in translated memory in pieces. -/
structure Spot where
  loc : Bool
  va : Nat
  off : Nat := 0
  pieces : List Piece := []
  deriving DecidableEq, Repr

def Spot.region (p : Spot) : Region :=
  if p.loc then .localWin else if p.pieces.any fun x => x.t.host then .hostMem else .device

/-- The virtual address of an element address (R255): in the local window, or in a segment. -/
def State.segment (s : State) (k a n : Nat) : Except Bad (Bool × Nat) :=
  let seg := bits a 31 28
  let off := bits a 27 0
  if 0x10000000 < off + n then .error { code := fcTrans, detail := 0x63 }
  else if seg == 15 then
    if (s.core k).scrBytes < off + n then .error { code := fcProt, detail := 0x62 } else .ok (true, windowBase + off)
  else
    let e := match s.coreLaunch k with | some (_, l) => l.segs.getD seg 0 | none => 0
    if bit e 63 then .ok (false, (bits e 56 16 * 2 ^ 16 + off) % 2 ^ 57) else .error { code := fcTrans, detail := 0x63 }

/-- The class rules of R258 and R259 on a piece for the seal domain given: a fault code, or none. -/
def classRule (dom : Option Nat) (wr d : Bool) (t : Trans) : Option Nat :=
  if wr && d && (t.cls == 0 || t.cls == 4 || t.cls == 5) then some fcDmark
  else if t.cls == 0 then none
  else if t.cls == 2 && dom == some t.sdom then none
  else some fcClass

/-- Steps 4 to 8 of R257 on `n` bytes at a virtual address of a core's launch, with the class rule of the path. -/
def State.checkVaBy (s : State) (k va n : Nat) (rd wr : Bool) (rule : Trans → Option Nat) : Except Bad Spot × State :=
  let queue := (s.coreLaunch k).map (·.2.q)
  match s.translateAll (some k) (some (k / 4)) (s.coreAsid k) ((pageParts va n).map fun p => (p.1 % 2 ^ 57, p.2)) with
  | (none, s) => (.error { code := fcTrans, detail := 0, va := some va }, s)
  | (some ps, s) =>
    let bad (c d : Nat) : Except Bad Spot × State := (.error { code := c, detail := d, va := some va }, s)
    if ps.any fun p => (rd && !p.t.r) || (wr && !p.t.w) then bad fcProt 0
    else if wr && ps.any fun p => kvForeign queue p.t then bad fcProt 0x91
    else if ps.any fun p => ps.any fun q => p.t.cls != q.t.cls || p.t.cache != q.t.cache then bad fcAttrSplit 0
    else match ps.findSome? fun p => if rule p.t == some fcDmark then some fcDmark else none with
      | some c => bad c 0
      | none => match ps.findSome? fun p => rule p.t with
        | some c => bad c 0
        | none => (.ok { loc := false, va := va, pieces := ps }, s)

/-- The seal domain of a core's launch. -/
def State.coreSdom (s : State) (k : Nat) : Option Nat := (s.coreLaunch k).bind (·.2.sdom?)

/-- Steps 4 to 8 of R257 for the element paths (R258, R259). -/
def State.checkVa (s : State) (k va n : Nat) (rd wr d : Bool) : Except Bad Spot × State :=
  s.checkVaBy k va n rd wr (classRule (s.coreSdom k) wr d)

/-- Steps 3 to 8 of R257 on `n` bytes at an element address, with the class rule of the path. -/
def State.checkSpotBy (s : State) (k a n : Nat) (rd wr : Bool) (rule : Trans → Option Nat) : Except Bad Spot × State :=
  match s.segment k a n with
  | .error b => (.error b, s)
  | .ok (true, va) => (.ok { loc := true, va := va, off := va - windowBase }, s)
  | .ok (false, va) => s.checkVaBy k va n rd wr rule

/-- Steps 3 to 8 of R257 on `n` bytes at an element address. -/
def State.checkSpot (s : State) (k a n : Nat) (rd wr d : Bool) : Except Bad Spot × State :=
  s.checkSpotBy k a n rd wr (classRule (s.coreSdom k) wr d)

/-- Whether every piece of a spot has full/empty state (R230, R231). -/
def Spot.hasFull (p : Spot) : Bool := p.loc || p.pieces.all fun x => x.t.sync && !x.t.host

/-- The D bit that a read of a spot returns (R259), but for the address operands. -/
def State.spotD (s : State) (k : Nat) (p : Spot) (n : Nat) : Bool :=
  if p.loc then (s.core k).scrDs p.off n else p.pieces.any fun x => x.t.cls == 2

/-- Read a spot; a fault of step 10 of R257, of a class tag or of a poisoned word otherwise. -/
def State.readSpot (s : State) (k : Nat) (p : Spot) (n : Nat) : Except Bad (List Byte) × State :=
  if p.loc then
    if (s.core k).scrPoisoned p.off n then (.error { code := fcEccu, detail := 0, va := some p.va }, s)
    else (.ok ((s.core k).scrRead p.off n), s)
  else match s.piecesFault p.pieces false with
    | some (c, d) => (.error { code := c, detail := d, va := some p.va }, s)
    | none => let (bs, s) := s.readPieces p.pieces; (.ok bs, s)

/-- Write a spot with a D bit; its words become full where `full` says so (R245). -/
def State.putSpot (s : State) (full : Bool) (k : Nat) (p : Spot) (bs : List Byte) (d : Bool) : Except Bad Unit × State :=
  if p.loc then (.ok (), s.onCore k (·.scrPut full p.off bs d))
  else match s.piecesFault p.pieces true with
    | some (c, e) => (.error { code := c, detail := e, va := some p.va }, s)
    | none => (.ok (), if full then s.writePieces p.pieces bs else s.putPieces p.pieces bs)

/-- Write a spot with a D bit by an agent of R245: its words become full. -/
def State.writeSpot (s : State) (k : Nat) (p : Spot) (bs : List Byte) (d : Bool) : Except Bad Unit × State := s.putSpot true k p bs d

/-- Whether the word at a spot is full. -/
def State.spotFull (s : State) (k : Nat) (p : Spot) : Bool :=
  if p.loc then (s.core k).scrFull (p.off / 4) else p.pieces.all fun x => s.wordFull x.t.pa

/-! ## Results of accesses -/

/-- Emit the result of an access and take it off its core. -/
def State.finish (s : State) (k : Nat) (x : Access) (v : Nat) (d : Bool) : State :=
  (s.onCore k (·.dropAccess x.id)).yield (x.shot k s.now) x.opnds (yieldAll x.args x.opnds v d)

/-- Note the virtual address of a fault, if it held one (R429). -/
def State.noteBad (s : State) (k : Nat) (t : Tag) (b : Bad) : State :=
  match b.va with
  | some va => s.noteVa k t b.code va
  | none => s

/-- An access ends in an F token (R160, R257). -/
def State.fail (s : State) (k : Nat) (x : Access) (b : Bad) : State :=
  ((s.noteBad k x.tag b).onCore k (·.dropAccess x.id)).raise (x.shot k s.now) b.code b.detail x.tag x.opnds.dAll

/-- Whether a launch suspends a context at faults (R138 KPOL). -/
def State.suspends (s : State) (k ctx : Nat) : Bool :=
  match s.coreLaunch k with | some (_, l) => !l.cmd.kpol && !l.ctxKilled ctx | none => false

/-- Whether a fault is resolvable (R427). -/
def Bad.resolvable (b : Bad) : Bool := (b.code == fcTrans || b.code == fcProt) && b.detail == 0

/-- A released access fails: under the suspend policy a resolvable fault parks it at a precise point (R435), any other ends it. -/
def State.failReleased (s : State) (k node : Nat) (x : Access) (b : Bad) : State :=
  if b.resolvable && s.suspends k (ctxOf x.inst) then
    (s.noteBad k x.tag b).onCore k fun c =>
      (c.onAccess x.id fun y => { y with stage := .parked }).addPrecise
        { word := faultWord b.code k (colOf x.elem) (rowOf x.elem) b.detail, otag := x.tag, itag := x.inst, d := x.opnds.dAll,
          place := { node := node, x := colOf x.elem, y := rowOf x.elem, frame := x.frame, slot := x.slot }, ctx := ctxOf x.inst,
          res := true } none
  else s.fail k x b

/-! ## Firing an access -/

/-- Issue an instruction that may be a store: an F token that reaches a store is precise there, and is forwarded (R54, R62). An ordered
access that fires with an F token takes no chain position, which the rules leave open (assumption log 15). -/
def issueAccess (i : Instr) (s : State) (act : State → Shot → Opnds → State) : Out :=
  match elemParts i with
  | none => .fault .wrongAgent
  | some (opc, a) =>
    issueWith s a (opcTyped opc) 1 fun s sh o =>
      let s := if isRemoteOpc opc then s.onCore sh.k (·.onInst sh.frame sh.inst fun x => { x with rels := insertSorted sh.slot x.rels })
        else s
      match o.firstF with
      | none => act s sh o
      | some n =>
        let s := match isStorePoint opc, o.toks.getD n none with
          | true, some t => s.preciseAt sh t.val (t.origin.getD 0) t.d
          | _, _ => s
        s.forwardSlot sh o n o.dAll false

/-- The record of an access that has fired. -/
def Shot.access (sh : Shot) (id : Nat) (i : Instr) (o : Opnds) : Access :=
  { id := id, elem := sh.e, frame := sh.frame, slot := sh.slot, instr := i, toks := o.toks, tag := o.tag, inst := sh.inst }

/-- Whether an instance has committed (R450). -/
def Core.instCommitted (c : Core) (f : Nat) (t : Tag) : Bool := match c.inst? f t with | some i => i.committed | none => false

/-- Put a fired access on its core: performed when it may be, or held to commit; one that is held fires late where its instance has
committed, and is released at once behind that instance's accesses (R450), but for the generation instructions of higher slots (R347). A
late `send` keeps its instance's place in the order of commits (R280). -/
def State.putAccess (s : State) (sh : Shot) (x : Access) (hold : Bool) : State :=
  s.onCore sh.k fun c =>
    let late := hold && c.instCommitted sh.frame sh.inst
    let own := c.accesses.filter fun y => y.frame == sh.frame && y.inst == sh.inst && !(isGenOpc x.opc && isGenOpc y.opc && x.slot < y.slot)
    let after := if late then own.map (·.id) else []
    let joined := if late && x.opc == 0x14D then ((c.inst? sh.frame sh.inst).map (·.order)).getD x.id else x.id
    { c with accesses := c.accesses ++ [{ x with stage := if hold && !late then .held else .ready, after := after, joined := joined }] }

/-- Raise the fault of a failed check (R160, R257, R429). -/
def State.raiseBad (s : State) (sh : Shot) (o : Opnds) (b : Bad) : State :=
  (s.noteBad sh.k o.tag b).raise sh b.code b.detail o.tag o.dAll

/-- The wave link of an ordered access. -/
def linkOf (a : ElemArgs) (id : Nat) : Option WaveLink :=
  match a.f6 with
  | .wave p o n => some { pred := p.toNat, own := o.toNat, succ := n.toNat, access := id }
  | .pred _ _ => none

/-- Put an ordered access on its core and in its instance's wave; where its position is taken it gives ARITH with DETAIL 0x61
(R239, R450). -/
def State.putOrdered (s : State) (sh : Shot) (o : Opnds) (x : Access) (hold : Bool) : State :=
  match linkOf sh.args x.id with
  | none => s.putAccess sh x hold
  | some l =>
    let (ok, c) := (s.core sh.k).acceptLink sh.frame sh.inst l
    let s := s.setCore sh.k c
    if ok then s.putAccess sh x hold else s.raiseBad sh o { code := fcArith, detail := 0x61 }

/-- A failing ordered access takes its chain position without an access (assumption log 15), and gives its F token. -/
def State.standIn (s : State) (sh : Shot) (o : Opnds) (id : Nat) (b : Bad) : State :=
  match linkOf sh.args id with
  | none => s.raiseBad sh o b
  | some l => (s.setCore sh.k ((s.core sh.k).acceptLink sh.frame sh.inst l).2).raiseBad sh o b

end Sys2Proof.Machine
end

