-- ==== Sys2Proof/Machine/ElemMem.lean ====
section
/-! DEFINITION. The memory, atomic, tile and ring instructions of the elements (R260 to R284): the checks at firing, and what happens when
an access is performed at its point of order. -/

namespace Sys2Proof.Machine

open Sys2Proof

/-! ## Functions -/

/-- Bytes of an access by COND [1:0] (R260). -/
def accessWidth (cond : Nat) : Nat := if cond % 4 == 0 then 4 else if cond % 4 == 1 then 2 else 1

/-- The value that a load returns (R261). -/
def loadValue (ty : ElemType) (n : Nat) (bs : List Byte) : Nat :=
  let v := ofLeBytes bs
  if ty == .s32 then wrap (signExt v (8 * n)) 32 else v

/-- An atomic operation (R267): operation code, type, old value, operands b and c. -/
def atomicResult (op : Nat) (ty : ElemType) (old b c : Nat) : Nat :=
  match op with
  | 0 => if ty == .f32 then fadd fp32 old b else (old + b) % 2 ^ 32
  | 1 => if ty == .f32 then fmin fp32 old b
         else if ty == .s32 then (if signExt old 32 ≤ signExt b 32 then old else b) else min old b
  | 2 => if ty == .f32 then fmax fp32 old b
         else if ty == .s32 then (if signExt old 32 ≤ signExt b 32 then b else old) else max old b
  | 3 => old &&& b
  | 4 => old ||| b
  | 5 => old ^^^ b
  | 6 => b
  | _ => if old == b then c else old

/-- The atomics that host memory takes (R268). -/
def hostAtomicOk (opc op : Nat) (ty : ElemType) : Bool :=
  ty != .f32 && (if opc == 0x147 then op == 0 || op == 6 || op == 7 else op == 0)

/-! ## Firing -/

/-- Fire an access with the checks of R257: alignment, then steps 3 to 8, then a check of its own on the spot. -/
def fireSpot (i : Instr) (s : State) (n : State → Opnds → Nat) (align : Nat) (rd wr hold ordered : Bool)
    (own : Opnds → Spot → Option Bad) : Out :=
  issueAccess i s fun s sh o =>
    let (id, s) := s.newId
    let a := o.val 0
    let refuse (s : State) (b : Bad) : State := if ordered then s.standIn sh o id b else s.raiseBad sh o b
    if a % align != 0 then refuse s { code := fcMisalign, detail := 0 }
    else match s.checkSpot sh.k a (n s o) rd wr o.dAll with
      | (.error b, s) => refuse s b
      | (.ok p, s) =>
        match own o p with
        | some b => refuse s b
        | none =>
          let x := { sh.access id i o with region := p.region, va := p.va, width := n s o }
          if ordered then s.putOrdered sh o x hold else s.putAccess sh x hold

/-- The full/empty state that `lds`, `iput` and `iget` need (R246, R265). -/
def needsFull (_ : Opnds) (p : Spot) : Option Bad := if p.hasFull then none else some { code := fcProt, detail := 0x60, va := some p.va }

/-- Host memory takes some atomics only (R268). -/
def needsHostAtomic (opc : Nat) (a : ElemArgs) (_ : Opnds) (p : Spot) : Option Bad :=
  if p.region == .hostMem && !hostAtomicOk opc a.cond.toNat a.ty then some { code := fcProt, detail := 0x65, va := some p.va } else none

/-- R261 `ld`: performed in wave order. -/
def execLd (a : ElemArgs) (s : State) : Out :=
  fireSpot (.ld a) s (fun _ _ => accessWidth a.cond.toNat) 1 true false false true fun _ _ => none
/-- R262 `st`: held to commit. -/
def execSt (a : ElemArgs) (s : State) : Out :=
  fireSpot (.st a) s (fun _ _ => accessWidth a.cond.toNat) 1 false true true true fun _ _ => none
/-- R261 `ldx`: performed when it fires. -/
def execLdx (a : ElemArgs) (s : State) : Out :=
  fireSpot (.ldx a) s (fun _ _ => accessWidth a.cond.toNat) 1 true false false false fun _ _ => none
/-- R262 `stx`: held to commit. -/
def execStx (a : ElemArgs) (s : State) : Out :=
  fireSpot (.stx a) s (fun _ _ => accessWidth a.cond.toNat) 1 false true true false fun _ _ => none
/-- R263 `lds`: performed when its word is found full. -/
def execLds (a : ElemArgs) (s : State) : Out := fireSpot (.lds a) s (fun _ _ => 4) 4 true false false true needsFull
/-- R265 `iput`: held to commit. -/
def execIput (a : ElemArgs) (s : State) : Out := fireSpot (.iput a) s (fun _ _ => 4) 4 false true true false needsFull
/-- R265 `iget`: answered when its word is full. -/
def execIget (a : ElemArgs) (s : State) : Out := fireSpot (.iget a) s (fun _ _ => 4) 4 true false false false needsFull
/-- R267 `atom`: performed at release. -/
def execAtom (a : ElemArgs) (s : State) : Out :=
  fireSpot (.atom a) s (fun _ _ => 4) 4 true true true true (needsHostAtomic 0x147 a)
/-- R267 `red`: performed at release. -/
def execRed (a : ElemArgs) (s : State) : Out :=
  fireSpot (.red a) s (fun _ _ => 4) 4 true true true true (needsHostAtomic 0x148 a)

/-- R270 `fence`: an ordered access that emits its trigger when R244 lets it. -/
def execFence (a : ElemArgs) (s : State) : Out :=
  issueAccess (.fence a) s fun s sh o =>
    let (id, s) := s.newId
    s.putOrdered sh o (sh.access id (.fence a) o) false

/-- The region in which an access to a ring object is released (R240). -/
def controlRegion (i : Instr) (va : Nat) : Region :=
  match i with
  | .ringInit _ => if inWindow va then .localWin else .device
  | _ => .none

/-- Fire an access to the tile table or a ring, after the check of its control word (R257 step 1). -/
def fireControl (i : Instr) (s : State) (hold : Bool) (check : State → Shot → Opnds → Except Bad (Nat × Nat) × State) : Out :=
  issueAccess i s fun s sh o =>
    match check s sh o with
    | (.error b, s) => s.raiseBad sh o b
    | (.ok (va, w), s) =>
      let (id, s) := s.newId
      s.putAccess sh { sh.access id i o with va := va, width := w, region := controlRegion i va } hold

/-- A malformed control word (R257 step 1). -/
def badControl : Bad := { code := fcProt, detail := 0x6F }

/-- R272 `talloc`: performed when it fires; every control word is well formed. -/
def execTalloc (a : ElemArgs) (s : State) : Out := fireControl (.talloc a) s false fun s _ _ => (.ok (0, 0), s)
/-- R273 `tstate`. -/
def execTstate (a : ElemArgs) (s : State) : Out :=
  fireControl (.tstate a) s false fun s _ o =>
    (if o.val 0 ≥ 256 || (a.arity.toNat == 1 && o.val 1 ≥ 4) then .error badControl else .ok (0, 0), s)
/-- R274 `tfree`. -/
def execTfree (a : ElemArgs) (s : State) : Out :=
  fireControl (.tfree a) s false fun s _ o => (if o.val 0 ≥ 256 then .error badControl else .ok (0, 0), s)

/-- Whether every piece of a range of a core's launch has one class and seal domain. -/
def State.oneClass (s : State) (k va n : Nat) : Bool :=
  match (s.translateAll (some k) (some (k / 4)) (s.coreAsid k) ((pageParts va n).map fun p => (p.1 % 2 ^ 57, p.2))).1 with
  | some ps => ps.all fun p => ps.all fun q => p.t.cls == q.t.cls
  | none => true

/-- R282 `ring.init`: the object and its slots are checked when it fires. Slots that leave the segment, the scratchpad or the
synchronisation pages of one class are case 4; any other check that they fail is one of R257. -/
def State.checkRing (s : State) (k a b : Nat) (d : Bool) : Except Bad (Nat × Nat) × State :=
  if bits b 7 0 != 0 then (.error badControl, s)
  else if a % 256 != 0 then (.error { code := fcMisalign, detail := 0 }, s)
  else match s.checkSpot k a 32 false true d with
    | (.error e, s) => (.error e, s)
    | (.ok p, s) =>
      let bytes := (bits b 19 8 + 1) * (bits b 27 20 + 1) * 256
      let bad : Bad := { code := fcProt, detail := 0x6B, va := some p.va }
      if !p.hasFull then (.error { code := fcProt, detail := 0x60, va := some p.va }, s)
      else match s.checkSpot k (a + 256) bytes false true d with
        | (.error e, s) =>
          let leaves := (e.detail != 0 && e.detail != 0x91) || (e.code == fcAttrSplit && !s.oneClass k (e.va.getD 0) bytes)
          (.error (if leaves then bad else e), s)
        | (.ok q, s) =>
          if a / 2 ^ 28 != (a + 256) / 2 ^ 28 || !q.hasFull || q.loc != p.loc ||
            q.pieces.any (fun x => p.pieces.any fun y => x.t.cls != y.t.cls) then (.error bad, s)
          else (.ok (p.va, bytes), s)

/-- R282 `ring.init`: held to commit. -/
def execRingInit (a : ElemArgs) (s : State) : Out :=
  fireControl (.ringInit a) s true fun s sh o => s.checkRing sh.k (o.val 0) (o.val 1) o.dAll

/-! ## Ring objects (R249, R281) -/

/-- The fields of a ring object that its core's entry names, with the element address of the object. -/
structure RingView where
  addr : Nat
  spot : Spot
  wptr : Nat
  rptr : Nat
  nslot : Nat
  sz : Nat
  deriving DecidableEq, Repr

/-- Read the ring object at an element address of a core (R249); a fault where it cannot be read. -/
def State.ringViewAt (s : State) (k a : Nat) : Except Bad RingView × State :=
  match s.checkSpot k a 32 true false false with
  | (.error b, s) => (.error b, s)
  | (.ok p, s) =>
    match s.readSpot k p 32 with
    | (.error b, s) => (.error b, s)
    | (.ok bs, s) =>
      let ws := wordsOfBytes bs
      let c := wordAt ws 2
      (.ok { addr := a, spot := p, wptr := wordAt ws 4, rptr := wordAt ws 5, nslot := bits c 19 8, sz := bits c 7 0 }, s)

/-- Read the ring object of an entry (R249); a fault where the entry is invalid or the object cannot be read. -/
def State.ringView (s : State) (k rn : Nat) : Except Bad RingView × State :=
  match Tab.find? (s.core k).rings rn with
  | none => (.error { code := fcProt, detail := 0x69 }, s)
  | some a => s.ringViewAt k a

/-- The place that names a ring object whichever entry reaches it. -/
def Spot.ringKey (p : Spot) (k : Nat) : Nat × Nat :=
  if p.loc then (k, p.off) else (64, match p.pieces with | x :: _ => x.t.pa | [] => 0)

/-- Bytes of a slot. -/
def RingView.slotBytes (r : RingView) : Nat := (r.sz + 1) * 256
/-- Element address of slot `k` (R284). -/
def RingView.slotAddr (r : RingView) (k : Nat) : Nat := r.addr + 256 + k % (r.nslot + 1) * r.slotBytes
/-- Whether slot `k` is filled (R250, R284). -/
def RingView.filled (r : RingView) (k : Nat) : Bool :=
  let d := (r.wptr + 2 ^ 32 - k) % 2 ^ 32
  1 ≤ d && d ≤ 2 ^ 31

/-- The part of a spot from an offset on. -/
def Spot.word (p : Spot) (ofs : Nat) : Spot :=
  { p with va := p.va + ofs, off := p.off + ofs,
           pieces := p.pieces.map fun x => { x with t := { x.t with pa := x.t.pa + ofs }, n := 4 } }

/-- Write a word of a ring object. -/
def State.writeRing (s : State) (k : Nat) (r : RingView) (i v : Nat) : State := (s.writeSpot k (r.spot.word (4 * i)) (leBytes v 4) false).2

/-- Empty the words of a spot (R245). -/
def State.emptySpot (s : State) (k : Nat) (p : Spot) (n : Nat) : State :=
  if p.loc then s.onCore k fun c => { c with empties := insertAll (wordsTouched p.off n) c.empties }
  else p.pieces.foldl (fun s x => s.emptyWords x.t.pa x.n) s

/-- The slot count that `awaitf` and `relslot` name (R281); a count that no rule fixes is a free value (assumption log 16). -/
def State.slotCount (s : State) (a rptr : Nat) : Nat × State :=
  let low := a % 2 ^ 28
  let d := (low + 2 ^ 28 - rptr % 2 ^ 28) % 2 ^ 28
  if d < 2 ^ 27 then ((rptr + d) % 2 ^ 32, s)
  else let (w, s) := s.freeWord 281; (w.toNat / 2 ^ 28 * 2 ^ 28 + low, s)

/-- R284 `awaitf`: waits until its slot is filled. -/
def execAwaitf (a : ElemArgs) (s : State) : Out :=
  issueAccess (.awaitf a) s fun s sh o =>
    match s.ringView sh.k (bits (o.val 0) 31 28) with
    | (.error b, s) => s.raiseBad sh o b
    | (.ok r, s) =>
      let (id, s) := s.newId
      let (n, s) := s.slotCount (o.val 0) r.rptr
      s.putAccess sh { sh.access id (.awaitf a) o with slotNo := n } false

/-- R284 `relslot`: held to commit. -/
def execRelslot (a : ElemArgs) (s : State) : Out := fireControl (.relslot a) s true fun s _ _ => (.ok (0, 0), s)

/-! ## Tiles met by an access (R233, R262, R264) -/

/-- What the tile table lets an access do. -/
inductive TileGate where
  | go
  | wait (tile : Nat)
  | bad (detail : Nat)
  deriving DecidableEq, Repr

/-- The tile rule on `n` bytes of the scratchpad for a read, or for a store that fills ordinary words. -/
def Core.tileGate (c : Core) (x : Access) (p : Spot) (n : Nat) (plainStore : Bool) : TileGate :=
  if !p.loc then .go
  else if x.tileAt == .freed then .bad 0x31
  else
    let ts := c.tilesOf p.off n
    if plainStore && ts.any fun t => t.2.isI then .bad 0x64
    else match List.find? (fun t : Nat × Tile => t.2.st == .filling || t.2.st == .draining) ts with
      | some t => .wait t.1
      | none => .go

/-! ## Deferred readers and full words (R246, R247, R266) -/

/-- The accesses of a core that wait for a full word, in the order in which they joined. -/
def Core.readers (c : Core) : List Access :=
  (c.accesses.filter fun x => x.stage == .waiting && (x.opc == 0x146 || x.opc == 0x144)).mergeSort fun a b => a.joined ≤ b.joined

/-- The stores of an instance that a load sees, in chain order (R240). -/
def Core.storesBefore (c : Core) (x : Access) : List Access := ((c.beforeOf x).getD []).filter fun y => y.opc == 0x141

/-- The location of a byte: in the scratchpad, in HBM as the class and seal domain of a mapping see it, or in host memory (R228, R394). -/
inductive Loc where
  | scr (off : Nat)
  | hbm (pa cls sdom : Nat)
  | host (pa : Nat)
  deriving DecidableEq, Repr

/-- The locations of the bytes of a spot, in order. -/
def Spot.locs (p : Spot) (n : Nat) : List Loc :=
  if p.loc then (span p.off n).map .scr
  else p.pieces.flatMap fun x => (span x.t.pa x.n).map fun a => if x.t.host then .host a else .hbm a x.t.cls x.t.sdom

/-- A buffered store as a load of its chain sees it: the locations of its bytes under the tables in force, their values, and its D bit
(R240, R254). -/
structure Buffered where
  locs : List Loc
  val : Nat
  d : Bool
  deriving DecidableEq, Repr

/-- The byte that a buffered store holds for a location. -/
def Buffered.byte? (b : Buffered) (l : Loc) : Option Byte :=
  (List.range b.locs.length).findSome? fun i => if b.locs[i]? == some l then some (BitVec.ofNat 8 (b.val / 2 ^ (8 * i))) else none

/-- The buffered stores that a load sees, in chain order; one whose address no longer translates covers nothing (R240, R388). -/
def State.buffered (s : State) (k : Nat) (x : Access) : List Buffered :=
  ((s.core k).storesBefore x).filterMap fun y =>
    match (s.checkSpot k (y.opnds.val 0) y.width false true false).1 with
    | .ok q => some { locs := q.locs y.width, val := y.opnds.val 1, d := y.opnds.dAll }
    | .error _ => none

/-- The bytes of a load with the buffered stores before it laid over, location by location (R240, R251). -/
def overlay (stores : List Buffered) (locs : List Loc) (bs : List Byte) : List Byte :=
  (List.range locs.length).map fun i =>
    stores.foldl (fun b y => ((locs[i]?).bind y.byte?).getD b) (bs.getD i 0)

/-- The D bits of the scratchpad words that a load reads, with the buffered stores before it laid over: a word that a store covers whole
takes its D, one that it covers in part adds it (R259). `wordD` reads the D bit of a word. -/
def overlayD (stores : List Buffered) (off n : Nat) (wordD : Nat → Bool) : Bool :=
  (wordsTouched off n).any fun w =>
    stores.foldl (fun d y =>
      let hit := (span (4 * w) 4).map fun o => y.locs.contains (.scr o)
      if hit.all id then y.d else if hit.any id then d || y.d else d) (wordD w)

/-- What a load takes at its point of order: its bytes, those that an earlier store of its chain holds laid over where it is an ordered
load, and their D bit (R240, R254, R259). -/
def State.readLoad (s : State) (k : Nat) (x : Access) (p : Spot) : Except Bad (List Byte × Bool) × State :=
  let stores := if isLoadOpc x.opc then s.buffered k x else []
  let d := if p.loc then overlayD stores p.off x.width (s.core k).scrD else s.spotD k p x.width
  match s.readSpot k p x.width with
  | (.error b, s) => (.error b, s)
  | (.ok bs, s) => (.ok (overlay stores (p.locs x.width) bs, d), s)

/-- Answer a waiting `lds` or `iget` whose word is full; one whose address no longer translates ends in its fault (R388). -/
def State.answerOne (s : State) (k : Nat) (x : Access) : State :=
  let give (s : State) : State := if x.opc == 0x146 then s.spillGive k 1 else s
  match s.checkSpot k (x.opnds.val 0) 4 true false false with
  | (.error b, s) => (give s).fail k x b
  | (.ok p, s) =>
    if !p.hasFull then (give s).fail k x { code := fcProt, detail := 0x60, va := some p.va }
    else if !s.spotFull k p then s
    else match (s.core k).tileGate x p 4 false with
      | .bad e => (give s).fail k x { code := fcProt, detail := e, va := some p.va }
      | .wait _ => s
      | .go =>
        match s.readLoad k x p with
        | (.error b, s) => (give s).fail k x b
        | (.ok (bs, d), s) => (give s).finish k x (ofLeBytes bs) (x.opnds.dAll || d)

/-- Answer every deferred reader and waiting `lds` whose word is full, in list order (R246, R247, R266). -/
def State.settle (s : State) : State :=
  (s.cores.flatMap fun x => x.2.readers.map fun a => (x.1, a)).foldl (fun s x => s.answerOne x.1 x.2) s

/-! ## Performing -/

/-- Check an access again as it is sent (R388), and meet its tile; a release that fails may park (R435). -/
def State.sendSpot (s : State) (k : Nat) (x : Access) (rd wr plainStore : Bool) (go : State → Spot → State) : State :=
  let bad (s : State) (b : Bad) : State := if wr then s.failReleased k 61 x b else s.fail k x b
  match s.checkSpot k (x.opnds.val 0) x.width rd wr x.opnds.dAll with
  | (.error b, s) => bad s b
  | (.ok p, s) =>
    match (s.core k).tileGate x p x.width plainStore with
    | .bad e => bad s { code := fcProt, detail := e, va := some p.va }
    | .wait t => s.onCore k (·.onAccess x.id fun y => { y with tileAt := .tile t })
    | .go => go s p

/-- `ld` and `ldx` are performed (R240, R261). -/
def State.doLoad (s : State) (k : Nat) (x : Access) : State :=
  s.sendSpot k x true false false fun s p =>
    match s.readLoad k x p with
    | (.error b, s) => s.fail k x b
    | (.ok (bs, d), s) => s.finish k x (loadValue x.args.ty x.width bs) (x.opnds.dAll || d)

/-- `lds` and `iget`: at once where the word is full, else they join its list (R246, R265). The word that they are sent to must have
full/empty state (R263, R388). -/
def State.doSyncLoad (s : State) (k : Nat) (x : Access) : State :=
  s.sendSpot k x true false false fun s p =>
    if !p.hasFull then s.fail k x { code := fcProt, detail := 0x60, va := some p.va }
    else if s.spotFull k p then
      match s.readLoad k x p with
      | (.error b, s) => s.fail k x b
      | (.ok (bs, d), s) => s.finish k x (ofLeBytes bs) (x.opnds.dAll || d)
    else
      let (n, s) := s.newId
      let join (s : State) : State := s.onCore k (·.onAccess x.id fun y => { y with stage := .waiting, joined := n, tileAt := .none })
      if x.opc == 0x144 then join s
      else match s.spillTake k 1 with
        | some s => join s
        | none => s.fail k x { code := fcOvfl, detail := 0 }

/-- `st` and `stx` are performed (R262). -/
def State.doStore (s : State) (k : Nat) (x : Access) : State :=
  s.sendSpot k x false true true fun s p =>
    match s.writeSpot k p (leBytes (x.opnds.val 1) x.width) x.opnds.dAll with
    | (.error b, s) => s.failReleased k 61 x b
    | (.ok _, s) => (s.finish k x (x.opnds.val 0) x.opnds.dAll).settle

/-- `iput` is performed: a full word gives ISTW (R265). -/
def State.doIput (s : State) (k : Nat) (x : Access) : State :=
  s.sendSpot k x false true false fun s p =>
    if !p.hasFull then s.fail k x { code := fcProt, detail := 0x60, va := some p.va }
    else if s.spotFull k p then s.fail k x { code := fcIstw, detail := 0, va := some p.va }
    else match s.writeSpot k p (leBytes (x.opnds.val 1) 4) x.opnds.dAll with
      | (.error b, s) => s.failReleased k 61 x b
      | (.ok _, s) => (s.finish k x (x.opnds.val 0) x.opnds.dAll).settle

/-- `atom` and `red` are performed (R267); an AtomicOp is performed at the host itself, which takes some operations only, wherever the
access was when it fired (R268, R388). -/
def State.doAtomic (s : State) (k : Nat) (x : Access) : State :=
  s.sendSpot k x true true true fun s p =>
    match needsHostAtomic x.opc x.args x.opnds p with
    | some b => s.fail k x b
    | none =>
      let d := s.spotD k p 4
      match s.readSpot k p 4 with
      | (.error b, s) => s.failReleased k 61 x b
      | (.ok bs, s) =>
        let old := ofLeBytes bs
        let new := atomicResult x.args.cond.toNat x.args.ty old (x.opnds.val 1) (x.opnds.val 2)
        match s.writeSpot k p (leBytes new 4) x.opnds.dAll with
        | (.error b, s) => s.failReleased k 61 x b
        | (.ok _, s) =>
          let s := if p.region == .hostMem then s.postAll else s
          (if x.opc == 0x147 then s.finish k x old (x.opnds.dAll || d)
           else s.finish k x (x.opnds.val 0) x.opnds.dAll).settle

/-- Whether the scope of a fence takes in the host (R89, R236). -/
def fenceSys (x : Access) : Bool := x.args.cond.toNat == 4

/-- `fence` emits its trigger (R270). A releasing fence of scope `.sys` has the posted writes before it reach the host, by a read issued
behind them; the narrower scopes are met by what stands at its point of order or in the posted queue (R236, R244). -/
def State.doFence (s : State) (k : Nat) (x : Access) : State :=
  (if fenceRel x && fenceSys x then s.postAll else s).finish k x (x.opnds.val 0) (x.opnds.d 0)

/-- The tile that a `talloc` control word describes (R271). -/
def tileOfControl (a : Nat) : Tile :=
  { st := if bit a 23 then .filling else .ready, first := bits a 10 0, nrow := bits a 21 11, fill := bit a 23, isI := bit a 22 }

def Tile.firstByte (t : Tile) : Nat := t.first * 16384
def Tile.bytes (t : Tile) : Nat := (t.nrow + 1) * 256

/-- `talloc` is performed (R272). -/
def State.doTalloc (s : State) (k : Nat) (x : Access) : State :=
  let a := x.opnds.val 0
  let c := s.core k
  let t := tileOfControl a
  let no := bits a 31 24
  if (c.tile no).st != .empty then s.fail k x { code := fcProt, detail := 0x67 }
  else if c.scrBytes < t.firstByte + t.bytes then s.fail k x { code := fcProt, detail := 0x62 }
  else if !(c.tilesOf t.firstByte t.bytes).isEmpty then s.fail k x { code := fcProt, detail := 0x66 }
  else (s.onCore k fun c => (c.scrEmpty (t.firstByte / 4) (t.bytes / 4)).onTile no fun _ => t).finish k x a x.opnds.dAll

def TileState.code : TileState → Nat
  | .empty => 0 | .filling => 1 | .ready => 2 | .draining => 3

/-- The state word of a tile (R273). -/
def Tile.word (t : Tile) : Nat :=
  if t.st == .empty then 0
  else t.nrow * 2 ^ 16 + b2n t.fill * 16 + b2n t.isI * 8 + b2n t.dmark * 4 + t.st.code

/-- `tstate` is performed; with two operands it waits for the state that b names (R273). -/
def State.doTstate (s : State) (k : Nat) (x : Access) : State :=
  let t := (s.core k).tile (x.opnds.val 0)
  if x.args.arity.toNat == 1 && t.st.code != x.opnds.val 1 then s else s.finish k x t.word x.opnds.dAll

/-- Whether the freeing of a tile meets a waiting access: one that waits for the tile, or an `lds` that waits for a word of it. A deferred
reader keeps its place (R233, R266, R274). -/
def Access.meetsFree (y : Access) (no : Nat) (t : Tile) : Bool :=
  if y.stage == .waiting then
    y.opc == 0x144 && y.region == .localWin && t.firstByte ≤ y.va - windowBase && y.va - windowBase < t.firstByte + t.bytes
  else y.tileAt == .tile no

/-- A tile becomes EMPTY: its words are zero and empty with D = 0, and accesses that wait for it fault (R232, R274). -/
def Core.freeTile (c : Core) (no : Nat) : Core :=
  let t := c.tile no
  let c := (c.scrZero (t.firstByte / 4) (t.bytes / 4)).scrEmpty (t.firstByte / 4) (t.bytes / 4)
  { c with tiles := Tab.del c.tiles no,
           accesses := c.accesses.map fun y => if y.meetsFree no t then
             { y with tileAt := .freed, stage := if y.stage == .waiting then .ready else y.stage } else y }

/-- `tfree` is performed: it waits while the tile is FILLING or DRAINING (R274). -/
def State.doTfree (s : State) (k : Nat) (x : Access) : State :=
  match ((s.core k).tile (x.opnds.val 0)).st with
  | .empty => s.fail k x { code := fcProt, detail := 0x31 }
  | .ready => (s.onCore k (·.freeTile (x.opnds.val 0))).finish k x (x.opnds.val 0) x.opnds.dAll
  | _ => s

/-- Whether an engine fills a slot of a ring object (R282). -/
def State.ringBusy (s : State) (key : Nat × Nat) : Bool :=
  s.cores.any fun c => c.2.accesses.any fun y => y.stage == .copying && y.ringAt == some key

/-- Whether a `ring.init` of an object has begun: claims wait behind it (R282). -/
def State.ringIniting (s : State) (key : Nat × Nat) : Bool :=
  s.cores.any fun c => c.2.accesses.any fun y => y.opc == 0x14E && y.ringAt == some key

/-- Claims of an object that its initialisation finds waiting for room: their slot numbers, in the order of the claims. -/
def State.waitingClaims (s : State) (key : Nat × Nat) : List Nat :=
  (s.cores.flatMap fun c => (c.2.accesses.filter fun y => y.opc == 0x14D && y.stage == .ready && y.ringAt == some key).map
    (·.slotNo)).mergeSort fun a b => a ≤ b

/-- An object starts afresh: the places of completed and lost slots go, and claims that waited for room count from 0 (R282, R283). -/
def State.restartClaims (s : State) (key : Nat × Nat) : State :=
  let ns := s.waitingClaims key
  let again (y : Access) : Access :=
    if y.opc == 0x14D && y.stage == .ready && y.ringAt == some key then { y with slotNo := ns.idxOf y.slotNo } else y
  let core (c : Core) : Core :=
    { c with accesses := (c.accesses.filter fun y => !(y.over && y.ringAt == some key)).map again }
  { s with cores := s.cores.map fun (c : Nat × Core) => (c.1, core c.2) }

/-- Why the words of a spot cannot be made empty: a change of full/empty state first reads the lines (R424). -/
def State.emptyFault (s : State) (p : Spot) : Option Bad :=
  if p.loc then none else (s.piecesFault p.pieces false).map fun f => { code := f.1, detail := f.2, va := some p.va }

/-- `ring.init` is performed once no engine fills a slot of the object. It writes words 0 to 5 of the object and leaves the rest (R249,
R282). -/
def State.doRingInit (s : State) (k : Nat) (x : Access) : State :=
  let a := x.opnds.val 0
  let b := x.opnds.val 1
  match s.checkRing k a b x.opnds.dAll with
  | (.error e, s) => s.failReleased k 61 x e
  | (.ok (_, bytes), s) =>
    match s.checkSpot k a 32 false true x.opnds.dAll with
    | (.error e, s) => s.failReleased k 61 x e
    | (.ok p, s) =>
      let key := p.ringKey k
      if s.ringBusy key then s.onCore k (·.onAccess x.id fun y => { y with ringAt := some key })
      else match s.checkSpot k (a + 256) bytes false true x.opnds.dAll with
        | (.error e, s) => s.failReleased k 61 x e
        | (.ok q, s) =>
          let obj := leBytes q.va 8 ++ leBytes (bits b 19 8 * 2 ^ 8 + bits b 27 20) 4 ++ leBytes 0 12
          match s.emptyFault q with
          | some e => s.failReleased k 61 x e
          | none =>
            match s.writeSpot k p obj x.opnds.dAll with
            | (.error e, s) => s.failReleased k 61 x e
            | (.ok _, s) =>
              ((((s.restartClaims key).emptySpot k q bytes).onCore k fun c =>
                { c with rings := Tab.set c.rings (bits b 31 28) a }).finish k x a x.opnds.dAll).settle

/-- `awaitf` is performed once its slot is filled (R284). -/
def State.doAwaitf (s : State) (k : Nat) (x : Access) : State :=
  match s.ringView k (bits (x.opnds.val 0) 31 28) with
  | (.error b, s) => s.fail k x b
  | (.ok r, s) => if r.filled x.slotNo then s.finish k x (r.slotAddr x.slotNo) x.opnds.dAll else s

/-- `relslot` is performed: slots are released in order (R284). -/
def State.doRelslot (s : State) (k : Nat) (x : Access) : State :=
  match s.ringView k (bits (x.opnds.val 0) 31 28) with
  | (.error b, s) => s.failReleased k 61 x b
  | (.ok r, s) =>
    let (n, s) := s.slotCount (x.opnds.val 0) r.rptr
    if !r.filled n then s.fail k x { code := fcProt, detail := 0x68 }
    else if r.rptr != n then s
    else match s.checkSpot k (r.slotAddr n) r.slotBytes false true false with
      | (.error b, s) => s.failReleased k 61 x b
      | (.ok q, s) =>
        match s.emptyFault q with
        | some b => s.failReleased k 61 x b
        | none => ((s.emptySpot k q r.slotBytes).writeRing k r 5 ((n + 1) % 2 ^ 32)).finish k x (x.opnds.val 0) x.opnds.dAll

end Sys2Proof.Machine
end

