-- ==== Sys2Proof/Machine/Network.lean ====
section
/-! DEFINITION. Tokens on their way into a core: delivery from the core's network (R43), block inputs and the instances that they begin
(R56, R58, R449), the first commit token of a context (R59), input queues, and the arrival buffer (R69, R328). -/

namespace Sys2Proof.Machine

open Sys2Proof

/-- Whether the elements of a frame accept tokens (R68). -/
def Core.accepts (c : Core) (now f : Nat) : Bool :=
  match (c.frame f).acceptFrom with | some t => t ≤ now | none => false

/-- The element and operand slot of a block input (R56, R75 BIN); none where BIN binds none or the index is not declared. -/
def Frame.inputSlot (fr : Frame) (n : Nat) : Option (Nat × Nat) :=
  if fr.nin ≤ n then none else
  match Tab.find? fr.bins n with
  | none => none
  | some (sl, os) => (Tab.find? fr.map sl).map fun e => (e, os)

/-- The element that BIN names for a block input as its frame stands; the frame's north-west element where it holds no block or BIN names
none (R429). -/
def Core.inputOrigin (c : Core) (f n : Nat) : Nat :=
  match (c.frame f).status, (c.frame f).inputSlot n with
  | .closed, some (e, _) => e
  | _, _ => frameElem f 0 0

/-- The frame that a destination lies in. -/
def destFrame : Dest → Option Nat
  | .elem e _ => some (frameOf e)
  | .input f _ => some f
  | .node _ _ => none

/-- The element and operand slot that a destination means, once its frame holds a block. -/
def Core.destElem (c : Core) : Dest → Option (Nat × Nat)
  | .elem e sl => some (e, sl)
  | .input f n => (c.frame f).inputSlot n
  | .node _ _ => none

/-- The tag of a launch-local context's first commit token (R59). -/
def firstTag (ctx : Nat) : Tag := BitVec.ofNat 64 (ctx * 2 ^ 52 + 2 ^ 48)

/-- Inject the first commit token of a launch-local context on the core that first receives a token of it; at a frame that holds no
block none is injected (R59). -/
def State.firstToken (s : State) (k ctx : Nat) : State :=
  s.onCore k fun c =>
    if 0xC00 ≤ ctx || c.injected.contains ctx then c
    else { c with injected := insertSorted ctx c.injected,
                  commits := if (c.frame 0).status == .closed then c.commits ++ [(0, firstTag ctx)] else c.commits }

/-- A new instance of a block, in place of a committed one of the same tag; a block whose CNEXT is of kind ENTRY holds a commit token
of its own from then on (R60). -/
def Core.beginInst (c : Core) (f n : Nat) (t : Tag) : Core :=
  let c := { c with insts := c.insts.filter (fun i => !(i.frame == f && i.tag == t)) ++ [{ frame := f, tag := t, inputs := [n] }] }
  if (c.frame f).cnext == some .entry && !c.commits.contains (f, t) then { c with commits := c.commits ++ [(f, t)] } else c

/-- A token enters a block: it joins the instance of its tag, or begins one (R58). A NORMAL token at an input that a committed instance
has seen begins the tag's next instance (assumption log 14). -/
def Core.enterInst (c : Core) (f n : Nat) (t : Tag) (ma : MA) : Core :=
  match c.inst? f t with
  | none => c.beginInst f n t
  | some i =>
    if i.committed && ma == .normal && i.inputs.contains n then c.beginInst f n t
    else c.onInst f t fun i => { i with inputs := insertSorted n i.inputs }

/-- Put a token in the input queues of an element; a BLOCKED element discards it (R70). -/
def State.enqueue (s : State) (k e : Nat) (t : Token) : State :=
  let el := s.elem k e
  if el.blocked || el.instr.isNone then s
  else s.onElem k e fun el => { el with queue := el.queue ++ [{ tok := t, entered := s.now }] }

/-- A launch fails because a token reached a block input that no BIN binds (R449). -/
def State.unboundInput (s : State) (k f : Nat) : State := s.failCore k { status := stBadCfg, detail0 := k * 2 ^ 24 + f }

/-- Place a token at a destination whose frame accepts tokens. -/
def State.place (s : State) (k : Nat) (d : Dest) (t : Token) : State :=
  match d with
  | .node _ _ => s
  | .elem e sl => s.enqueue k e { t with elem := e, slot := sl }
  | .input f n =>
    match ((s.core k).frame f).inputSlot n with
    | none => s.unboundInput k f
    | some (e, sl) =>
      (s.onCore k (·.enterInst f n t.tag t.ma)).enqueue k e { t with elem := e, slot := sl, inst := some t.tag }

/-- Hold a token whose frame does not accept tokens yet: 64 in the buffer, the next in tier 3 where the SPILL pool has room (R69). -/
def State.hold (s : State) (k : Nat) (d : Dest) (t : Token) : State :=
  if ((s.core k).arrival.filter fun h => !h.spilled).length < 64 then
    s.onCore k fun c => { c with arrival := c.arrival ++ [{ dest := d, tok := t }] }
  else
    match s.spillTake k t.records with
    | some s => s.onCore k fun c =>
        { c.count cntSpilled with arrival := c.arrival ++ [{ dest := d, tok := t.recorded, spilled := true }] }
    | none => s.onCore k fun c => { c.count cntOvfl with lost := c.lost ++ [{ dest := d, tok := t }] }

/-- A token reaches a core (R59, R69). -/
def State.arrive (s : State) (k : Nat) (d : Dest) (t : Token) : State :=
  let s := s.firstToken k (ctxOf t.tag)
  match destFrame d with
  | none => s
  | some f => if (s.core k).accepts s.now f then s.place k d t else s.hold k d t

/-- Whether a killed context's messages vanish here (R434), or those of a core without a live launch (R343). -/
def State.vanishes (s : State) (k : Nat) (t : Tag) : Bool :=
  match s.coreLaunch k with
  | some (_, l) => l.st == .failing || l.ctxKilled (ctxOf t)
  | none => true

def Msg.tag : Msg → Tag
  | .narrow t _ => t.tag
  | .wide w => w.tag

/-- The message at a place of a core's network, if it may arrive: the first of its channel, once its cycle has come (R43). -/
def Core.deliverable (c : Core) (now i : Nat) : Option Transit :=
  match c.transit[i]? with
  | none => none
  | some t => if t.ready ≤ now && !(c.transit.take i).any fun x => x.chan == t.chan then some t else none

def Core.dropTransit (c : Core) (i : Nat) : Core := { c with transit := c.transit.eraseIdx i }

/-- Whether tokens that the core holds for a frame must enter their queues before a new one (R69). -/
def Core.heldFirst (c : Core) (now f : Nat) : Bool :=
  c.accepts now f && (c.arrival ++ c.lost).any fun h => destFrame h.dest == some f

/-- Deliver a message bound for an element or a block input; one bound for a node is taken by the node's own step. -/
def State.deliver (s : State) (k i : Nat) : State :=
  match (s.core k).deliverable s.now i with
  | none => s
  | some t =>
    match destFrame t.dest, t.msg with
    | some f, .narrow tok _ =>
      if s.vanishes k tok.tag then s.onCore k (·.dropTransit i)
      else if (s.core k).heldFirst s.now f then s
      else (s.onCore k (·.dropTransit i)).arrive k t.dest tok
    | _, _ => s

/-- The OVFL F token that an element emits for a token that was discarded (R69, R328). -/
def State.overflowToken (s : State) (k e slot : Nat) (t : Token) : State :=
  let el := s.elem k e
  match el.instr.bind elemParts with
  | none => s
  | some (_, a) =>
    if el.blocked then s
    else s.raise { k := k, e := e, args := a, frame := el.frame, slot := el.slot, inst := t.inst.getD t.tag, ready := s.now + 1 }
      fcOvfl (slot % 4) t.tag t.d

/-- R69 ARRIVAL_BUFFER_RELEASE: every held token whose frame accepts tokens enters its queue, in the order of arrival, and the elements
that lost one emit OVFL. -/
def execArrivalBufferRelease (s : State) : Out :=
  atCore s fun k =>
    let c := s.core k
    let go (h : Held) : Bool := match destFrame h.dest with | some f => c.accepts s.now f | none => false
    let s := s.onCore k fun c => { c with arrival := c.arrival.filter fun h => !go h, lost := c.lost.filter fun h => !go h }
    let s := (c.arrival.filter go).foldl (fun s h => (if h.spilled then s.spillGive k h.tok.records else s).place k h.dest h.tok) s
    (c.lost.filter go).foldl (fun s h =>
      match (s.core k).destElem h.dest with
      | some (e, sl) => s.overflowToken k e sl h.tok
      | none => s) s

end Sys2Proof.Machine
end

