-- ==== Sys2Proof/Machine/Copy.lean ====
section
/-! DEFINITION. Copies with `send` (R278 to R280, R283) and gather writes at the memory nodes (R276). -/

namespace Sys2Proof.Machine

open Sys2Proof

/-! ## The control word (R278) -/

structure SendCtl where
  tile : Nat
  dk : Nat
  core : Nat
  row0 : Nat
  rows : Nat
  dest : Nat
  deriving DecidableEq, Repr

/-- The fields of a `send` fired on core `k`. -/
def sendCtl (k a b : Nat) : SendCtl :=
  { tile := bits a 31 24, dk := bits a 23 22, core := k / 4 * 4 + bits a 21 20, row0 := bits a 18 8, rows := bits a 7 0 + 1, dest := b }

def SendCtl.bytes (c : SendCtl) : Nat := c.rows * 256

/-- Whether the control word is well formed (R257 step 1, R278). -/
def sendOk (a b : Nat) : Bool :=
  !bit a 19 && bits a 23 22 != 3 && !(bits a 23 22 == 0 && bits b 12 0 != 0) && !(bits a 23 22 == 1 && bits b 27 0 != 0) &&
  !(bits a 23 22 == 2 && bits b 31 28 == 15)

/-- R278 `send`: checked when it fires, held to commit. -/
def execSend (a : ElemArgs) (s : State) : Out :=
  fireControl (.send a) s true fun s sh o =>
    let c := sendCtl sh.k (o.val 0) (o.val 1)
    if !sendOk (o.val 0) (o.val 1) then (.error badControl, s)
    else if c.dk != 2 then (.ok (0, 0), s)
    else if c.dest % 256 != 0 then (.error { code := fcMisalign, detail := 0 }, s)
    else match s.checkSpot sh.k c.dest c.bytes false true (o.dAll || ((s.core sh.k).tile c.tile).dmark) with
      | (.error b, s) => (.error b, s)
      | (.ok p, s) => (.ok (p.va, 0), s)

/-! ## The copy engine (R279) -/

/-- What the start of a copy finds: a fault, a wait, or nothing in its way. -/
inductive StartGate where
  | bad (b : Bad)
  | wait
  | go
  deriving DecidableEq, Repr

/-- The checks of the source tile, and of a destination tile (R279). -/
def State.tileStart (s : State) (k : Nat) (c : SendCtl) : StartGate :=
  let prot (d : Nat) : StartGate := .bad { code := fcProt, detail := d }
  let t := (s.core k).tile c.tile
  if t.st == .filling || t.st == .draining then .wait
  else if t.st == .empty then prot 0x31
  else if t.nrow + 1 < c.row0 + c.rows then prot 0x30
  else if c.dk != 0 then .go
  else
    let u := (s.core c.core).tile (bits c.dest 31 24)
    let r := bits c.dest 23 13
    let w0 := u.firstByte / 4 + 64 * r
    if u.st == .draining then .wait
    else if u.st == .empty then prot 0x31
    else if u.nrow + 1 < r + c.rows then prot 0x30
    else if u.isI && (span w0 (64 * c.rows)).any (s.core c.core).scrFull then .bad { code := fcIstw, detail := 0 }
    else .go

/-- Slots of a ring object that engines have claimed and WPTR has not yet passed; a slot whose copy stopped at a fault is one of them
(R283). -/
def State.claims (s : State) (key : Nat × Nat) : Nat :=
  (s.cores.map fun (c : Nat × Core) => (c.2.accesses.filter fun y => y.opc == 0x14D && y.ringAt == some key).length).sum

/-- The OR of the D bits that a copy carries by its operands and its source tile's mark (R259). -/
def State.copyD (s : State) (k : Nat) (x : Access) (c : SendCtl) : Bool := x.opnds.dAll || ((s.core k).tile c.tile).dmark

/-- The window offset of the first destination word of a copy into a tile. -/
def State.destOff (s : State) (c : SendCtl) : Nat :=
  ((s.core c.core).tile (bits c.dest 31 24)).firstByte + 256 * bits c.dest 23 13

/-- The engine of a copy starts to read: its source tile drains. A copy into a tile keeps its destination words from then on, whatever
becomes of the tile (R232, R279). -/
def State.drainSource (s : State) (k : Nat) (x : Access) (c : SendCtl) : State :=
  let va := if c.dk == 0 then windowBase + s.destOff c else x.va
  s.onCore k fun co => (co.onTile c.tile fun t => { t with st := .draining }).onAccess x.id fun y => { y with stage := .copying, va := va }

/-- Whether the slot that a copy has claimed is free: `k - RPTR ≤ NSLOT` (R250, R283). -/
def RingView.hasRoom (r : RingView) (slot : Nat) : Bool := (slot + 2 ^ 32 - r.rptr) % 2 ^ 32 ≤ r.nslot

/-- The result of a copy that stops at a fault; the slot that it had claimed stays claimed (R279, R283). -/
def State.failCopy (s : State) (k : Nat) (x : Access) (b : Bad) : State :=
  let s := s.fail k x b
  if x.ringAt.isNone then s else s.onCore k fun co => { co with accesses := co.accesses ++ [{ x with stage := .lost }] }

/-- A copy to a ring claims the next slot of its object's claim count and waits until the slot is free; only then its source drains
(R279, R283). The object that it has claimed a slot of stays its object, whatever the entry names later. A claim that arrives during the
object's initialisation waits behind it (R282). The slot is checked under R258 and R259 before it is claimed. -/
def State.claimSlot (s : State) (k : Nat) (x : Access) (c : SendCtl) : State :=
  match if x.ringAt.isSome then s.ringViewAt c.core x.ringEl else s.ringView c.core (bits c.dest 31 28) with
  | (.error b, s) => s.failCopy k x b
  | (.ok r, s) =>
    let key := r.spot.ringKey c.core
    if x.ringAt.isSome then (if r.hasRoom x.slotNo then s.drainSource k x c else s)
    else if r.sz + 1 < c.rows then s.fail k x { code := fcProt, detail := 0x6A }
    else if s.ringIniting key then s
    else
      let n := (r.wptr + s.claims key) % 2 ^ 32
      match s.checkSpot c.core (r.slotAddr n) r.slotBytes false true (s.copyD k x c) with
      | (.error b, s) => s.fail k x b
      | (.ok _, s) =>
        let s := s.onCore k (·.onAccess x.id fun y => { y with slotNo := n, ringAt := some key, ringEl := r.addr })
        if r.hasRoom n then s.drainSource k x c else s

/-- A copy starts: its tiles are checked, a ring slot is claimed in arrival order, and its source tile drains (R279, R283). -/
def State.startCopy (s : State) (k : Nat) (x : Access) : State :=
  let c := sendCtl k (x.opnds.val 0) (x.opnds.val 1)
  match s.tileStart k c with
  | .wait => s
  | .bad b => s.failCopy k x b
  | .go =>
    if c.dk == 0 then s.drainSource k x c
    else if c.dk == 1 then s.claimSlot k x c
    else
      match s.checkSpot k c.dest c.bytes false true (s.copyD k x c) with
      | (.error b, s) => s.failReleased k 63 x b
      | (.ok _, s) => s.drainSource k x c

/-- The first 256 bytes of a destination row: the core and element address, or a tile's bytes. -/
def State.rowSpot (s : State) (k : Nat) (x : Access) (c : SendCtl) (row : Nat) (r : Option RingView) : Nat × (Except Bad Spot × State) :=
  match c.dk, r with
  | 0, _ =>
    let off := x.va - windowBase + 256 * row
    (c.core, (.ok { loc := true, va := windowBase + off, off := off }, s))
  | 1, some r => (c.core, s.checkSpot c.core (r.slotAddr x.slotNo + 256 * row) 256 false true (s.copyD k x c))
  | _, _ => (k, s.checkSpot k (c.dest + 256 * row) 256 false true (s.copyD k x c))

/-- Write 64 words, each with its D bit, by an engine (R245, R272). -/
def State.engineSpot (s : State) (k : Nat) (p : Spot) (bs : List Byte) (ds : Nat → Bool) : Except Bad Unit × State :=
  if p.loc then
    (.ok (), s.onCore k fun c => (List.range (bs.length / 4)).foldl
      (fun c i => c.engineWrite (p.off + 4 * i) ((bs.drop (4 * i)).take 4) (ds i)) c)
  else s.writeSpot k p bs false

/-- Advance WPTR past every slot of the ring object at an element address that is complete in order (R283). -/
def State.passSlots (s : State) (k a : Nat) (key : Nat × Nat) : Nat → State
  | 0 => s
  | fuel + 1 =>
    match s.ringViewAt k a with
    | (.error _, s) => s
    | (.ok r, s) =>
      let isNext (y : Access) : Bool := y.stage == .done && y.ringAt == some key && y.slotNo == r.wptr
      if s.cores.any fun c => c.2.accesses.any isNext then
        let drop (c : Core) : Core := { c with accesses := c.accesses.filter fun y => !isNext y }
        let s := { s with cores := s.cores.map fun (c : Nat × Core) => (c.1, drop c.2) }
        (s.writeRing k r 4 ((r.wptr + 1) % 2 ^ 32)).passSlots k a key fuel
      else s

/-- The source tile of a copy is READY again after its last row (R279). -/
def State.endDrain (s : State) (k tile : Nat) : State :=
  s.onCore k fun c => if (c.tile tile).st == .draining then c.onTile tile fun t => { t with st := .ready } else c

/-- A copy ends: its result is emitted, and a ring slot is completed (R279, R283). -/
def State.endCopy (s : State) (k : Nat) (x : Access) (c : SendCtl) : State :=
  let s := (s.endDrain k c.tile).finish k x (x.opnds.val 0) x.opnds.dAll
  match x.ringAt with
  | none => s.settle
  | some key =>
    let s := s.onCore k fun co => { co with accesses := co.accesses ++ [{ x with stage := .done }] }
    (s.passSlots c.core x.ringEl key (s.claims key + 1)).settle

/-- The words of a ring slot beyond the copy become zero and full with D = 0 (R279). -/
def State.zeroRest (s : State) (x : Access) (c : SendCtl) : Option RingView → Except Bad Unit × State
  | none => (.ok (), s)
  | some r =>
    let rest := r.slotBytes - c.bytes
    if rest == 0 then (.ok (), s)
    else match s.checkSpot c.core (r.slotAddr x.slotNo + c.bytes) rest false true false with
      | (.error b, s) => (.error b, s)
      | (.ok q, s) => s.engineSpot c.core q (List.replicate rest 0#8) fun _ => false

/-- One row of a running copy (R279): the destination words take the source words with D OR D(a, b) and are full at once, so that readers
that wait for them are answered (R245, R246, R266); the rest of a ring slot is zeroed with the last row. -/
def State.copyRow (s : State) (k : Nat) (x : Access) : State :=
  let c := sendCtl k (x.opnds.val 0) (x.opnds.val 1)
  let stop (s : State) (b : Bad) : State := (s.endDrain k c.tile).failCopy k x b
  let go (s : State) (r : Option RingView) : State :=
    let src := (s.core k).tile c.tile
    let off := src.firstByte + 256 * (c.row0 + x.row)
    if (s.core k).scrPoisoned off 256 then stop s { code := fcEccu, detail := 0 }
    else
      let bs := (s.core k).scrRead off 256
      let co := s.core k
      let (dk, r', s) := s.rowSpot k x c x.row r
      match r' with
      | .error b => stop s b
      | .ok p =>
        match s.engineSpot dk p bs fun i => co.scrD (off / 4 + i) || x.opnds.dAll with
        | (.error b, s) => stop s b
        | (.ok _, s) =>
          let s := (s.onCore k (·.onAccess x.id fun y => { y with row := x.row + 1 })).settle
          if x.row + 1 < c.rows then s
          else match s.zeroRest x c r with
            | (.error b, s) => stop s b
            | (.ok _, s) => s.endCopy k { x with row := x.row + 1 } c
  if c.dk == 1 then
    match s.ringViewAt c.core x.ringEl with
    | (.error b, s) => stop s b
    | (.ok r, s) => go s (some r)
  else go s none

/-- Whether a copy of an instance of the same context that committed earlier has not begun. Copies of one instance share its place in the
order of commits; a late one keeps no copy of a later instance back (R280, R450). -/
def Core.copyBehind (c : Core) (x : Access) : Bool :=
  c.accesses.any fun y => y.opc == 0x14D && y.stage == .ready && ctxOf y.inst == ctxOf x.inst && y.rel.isSome && y.joined < x.joined

/-- R279 SEND_COPY: a released copy starts, and a running one copies its next row. No copy of a suspended context starts (R433). -/
def execSendCopy (s : State) : Out :=
  atAccess s fun k id =>
    match (s.core k).access? id with
    | none => s
    | some x =>
      if x.opc != 0x14D || (s.coreLaunch k).any (fun l => l.2.st == .stopped) then s
      else match x.stage with
        | .ready =>
          if (s.core k).copyBehind x || (s.coreLaunch k).any (fun l => l.2.ctxSuspended (ctxOf x.inst)) then s else s.startCopy k x
        | .copying => s.copyRow k x
        | _ => s

/-! ## Gather writes (R276) -/

/-- A fault that becomes precise at a node (R62, R430): the coordinates are those of the first element attached to it. -/
def State.preciseNode (s : State) (k n : Nat) (word : Word) (otag itag : Tag) (frame : Nat) (d : Bool)
    (inst : Option (Nat × Tag) := none) : State :=
  s.onCore k fun c => c.addPrecise
    { word := word, otag := otag, itag := itag, d := d, ctx := ctxOf itag,
      place := { node := n, x := colOf (firstAttached n), y := rowOf (firstAttached n), frame := frame } } inst

/-- The fault word of a fault that a node raises. -/
def nodeWord (k n code detail : Nat) : Word := faultWord code k (colOf (firstAttached n)) (rowOf (firstAttached n)) detail

/-- The message on its way to a node that may arrive next. -/
def Core.nextFor (c : Core) (now n : Nat) : Option (Nat × Transit) :=
  (List.range c.transit.length).findSome? fun i =>
    match c.transit[i]? with
    | some t =>
      match t.dest with
      | .node m _ => if m == n && t.ready ≤ now && !(c.transit.take i).any fun x => x.chan == t.chan then some (i, t) else none
      | _ => none
    | none => none

/-- The block instance that a message comes from, or the tag given. -/
def Msg.instOr (m : Msg) (t : Tag) : Tag := match m with | .narrow x _ => x.inst.getD t | .wide _ => t

/-- The block instance that a message from a frame belongs to. -/
def Msg.ofInst (m : Msg) (frame : Nat) : Option (Nat × Tag) :=
  match m with | .narrow x _ => x.inst.map fun t => (frame, t) | .wide _ => none

/-- Perform a gather write, or its fault; none while the tile drains (R276). -/
def State.gather (s : State) (k : Nat) (g : Gather) : Option State :=
  let (lanes, task, tag, d, fault) : List Word × Nat × Tag × Bool × Option (Word × Tag) := match g.msg with
    | .narrow t ty => ([t.val], ty, t.tag, t.d, t.origin.map fun o => (t.val, o))
    | .wide w => (w.all, w.task, w.tag, w.d, if w.f then some (w.lane 0, w.origin) else none)
  let no := (task + 64 * g.port) % 256
  let t := (s.core k).tile no
  let pos := bits tag.toNat 15 0
  let off := t.firstByte + 4 * lanes.length * pos
  let bad (code detail : Nat) : Option State :=
    some (s.preciseNode k g.node (nodeWord k g.node code detail) tag (g.msg.instOr tag) g.frame d (g.msg.ofInst g.frame))
  match fault with
  | some (word, o) => some (s.preciseNode k g.node word o (g.msg.instOr o) g.frame d (g.msg.ofInst g.frame))
  | none =>
    if t.st == .empty then bad fcProt 0x31
    else if t.bytes ≤ 4 * lanes.length * pos then bad fcProt 0x30
    else if t.isI && (span (off / 4) lanes.length).any (s.core k).scrFull then bad fcIstw 0
    else if t.st == .draining then none
    else some (s.onCore k (·.engineWrite off (bytesOfWords lanes) d)).settle

/-- The first waiting gather write of a node that can be performed, each port in its own order. -/
def State.nextGather (s : State) (k n : Nat) : Option (Gather × State) :=
  [0, 1, 2, 3].findSome? fun p =>
    match (s.core k).gathers.find? fun g => g.node == n && g.port == p with
    | none => none
    | some g => (s.gather k g).map fun s => (g, s)

/-- R276 GATHER_WRITE: a token at a memory-node port is written in arrival order, or waits while its tile drains. -/
def execGatherWrite (s : State) : Out :=
  atNode s fun k n =>
    if 16 ≤ n then s else
    match s.nextGather k n with
    | some (g, s) => s.onCore k fun c => { c with gathers := c.gathers.erase g }
    | none =>
      match (s.core k).nextFor s.now n with
      | none => s
      | some (i, t) =>
        let s' := s.onCore k (·.dropTransit i)
        if s.vanishes k t.msg.tag then s'
        else match t.dest with
          | .node _ port =>
            let g : Gather := { node := n, port := port, msg := t.msg, frame := t.src.getD 0 }
            let s' := s'.firstToken k (ctxOf t.msg.tag)
            let behind := (s'.core k).gathers.any fun h => h.node == n && h.port == port
            match if behind then none else s'.gather k g with
            | some s => s
            | none => s'.onCore k fun c => { c with gathers := c.gathers ++ [g] }
          | _ => s

end Sys2Proof.Machine
end

