-- ==== Sys2Proof/Machine/Node.lean ====
section
/-! DEFINITION. Nodes that run handlers: bindings and emission (R315), packets at their ports and the tasks that they form (R63 to R65,
R190, R192), dispatch, and the common frame of a handler command (R191, R192, R198). -/

namespace Sys2Proof.Machine

open Sys2Proof

/-- The kind of a node with a handler table, by node-port index (R18, R63). -/
def nodeKindOf (n : Nat) : Option NodeKind :=
  if n < 16 then none else if n < 24 then some .vector else if n < 28 then some .matrix else if n < 32 then some .acc
  else if n < 34 then some .conv else none

def atNodeKind (s : State) (kind : NodeKind) (f : Nat → Nat → State) : Out :=
  match s.agent with
  | .node k n => if k < 64 ∧ nodeKindOf n = some kind then .next (f k n) else .fault .noSuchResource
  | _ => .fault .wrongAgent

/-! ## Bindings and emission (R315) -/

/-- An entry of a core's node binding table; an entry that is not listed has V = 0. -/
def Launch.binding (l : Launch) (k entry : Nat) : Nat := Tab.get 0 (Tab.get [] l.bindings k) entry

/-- Core, node and port that a KIND 0 entry of core `k` names. -/
def bindNode (k b : Nat) : Nat × Nat × Nat := (k / 4 * 4 + bits b 28 27, bits b 26 20, bits b 16 15)

def Launch.outbound (l : Launch) (k n port : Nat) : Bool :=
  let b := l.binding k (4 * n + port)
  bit b 31 && bits b 30 29 < 2

/-- Whether some KIND 0 entry of the launch names a place that `is` tells, by core, node and port. -/
def Launch.named (l : Launch) (is : Nat × Nat × Nat → Bool) : Bool :=
  l.bindings.any fun t => t.2.any fun x => bit x.2 31 && bits x.2 30 29 == 0 && is (bindNode t.1 x.2)

/-- Whether a port's own entry is of KIND 2 (R315). -/
def Launch.inboundOnly (l : Launch) (k n port : Nat) : Bool :=
  let b := l.binding k (4 * n + port)
  bit b 31 && bits b 30 29 == 2

/-- Whether a port of a core has an inbound binding (R315): its own entry, or a KIND 0 entry that names it. -/
def Launch.inboundHere (l : Launch) (k n port : Nat) : Bool := l.inboundOnly k n port || l.named (· == (k, n, port))

/-- Whether HBIND takes a port of a vector node as bound (R199, R315). A KIND 0 entry that names the port on any core of the launch does:
the program of R316 binds its handler on cores where no entry names the port otherwise (assumption log 126). -/
def Launch.inbound (l : Launch) (k n port : Nat) : Bool := l.inboundOnly k n port || l.named fun x => x.2 == (n, port)

/-- A message joins those in transit behind the ones of its channel that leave no later: what a binding emits arrives in the order of
emission, each token leaving at the completion of its command (R192, R315). -/
def insertTransit (t : Transit) : List Transit → List Transit
  | [] => [t]
  | x :: xs => if x.chan == t.chan && t.ready < x.ready then t :: x :: xs else x :: insertTransit t xs

/-- Send a message on a binding. -/
def State.leave (s : State) (k : Nat) (t : Transit) : State := s.onCore k fun c => { c with transit := insertTransit t c.transit }

/-- Emit a wide token on a binding; none where its entry is neither KIND 0 nor KIND 1. -/
def State.emitBinding (s : State) (k entry ready : Nat) (w : Wide) : Option State :=
  match s.coreLaunch k with
  | none => none
  | some (_, l) =>
    let b := l.binding k entry
    let task := bits b 14 9
    let chan := [1, k, entry]
    if !bit b 31 then none
    else if bits b 30 29 == 0 then
      let (k', n, port) := bindNode k b
      some (s.leave k' { chan := chan, dest := .node n port, ready := ready, msg := .wide { w with task := task } })
    else if bits b 30 29 == 1 then
      let tok (i : Nat) : Token :=
        { tag := w.tag, val := w.lane (if w.f then 0 else i), d := w.d, origin := if w.f then some w.origin else none }
      some ((List.range (bits b 8 7 + 1)).foldl (fun s i =>
        s.leave k { chan := chan, dest := .input (bits b 19 17) (bits b 24 20 + i), ready := ready,
                     msg := .narrow (tok i) task }) s)
    else none

/-- Emit on a port of a vector or converter node; nothing leaves on a port without an outbound binding. -/
def State.emitPort (s : State) (k n port ready : Nat) (w : Wide) : State := (s.emitBinding k (4 * n + port) ready w).getD s

/-- Emit on every port that a handler names as a destination (R192). -/
def State.emitDests (s : State) (k n : Nat) (dests : List Nat) (ready : Nat) (w : Wide) : State :=
  dests.foldl (fun s p => s.emitPort k n p ready w) s

/-! ## Tasks (R63, R64, R190) -/

def Node.port (nd : Node) (p : Nat) : List Wide := nd.ports.getD p []
def Node.setPort (nd : Node) (p : Nat) (ws : List Wide) : Node := { nd with ports := nd.ports.set p ws }

/-- Put a task in the pending queue; past its 16 entries it draws a record of the SPILL pool, and where none is free it becomes a
precise OVFL fault (R64, R328). -/
def State.pend (s : State) (k n : Nat) (t : Task) : State :=
  let add (s : State) : State := s.onNode k n fun nd => { nd with pending := nd.pending ++ [t] }
  if (s.node k n).pending.length < 16 then add s
  else match s.spillTake k 1 with
    | some s => add (s.countCore k cntSpilled)
    | none => s.preciseNode k n (nodeWord k n fcOvfl 0) t.tag t.tag 0 (t.packets.any fun p => p.2.d)

/-- Take a task out of the pending queue, returning a record that the queue's overflow drew. -/
def State.unpend (s : State) (k n i : Nat) : State :=
  let s' := if 16 < (s.node k n).pending.length then s.spillGive k 1 else s
  s'.onNode k n fun nd => { nd with pending := nd.pending.eraseIdx i }

/-- The task that the packets of a type and tag form under the handler bound to the type, with the node that is left (R190). -/
def Node.form (nd : Node) (ty : Nat) (tag : Tag) : Option (Task × Node) :=
  match Tab.find? nd.handlers ty with
  | none => none
  | some h =>
    let is (w : Wide) : Bool := w.task == ty && w.tag == tag
    let first (p : Nat) : Option (Nat × Wide) := ((nd.port p).find? is).map fun w => (p, w)
    let ps := if h.reads.isEmpty then (([0, 1, 2, 3].filterMap first).take 1) else h.reads.filterMap first
    if ps.isEmpty || ps.length < h.reads.length then none
    else some ({ ty := ty, tag := tag, packets := ps },
               ps.foldl (fun nd p => nd.setPort p.1 ((nd.port p.1).erase p.2)) nd)

/-- Form the task of a type and tag, if its packets are there. -/
def State.formTask (s : State) (k n ty : Nat) (tag : Tag) : State :=
  match (s.node k n).form ty tag with
  | none => s
  | some (t, nd) => (s.onNode k n fun _ => nd).pend k n t

/-- The pending queue of a node whose type has been bound: a packet of the type that waited unbound stands at its port again, and where it
completes a read set the task takes its place in the queue (R64, R190, R200). -/
def Node.rejoin (nd : Node) (ty : Nat) : List Task → Node × List Task
  | [] => (nd, [])
  | t :: ts =>
    if t.ty == ty && !t.formed then
      let nd := t.packets.foldl (fun nd p => nd.setPort p.1 (nd.port p.1 ++ [p.2])) nd
      match nd.form ty t.tag with
      | some (x, nd) => let r := nd.rejoin ty ts; (r.1, x :: r.2)
      | none => nd.rejoin ty ts
    else let r := nd.rejoin ty ts; (r.1, t :: r.2)

/-- A handler is bound to a type: the packets of the type that waited unbound form their tasks in the order of the pending queue, and
stranded packets at the ports whose read set is complete form theirs behind them, those of port a first, then b, c and d (R64, R190; the
order is the model's choice, assumption log 138). -/
def State.reform (s : State) (k n ty : Nat) : State :=
  let nd := s.node k n
  let (nd', ts) := nd.rejoin ty nd.pending
  let s := s.spillGive k ((nd.pending.length - 16) - (ts.length - 16))
  let s := s.onNode k n fun _ => { nd' with pending := ts }
  ((s.node k n).ports.flatten.filter fun w => w.task == ty).foldl (fun s w => s.formTask k n ty w.tag) s

/-! ## Packets that arrive (R65, R190, R202) -/

/-- Whether a running `mm.run` still takes vectors (R210). -/
def Node.wants (nd : Node) : Bool :=
  match nd.running with | some r => r.stream.isSome | none => false

/-- The packet that a message is at a node's port (R65). -/
def Msg.packet : Msg → Wide
  | .narrow t task => widen t task
  | .wide w => w

/-- Packets of a port that some tasks hold. -/
def portPackets (p : Nat) (ts : List Task) : Nat := (ts.map fun t => (t.packets.filter fun x => x.1 == p).length).sum

/-- Packets in a port's buffer: those that have formed no task, and those of a task until its handler ends (R190). A packet whose type has
no valid entry stands in the pending queue, and holds no place of the buffer (R64; assumption log 143). -/
def Node.buffered (nd : Node) (p : Nat) : Nat :=
  (nd.port p).length + portPackets p (nd.pending.filter fun t => (Tab.find? nd.handlers t.ty).isSome) +
  portPackets p (match nd.running with | some r => [r.task] | none => [])

/-- Whether a node can take a message now: a full port buffer leaves it on the wide network (R190). -/
def State.canTake (s : State) (k n : Nat) (t : Transit) : Bool :=
  match t.dest with
  | .node _ port =>
    let nd := s.node k n
    let w := t.msg.packet
    s.vanishes k w.tag || (w.f && (nodeKindOf n == some .matrix || nodeKindOf n == some .acc)) ||
    (Tab.find? nd.handlers w.task).isNone || nd.buffered port < 8 || (port == 0 && nd.wants)
  | _ => false

/-- The first message for a node that may arrive and that it can take. -/
def State.nextTaken (s : State) (k n : Nat) : Option (Nat × Transit) :=
  (List.range (s.core k).transit.length).findSome? fun i =>
    match (s.core k).deliverable s.now i with
    | some t =>
      match t.dest with
      | .node m _ => if m == n && s.canTake k n t then some (i, t) else none
      | _ => none
    | none => none

/-- A packet enters a port: it waits unbound, or in the port buffer, where it may complete a task (R64, R190). -/
def State.enterPort (s : State) (k n port : Nat) (w : Wide) : State :=
  if (Tab.find? (s.node k n).handlers w.task).isNone then
    s.pend k n { ty := w.task, tag := w.tag, packets := [(port, w)], formed := false }
  else (s.onNode k n fun nd => nd.setPort port (nd.port port ++ [w])).formTask k n w.task w.tag

/-! ## Dispatch (R63, R64, R192) -/

/-- The packet that R192 emits in place of a handler: the F packet of the lowest port. -/
def Task.fault (t : Task) : Option Wide :=
  [0, 1, 2, 3].findSome? fun p => (t.packets.find? fun x => x.1 == p && x.2.f).map (·.2)

/-- The destination ports of a handler: those that its commands name, or port a of a converter (R192, R220). -/
def handlerDests (kind : Option NodeKind) (cmds : List Instr) : List Nat :=
  match kind with
  | some .conv => [0]
  | some .vector =>
    [0, 1, 2, 3].filter fun p => cmds.any fun c => match vecParts c with | some (_, v) => v.d.toNat == 16 + p | none => false
  | _ => []

/-- R63 HANDLER_DISPATCH: the first pending task whose entry is valid and whose context runs starts its handler. Unbound tasks do not
hold up the queue (R338). -/
def execHandlerDispatch (s : State) : Out :=
  atNode s fun k n =>
    let nd := s.node k n
    if nd.running.isSome || !s.coreLive k then s
    else
      let ready (t : Task) : Bool := (Tab.find? nd.handlers t.ty).isSome && s.ctxRuns k (ctxOf t.tag)
      match nd.pending.findIdx? ready with
      | none => s
      | some i =>
        match nd.pending[i]? with
        | none => s
        | some t =>
          match Tab.find? nd.handlers t.ty with
          | none => s
          | some h =>
            let s := s.unpend k n i
            let dests := handlerDests (nodeKindOf n) h.cmds
            match t.fault with
            | some w => s.emitDests k n dests (s.now + 1) { w with tag := t.tag }
            | none => s.onNode k n fun nd =>
                { nd with running := some { cmds := h.cmds, task := t, reads := h.reads, dests := dests, next := s.now } }

/-! ## The common frame of a command -/

/-- The running handler of a node, if its next command may issue. -/
def State.issuing (s : State) (k n : Nat) : Option Running :=
  match (s.node k n).running with
  | some r => if !r.cmds.isEmpty && r.next ≤ s.now && s.coreLive k then some r else none
  | none => none

/-- A handler whose commands have completed ends, and its packets are consumed with it (R190, R219). -/
def Node.settle (nd : Node) : Node :=
  match nd.running with
  | some r => if r.cmds.isEmpty && r.stream.isNone then { nd with running := none } else nd
  | none => nd

/-- The next command of a handler has issued; in Memory-max a vector node issues in one of two cycles (R27, R191). -/
def State.advance (s : State) (k n : Nat) : State :=
  let gap := if s.board.mode == 3 && nodeKindOf n == some .vector then 2 else 1
  s.onNode k n fun nd => Node.settle { nd with running := nd.running.map fun r => { r with cmds := r.cmds.tail, next := s.now + gap } }

/-- A handler ends at a command that faults: its later commands do not run, and an earlier `mm.run` goes on (R192, R202, R219). -/
def State.endHandler (s : State) (k n : Nat) : State :=
  s.onNode k n fun nd => Node.settle { nd with running := nd.running.map fun r => { r with cmds := [] } }

/-- A handler ends with its running `mm.run`. -/
def State.dropHandler (s : State) (k n : Nat) : State := s.onNode k n fun nd => { nd with running := none }

/-- The OR of the D bits of a task's packets. -/
def Task.dAll (t : Task) : Bool := t.packets.any fun p => p.2.d

/-- What a tile command finds (R198). -/
inductive TileAccess where
  | bad (code detail : Nat)
  | wait
  | go
  deriving DecidableEq, Repr

/-- The tile condition of R198 for `rows` rows from `row`, and the check of the stored words (R444). -/
def Core.tileAccess (c : Core) (tile row rows : Nat) (rd : Bool) : TileAccess :=
  let t := c.tile tile
  if t.st == .empty then .bad fcProt 0x31
  else if t.st == .filling || t.st == .draining then .wait
  else if t.nrow + 1 < row + rows then .bad fcProt 0x30
  else if rd && c.scrPoisoned (t.firstByte + 256 * row) (256 * rows) then .bad fcEccu 0
  else .go

end Sys2Proof.Machine
end

