-- ==== Sys2Proof/Machine/Approx.lean ====
section
/-! DEFINITION. The approximated functions APX of R173, R194 and R225, bit for bit: exact quotients and square roots, and for the
transcendental functions rational bounds on the exact value that are narrow enough to settle its truncation. A value that the bounds
leave open is a free value (assumption log 9). -/

namespace Sys2Proof.Machine

open Sys2Proof

/-- Fraction bits of the fixed-point bounds. -/
def apxBits : Nat := 192

/-- The grid of APX in a format: FP32 keeps 20 of its 23 fraction bits, a 16-bit format all of them (R173). -/
def apxDrop (k : FFmt) : Nat := if k.fb == 23 then 3 else 0

/-- Truncate the magnitude `m × 2 ^ e` to the grid of APX, with an infinity above the largest finite value (R173 cases 12, 13).
`exact` tells that nothing lies below `m`. -/
def apxTrunc (k : FFmt) (s : Bool) (m : Nat) (e : Int) (exact : Bool) : Nat :=
  let full := fround k .rtz false m e (!exact)
  let low := 2 ^ (apxDrop k)
  -- truncation reaches the largest finite value from that value itself and from every larger one
  let isMax := full == maxFinite k
  let onMax := match fdecode k full with
    | .fin _ a x => exact && (if x ≤ e then m * 2 ^ (e - x).toNat == a else m == a * 2 ^ (x - e).toNat)
    | _ => false
  if isMax && !onMax then infPattern k s
  else signBit k s + full / low * low

/-- The truncation that both ends of an interval agree on. -/
def apxInterval (k : FFmt) (s : Bool) (lo hi : Nat) (e : Int) : Option Nat :=
  let a := apxTrunc k s lo e false
  if a == apxTrunc k s hi e false then some a else none

/-- Reciprocal of a positive magnitude `m × 2 ^ e` (R173). -/
def apxRecip (k : FFmt) (s : Bool) (m : Nat) (e : Int) : Nat :=
  let sh := Nat.log2 m + 40
  apxTrunc k s (2 ^ sh / m) (-e - sh) (2 ^ sh % m == 0)

/-- Reciprocal square root of a positive magnitude `m × 2 ^ e` (R173). -/
def apxRsqrt (k : FFmt) (m : Nat) (e : Int) : Nat :=
  let m' := if e % 2 == 0 then m else 2 * m
  let e' := if e % 2 == 0 then e else e - 1
  let h := Nat.log2 m' + 40
  let q := isqrt (2 ^ (2 * h) / m')
  apxTrunc k false q (-(e' / 2) - h) (q * q * m' == 2 ^ (2 * h))

/-- A lower bound of e^(z / 2^P) × 2^P for 0 ≤ z ≤ 2^P by Taylor's series; the true value is less than 512 above it. -/
def expLow (z : Nat) : Nat := go 64 1 (2 ^ apxBits) 0
where
  /-- Add `fuel` terms, the next being number `k`. -/
  go : Nat → Nat → Nat → Nat → Nat
    | 0, _, _, acc => acc
    | fuel + 1, k, t, acc => go fuel (k + 1) (t * z / 2 ^ apxBits / k) (acc + t)

/-- Width of the interval that `expLow` opens. -/
def expSlack : Nat := 512

/-- A lower bound of atanh(p / q) × 2^P for 0 ≤ p / q ≤ 1/2; the true value is less than 1024 above it. -/
def atanhLow (p q : Nat) : Nat :=
  let z := p * 2 ^ apxBits / q
  go 110 0 z (z * z / 2 ^ apxBits) 0
where
  /-- Add `fuel` odd powers, the next being z^(2k+1). -/
  go : Nat → Nat → Nat → Nat → Nat → Nat
    | 0, _, _, _, acc => acc
    | fuel + 1, k, t, z2, acc => go fuel (k + 1) (t * z2 / 2 ^ apxBits) z2 (acc + t / (2 * k + 1))

/-- Width of the interval that `atanhLow` opens. -/
def atanhSlack : Nat := 1024

/-- Bounds of ln(m / 2^l) × 2^P for 2^l ≤ m < 2^(l+1). -/
def lnMantissa (m l : Nat) : Nat × Nat :=
  let a := 2 * atanhLow (m - 2 ^ l) (m + 2 ^ l)
  (a, a + 2 * atanhSlack)

/-- Bounds of ln 2 × 2^P. -/
def ln2Bounds : Nat × Nat :=
  let a := 2 * atanhLow 1 3
  (a, a + 2 * atanhSlack)

/-- Bounds of e^x × 2^P × 2^(-k) with k for a real x = ± z / 2^P; the exact value lies strictly between. -/
def expBounds (neg : Bool) (z : Nat) : Nat × Nat × Int :=
  let (ll, lu) := ln2Bounds
  if neg then
    let n := (z + ll - 1) / ll
    (expLow (n * ll - z), expLow (n * lu - z) + expSlack, -(n : Int))
  else
    let n := z / lu
    (expLow (z - n * lu), expLow (z - n * ll) + expSlack, (n : Int))

/-- A magnitude `m × 2 ^ e` in fixed point, exact for e ≥ −192. -/
def toFixed (m : Nat) (e : Int) : Nat :=
  let x : Int := e + apxBits
  if 0 ≤ x then m * 2 ^ x.toNat else m / 2 ^ (-x).toNat

/-- e^x of a non-zero finite x, by bounds (R194). Arguments of magnitude 256 and above leave every format's range. -/
def apxExp (k : FFmt) (free : Nat) (s : Bool) (m : Nat) (e : Int) : Nat :=
  if 8 ≤ (Nat.log2 m : Int) + e then (if s then 0 else infPattern k false)
  else
    let (lo, hi, x) := expBounds s (toFixed m e)
    match apxInterval k false lo hi (x - apxBits) with
    | some r => r
    | none => free

/-- 2^x of a finite x, by bounds, exact at integers (R173). -/
def apxExp2 (k : FFmt) (free : Nat) (s : Bool) (m : Nat) (e : Int) : Nat :=
  if 8 ≤ (Nat.log2 m : Int) + e && m != 0 then (if s then 0 else infPattern k false)
  else
    let z : Int := (if s then -1 else 1) * ((toFixed m e : Nat) : Int)
    let n : Int := z.fdiv ((2 ^ apxBits : Nat) : Int)
    let f := (z - n * ((2 ^ apxBits : Nat) : Int)).toNat
    if f == 0 then apxTrunc k false 1 n true
    else
      let (ll, lu) := ln2Bounds
      let lo := expLow (f * ll / 2 ^ apxBits)
      let hi := expLow (f * lu / 2 ^ apxBits + 1) + expSlack
      match apxInterval k false (max lo (2 ^ apxBits + 1)) (min hi (2 ^ (apxBits + 1) - 1)) (n - apxBits) with
      | some r => r
      | none => free

/-- log₂ of a positive finite `m × 2 ^ e`, exact at powers of two (R173). -/
def apxLog2 (k : FFmt) (free : Nat) (m : Nat) (e : Int) : Nat :=
  let l := Nat.log2 m
  let x : Int := (l : Int) + e
  if m == 2 ^ l then apxTrunc k (decide (x < 0)) x.natAbs 0 true
  else
    let (tl, tu) := lnMantissa m l
    let (ll, lu) := ln2Bounds
    let ql := tl * 2 ^ apxBits / lu
    let qu := tu * 2 ^ apxBits / ll + 1
    let one : Int := ((2 ^ apxBits : Nat) : Int)
    let lo : Int := x * one + ql
    let hi : Int := x * one + qu
    let r := if 0 ≤ x then apxInterval k false lo.toNat hi.toNat (-(apxBits : Int))
             else apxInterval k true (-hi).toNat (-lo).toNat (-(apxBits : Int))
    match r with
    | some v => v
    | none => free

/-- tanh of a non-zero finite x, by bounds (R194): x − x³/3 < tanh x < x for small x, 1 − 2e^(−2x) for large x, otherwise
(e^(2x) − 1) / (e^(2x) + 1). -/
def apxTanh (k : FFmt) (free : Nat) (s : Bool) (m : Nat) (e : Int) : Nat :=
  let mag : Int := (Nat.log2 m : Int) + e
  let r : Option Nat :=
    if mag < -12 then
      let c : Int := 64 + 2 * e
      let d := m * m * m
      let delta := (if 0 ≤ c then d * 2 ^ c.toNat / 3 else d / 2 ^ (-c).toNat / 3) + 1
      apxInterval k s (m * 2 ^ 64 - delta) (m * 2 ^ 64 - 1) (e - 64)
    else if 5 ≤ mag then apxInterval k s (2 ^ 64 - 2 ^ 23) (2 ^ 64 - 1) (-64)
    else
      let (lo, hi, x) := expBounds false (toFixed (2 * m) e)
      let l := lo * 2 ^ x.toNat
      let h := hi * 2 ^ x.toNat
      let one := 2 ^ apxBits
      apxInterval k s ((l - one) * one / (l + one)) ((h - one) * one / (h + one) + 1) (-(apxBits : Int))
  match r with
  | some v => v
  | none => free

/-! ## The functions with their case rows -/

/-- Number of a format for `Config.apxFree`. -/
def fmtNumber (k : FFmt) : Nat := if k == fp32 then 0 else if k == bf16 then 1 else 2

/-- `frcp` and `vrcp` (R173 cases 1 to 3). -/
def frcp (k : FFmt) (x : Nat) : Nat :=
  match fdecode k x with
  | .nan s f => quietNan k s f
  | .inf s => signBit k s
  | .fin s m e => if m == 0 then infPattern k s else apxRecip k s m e

/-- `frsq` and `vrsq` (R173 cases 1, 4 to 6). -/
def frsq (k : FFmt) (x : Nat) : Nat :=
  match fdecode k x with
  | .nan s f => quietNan k s f
  | .inf s => if s then canonicalNan k false else 0
  | .fin s m e => if m == 0 then infPattern k s else if s then canonicalNan k false else apxRsqrt k m e

/-- `fex2` (R173 cases 1, 7, 8). -/
def fex2 (k : FFmt) (x : Nat) : Nat :=
  match fdecode k x with
  | .nan s f => quietNan k s f
  | .inf s => if s then 0 else infPattern k false
  | .fin s m e => apxExp2 k (Config.apxFree 0 (fmtNumber k) x) s m e

/-- `flg2` (R173 cases 1, 9 to 11). -/
def flg2 (k : FFmt) (x : Nat) : Nat :=
  match fdecode k x with
  | .nan s f => quietNan k s f
  | .inf s => if s then canonicalNan k false else infPattern k false
  | .fin s m e =>
    if m == 0 then infPattern k true
    else if s then canonicalNan k false
    else apxLog2 k (Config.apxFree 1 (fmtNumber k) x) m e

/-- `vexp` (R194): e^x with the rows of `fex2`; e^0 is 1. -/
def vexpLane (k : FFmt) (x : Nat) : Nat :=
  match fdecode k x with
  | .nan s f => quietNan k s f
  | .inf s => if s then 0 else infPattern k false
  | .fin s m e => if m == 0 then apxTrunc k false 1 0 true else apxExp k (Config.apxFree 2 (fmtNumber k) x) s m e

/-- `vtanh` (R194). -/
def vtanhLane (k : FFmt) (x : Nat) : Nat :=
  match fdecode k x with
  | .nan s f => quietNan k s f
  | .inf s => signBit k s + k.bias * 2 ^ k.fb
  | .fin s m e => if m == 0 then signBit k s else apxTanh k (Config.apxFree 3 (fmtNumber k) x) s m e

/-! ## The noise generator (R225) -/

/-- MIX(key, ctr) of R225: 24 bits. -/
def mix (key ctr : Nat) : Nat :=
  let x := go 4 (ctr % 2 ^ 64) (key % 2 ^ 64)
  let y := x * 0x5E0B7C931F46A2B9 % 2 ^ 64
  bits (y ^^^ (y / 2 ^ 32)) 63 40
where
  /-- The four rounds. -/
  go : Nat → Nat → Nat → Nat
    | 0, x, _ => x
    | n + 1, x, k =>
      let a := (x ^^^ k) * 0xA3C59F1E6B27D84D % 2 ^ 64
      go n (a ^^^ (a / 2 ^ 29)) ((k + 0x7B21E64D90AF3C57) % 2 ^ 64)

/-- g(m) = APX(−ln(−ln u)) with u = (m + 1/2) / 2^24, under FP32 (R225). -/
def gumbel (m : Nat) : Nat :=
  let a := 2 * m + 1
  let l := Nat.log2 a
  let (tl, tu) := lnMantissa a l
  let (ll, lu) := ln2Bounds
  -- w = −ln u = (25 − l) ln 2 − ln(a / 2^l)
  let wl := (25 - l) * ll - tu
  let wu := (25 - l) * lu - tl
  let lnOf := fun (w : Nat) =>
    -- bounds of ln(w / 2^P) × 2^P as integers
    let j := Nat.log2 w
    let (a, b) := lnMantissa w j
    let d : Int := (j : Int) - apxBits
    let c : Int × Int := if 0 ≤ d then (d * ll, d * lu) else (d * lu, d * ll)
    (c.1 + a, c.2 + b)
  let lo : Int := -(lnOf wu).2
  let hi : Int := -(lnOf wl).1
  let r :=
    if 0 < lo then apxInterval fp32 false lo.toNat hi.toNat (-(apxBits : Int))
    else if hi < 0 then apxInterval fp32 true (-hi).toNat (-lo).toNat (-(apxBits : Int))
    else none
  match r with
  | some v => v
  | none => Config.apxFree 4 0 m

end Sys2Proof.Machine
end

