-- ==== Sys2Proof/Machine/Vector.lean ====
section
/-! DEFINITION. The vector node's commands (R189 to R198, R226). -/

namespace Sys2Proof.Machine

open Sys2Proof

/-! ## Sources and destination (R91, R189, R192) -/

/-- The 64 lanes of a register, as unsigned numbers. -/
def Vec.nats (v : Vec) : List Nat := (List.range 64).map fun i => (v.lanes.getD i 0).toNat

/-- Lanes and D bit of a source operand. A port that the task holds no packet of, because its entry was rebound, reads a free value
(R64; assumption log 17). -/
def Node.source (nd : Node) (t : Task) (free code : Nat) : List Nat × Bool :=
  if code < 16 then let v := Tab.get {} nd.w code; (v.nats, v.d)
  else if code < 20 then
    match t.packets.find? fun p => p.1 == code - 16 with
    | some p => (p.2.all.map (·.toNat), p.2.d)
    | none => ((List.range 64).map fun i => (Config.freeWord 30 (64 * free + i)).toNat, false)
  else (List.replicate 64 0, false)

/-- Write 64 lanes with a D bit to a register, or emit them on a port at the command's completion (R192). -/
def State.sinkVec (s : State) (k n : Nat) (tag : Tag) (code lat : Nat) (ls : List Nat) (d : Bool) : State :=
  let ws := ls.map (BitVec.ofNat 32)
  if code < 16 then s.onNode k n fun nd =>
    { nd with w := Tab.set nd.w code { lanes := ws, d := d }, wReady := Tab.set nd.wReady code (s.now + lat) }
  else s.emitPort k n (code - 16) (s.now + lat) { lanes := ws, tag := tag, d := d }

/-- Whether the results in the registers among some source codes are ready; the node holds a command until they are (R191). -/
def Node.readable (nd : Node) (now : Nat) (codes : List Nat) : Bool := codes.all fun c => 16 ≤ c || Tab.get 0 nd.wReady c ≤ now

/-- Run a V-form command that reads its first `nsrc` operands. -/
def vecCmd (s : State) (v : VArgs) (nsrc lat : Nat) (f : List Nat → List Nat → List Nat → List Nat) : Out :=
  atNodeKind s .vector fun k n =>
    match s.issuing k n with
    | none => s
    | some r =>
      let nd := s.node k n
      if !nd.readable s.now (([v.a, v.b, v.c].take nsrc).map (·.toNat)) then s
      else
        let src (i : Nat) (code : BitVec 5) : List Nat × Bool :=
          if i < nsrc then nd.source r.task (4 * s.free + i) code.toNat else ([], false)
        let a := src 0 v.a
        let b := src 1 v.b
        let c := src 2 v.c
        let s := ({ s with free := s.free + 1 } : State).sinkVec k n r.task.tag v.d.toNat lat (f a.1 b.1 c.1) (a.2 || b.2 || c.2)
        s.advance k n

/-! ## Lane arithmetic (R193) -/

/-- The float format of a lane type and its width; none under `.s32`. -/
def vtFloat : VType → Option FFmt
  | .f32 => some fp32
  | .bf16x2 => some bf16
  | .f16x2 => some fp16
  | .s32 => none

def vtWidth : VType → Nat
  | .f32 | .s32 => 32
  | .bf16x2 | .f16x2 => 16

/-- The lanes or half-lanes of 64 words. -/
def vtSplit (t : VType) (xs : List Nat) : List Nat := xs.flatMap (lanes (vtWidth t))

/-- 64 words from lanes or half-lanes. -/
def vtJoin (t : VType) (ls : List Nat) : List Nat := (chunks (32 / (vtWidth t)) 64 ls).map (ofLanes (vtWidth t))

/-- A lane-wise function of one, two or three operands. -/
def vtMap1 (t : VType) (f : Nat → Nat) (a : List Nat) : List Nat := (vtJoin t) ((vtSplit t a).map f)
def vtMap2 (t : VType) (f : Nat → Nat → Nat) (a b : List Nat) : List Nat := (vtJoin t) (List.zipWith f (vtSplit t a) (vtSplit t b))
def vtMap3 (t : VType) (f : Nat → Nat → Nat → Nat) (a b c : List Nat) : List Nat :=
  (vtJoin t) (List.zipWith (fun (p : Nat × Nat) z => f p.1 p.2 z) (List.zip (vtSplit t a) (vtSplit t b)) (vtSplit t c))

/-- A float function where the type is a float, an integer function modulo 2^32 under `.s32`. -/
def vtOp2 (t : VType) (ff : FFmt → Nat → Nat → Nat) (fi : Int → Int → Int) (x y : Nat) : Nat :=
  match (vtFloat t) with
  | some k => ff k x y
  | none => wrap (fi (signExt x 32) (signExt y 32)) 32

/-- `vcmp` of one lane (R81, R172, R193): all ones or zero. -/
def vtCompare (t : VType) (cond x y : Nat) : Nat :=
  match vtFloat t with
  | none => laneTruth 32 (intCond cond (signExt x 32) (signExt y 32))
  | some k => laneTruth (vtWidth t) (floatCond k cond x y)

/-- Element `j` of a list of lanes. -/
def laneOf (ls : List Nat) (j : Nat) : Nat := ls.getD (j % ls.length) 0

/-! ## Meanings -/

/-- R193 `vadd`. -/
def execVadd (v : VArgs) (s : State) : Out := vecCmd s v 2 4 fun a b _ => vtMap2 v.vt (vtOp2 v.vt fadd (· + ·)) a b

/-- R193 `vsub`. -/
def execVsub (v : VArgs) (s : State) : Out := vecCmd s v 2 4 fun a b _ => vtMap2 v.vt (vtOp2 v.vt fsub (· - ·)) a b

/-- R193 `vmul`. -/
def execVmul (v : VArgs) (s : State) : Out := vecCmd s v 2 4 fun a b _ => vtMap2 v.vt (vtOp2 v.vt fmul (· * ·)) a b

/-- R193 `vfma`. -/
def execVfma (v : VArgs) (s : State) : Out :=
  vecCmd s v 3 4 fun a b c => vtMap3 v.vt (fun x y z => match vtFloat v.vt with
    | some k => ffma k x y z
    | none => (x * y + z) % 2 ^ 32) a b c

/-- R193 `vmax`. -/
def execVmax (v : VArgs) (s : State) : Out := vecCmd s v 2 4 fun a b _ => vtMap2 v.vt (vtOp2 v.vt fmax max) a b

/-- R193 `vmin`. -/
def execVmin (v : VArgs) (s : State) : Out := vecCmd s v 2 4 fun a b _ => vtMap2 v.vt (vtOp2 v.vt fmin min) a b

/-- R193 `vscl`: every lane by lane 0 of B. -/
def execVscl (v : VArgs) (s : State) : Out :=
  vecCmd s v 2 4 fun a b _ => vtMap1 v.vt (fun x => vtOp2 v.vt fmul (· * ·) x (laneOf (vtSplit v.vt b) 0)) a

/-- R193 `vcmp`. -/
def execVcmp (v : VArgs) (s : State) : Out := vecCmd s v 2 4 fun a b _ => vtMap2 v.vt (vtCompare v.vt v.mod.toNat) a b

/-- R193 `vsel`. -/
def execVsel (v : VArgs) (s : State) : Out :=
  vecCmd s v 3 4 fun a b c => vtMap3 v.vt (fun x y z => if z != 0 then x else y) a b c

/-- R193 `vperm`. -/
def execVperm (v : VArgs) (s : State) : Out :=
  vecCmd s v 2 3 fun a b _ => vtMap1 v.vt (laneOf (vtSplit v.vt a)) b

/-- R193 `vbcast`. -/
def execVbcast (v : VArgs) (s : State) : Out :=
  vecCmd s v 2 3 fun a b _ =>
    let x := laneOf (vtSplit v.vt a) (laneOf (vtSplit v.vt b) 0)
    vtMap1 v.vt (fun _ => x) a

/-- An approximated function of a float lane; no encoding has VT = 3 here (R199). -/
def vtApprox (t : VType) (f : FFmt → Nat → Nat) (x : Nat) : Nat := match (vtFloat t) with | some k => f k x | none => x

/-- R194 `vexp`. -/
def execVexp (v : VArgs) (s : State) : Out := vecCmd s v 1 8 fun a _ _ => vtMap1 v.vt (vtApprox v.vt vexpLane) a

/-- R194 `vrcp`. -/
def execVrcp (v : VArgs) (s : State) : Out := vecCmd s v 1 8 fun a _ _ => vtMap1 v.vt (vtApprox v.vt frcp) a

/-- R194 `vrsq`. -/
def execVrsq (v : VArgs) (s : State) : Out := vecCmd s v 1 8 fun a _ _ => vtMap1 v.vt (vtApprox v.vt frsq) a

/-- R194 `vtanh`. -/
def execVtanh (v : VArgs) (s : State) : Out := vecCmd s v 1 8 fun a _ _ => vtMap1 v.vt (vtApprox v.vt vtanhLane) a

/-! ## Reductions (R195) -/

/-- One level of the pairwise tree. -/
def treeLevel (f : Nat → Nat → Nat) : List Nat → List Nat
  | x :: y :: t => f x y :: treeLevel f t
  | t => t

/-- The pairwise tree over a list whose length is a power of two. -/
def treeReduce (f : Nat → Nat → Nat) : Nat → List Nat → Nat
  | 0, t => t.headD 0
  | n + 1, t => if t.length ≤ 1 then t.headD 0 else treeReduce f n (treeLevel f t)

/-- A reduction of all lanes, in FP32 for a float type (R195). -/
def vtReduce (t : VType) (ff : Nat → Nat → Nat) (fi : Int → Int → Int) (a : List Nat) : List Nat :=
  let x := match (vtFloat t) with
    | none => treeReduce (fun x y => wrap (fi (signExt x 32) (signExt y 32)) 32) 7 (vtSplit t a)
    | some k =>
      if t == .f32 then treeReduce ff 7 a
      else fconvert fp32 k .rne (treeReduce ff 7 ((vtSplit t a).map (widenTo32 k)))
  (vtMap1 t) (fun _ => x) a

/-- R195 `vsum`. -/
def execVsum (v : VArgs) (s : State) : Out := vecCmd s v 1 12 fun a _ _ => vtReduce v.vt (fadd fp32) (· + ·) a

/-- R195 `vmaxr`. -/
def execVmaxr (v : VArgs) (s : State) : Out := vecCmd s v 1 12 fun a _ _ => vtReduce v.vt (fmax fp32) max a

/-! ## Conversion (R196) -/

/-- The destination type of `vcvt`. -/
def vcvtDest (m : Nat) : VType := if m % 4 == 0 then .f32 else if m % 4 == 1 then .bf16x2 else .f16x2

/-- One lane of `vcvt`. -/
def vcvtLane (src dst : VType) (mode : RMode) (x : Nat) : Nat :=
  match (vtFloat src), (vtFloat dst) with
  | none, some d => fofInt d mode (signExt x 32)
  | some k, some d => fconvert k d mode x
  | _, none => x

/-- `vcvt` of whole operands: narrowing from 32-bit lanes, S32 to FP32, widening of one half of the half-lanes, and between the 16-bit
types. -/
def vcvtLanes (src : VType) (m : Nat) (a b : List Nat) : List Nat :=
  let dst := vcvtDest m
  let mode : RMode := if bit m 2 then .rto else .rne
  if (vtWidth src) == 32 && (vtWidth dst) == 16 then (vtJoin dst) ((a ++ b).map (vcvtLane src dst mode))
  else if (vtWidth src) == 32 then a.map (vcvtLane src dst mode)
  else if (vtWidth dst) == 32 then (((vtSplit src a).drop (64 * b2n (bit m 2))).take 64).map (vcvtLane src dst .rne)
  else (vtJoin dst) ((vtSplit src a).map (vcvtLane src dst mode))

/-- R196 `vcvt`. -/
def execVcvt (v : VArgs) (s : State) : Out :=
  vecCmd s v (if vcvtNarrow v then 2 else 1) 4 fun a b _ => vcvtLanes v.vt v.mod.toNat a b

/-! ## Tiles (R197, R198) -/

/-- Run a tile command of the node's handler, or its fault (R192, R198), once the registers that it reads are ready (R191). -/
def vecTile (s : State) (tile row : Nat) (rd : Bool) (srcs : List Nat) (d : Node → Bool) (act : State → Nat → Nat → State) : Out :=
  atNodeKind s .vector fun k n =>
    match s.issuing k n with
    | none => s
    | some r =>
      if !(s.node k n).readable s.now srcs then s
      else match (s.core k).tileAccess tile row 1 rd with
      | .wait => s
      | .bad code detail =>
        (s.emitDests k n r.dests (s.now + 6) (wideFault (nodeWord k n code detail) r.task.tag r.task.tag (d (s.node k n)))).endHandler k n
      | .go => (act s k n).advance k n

/-- R197 `vtile.rd`. -/
def execVtileRd (w : BitVec 4) (tile : BitVec 8) (row : BitVec 14) (s : State) : Out :=
  vecTile s tile.toNat row.toNat true [] (fun _ => false) fun s k n =>
    let c := s.core k
    let t := c.tile tile.toNat
    let ws := wordsOfBytes (c.scrRead (t.firstByte + 256 * row.toNat) 256)
    s.onNode k n fun nd =>
      { nd with w := Tab.set nd.w w.toNat { lanes := ws, d := t.dmark }, wReady := Tab.set nd.wReady w.toNat (s.now + 6) }

/-- R197 `vtile.wr`: it is none of the agents of R245, so that the words keep their full/empty state. -/
def execVtileWr (w : BitVec 4) (tile : BitVec 8) (row : BitVec 14) (s : State) : Out :=
  vecTile s tile.toNat row.toNat false [w.toNat] (fun nd => (Tab.get {} nd.w w.toNat).d) fun s k n =>
    let x := Tab.get {} (s.node k n).w w.toNat
    (s.onCore k fun c => c.scrPut false ((c.tile tile.toNat).firstByte + 256 * row.toNat)
      (bytesOfWords (x.nats.map (BitVec.ofNat 32))) x.d).settle

/-! ## Sampling (R225, R226) -/

/-- R226 `vnoise`. -/
def execVnoise (v : VArgs) (s : State) : Out :=
  vecCmd s v 2 8 fun a b _ =>
    let key := laneOf b 1 * 2 ^ 32 + laneOf b 0
    (List.range 64).map fun i =>
      fadd fp32 (laneOf a i) (gumbel (mix key (laneOf b 3 * 2 ^ 32 + (laneOf b 2 + i) % 2 ^ 32)))

/-- R226 `vmask`. -/
def execVmask (v : VArgs) (s : State) : Out :=
  vecCmd s v 3 4 fun a b c =>
    let ch := laneOf c 0 % 32
    (List.range 64).map fun i => if bit (laneOf b (2 * ch + i / 32)) (i % 32) then laneOf a i else 0xFF800000

/-- The candidate of 64 lanes (R226). -/
def argmaxLanes (a : List Nat) (base : Nat) : List Nat :=
  let best := (List.range 64).foldl (fun m i => if fkey fp32 (laneOf a m) < fkey fp32 (laneOf a i) then i else m) 0
  (if a.any (isNan fp32) then [0x7FC00000, 0xFFFFFFFF, 2]
   else if a.all (· == 0xFF800000) then [0xFF800000, 0xFFFFFFFF, 1]
   else [laneOf a best, (base + best) % 2 ^ 32, 0]) ++ List.replicate 61 0

/-- R226 `vargmax`. -/
def execVargmax (v : VArgs) (s : State) : Out := vecCmd s v 2 12 fun a b _ => argmaxLanes a (laneOf b 0)

end Sys2Proof.Machine
end

