-- ==== Sys2Proof/Machine/Matrix.lean ====
section
/-! DEFINITION. The matrix and accumulator nodes (R201 to R219): operand records and weight banks, the pass, the accumulator's grid, and
the packets that arrive at handler nodes (R65, R190, R202, R210). -/

namespace Sys2Proof.Machine

open Sys2Proof

/-! ## Faults of matrix and accumulator commands (R202) -/

/-- A fault of a command of a task: precise at the node, with the task's tag as its origin. -/
def State.nodeFault (s : State) (k n code detail : Nat) (tag : Tag) (d : Bool) : State :=
  s.preciseNode k n (nodeWord k n code detail) tag tag 0 d

/-- A row poisoned by a task (R202). -/
def AccRow.poisoned (r : AccRow) (tag : Tag) : AccRow :=
  if r.used then { r with poison := true } else { used := true, tag := tag, poison := true, fresh := true }

/-- Poison rows of an accumulator node. -/
def State.poisonRows (s : State) (k acc : Nat) (rows : List Nat) (tag : Tag) : State :=
  s.onNode k (28 + acc) fun nd => { nd with rows := rows.foldl (fun m j => Tab.set m j ((Tab.get {} m j).poisoned tag)) nd.rows }

def Node.bank (nd : Node) (b : Bool) : Bank := if b then nd.bank1 else nd.bank0
def Node.setBank (nd : Node) (b : Bool) (x : Bank) : Node := if b then { nd with bank1 := x } else { nd with bank0 := x }

/-- Rows of an accumulator node (R214). -/
def State.accRows (s : State) (k : Nat) : Nat := bits (s.core k).partw 23 16 * 32

/-! ## Operand records (R203) -/

/-- A decoded operand record. -/
structure OpRecord where
  cbase : Nat
  szbase : Nat
  fmt : Fmt
  grp : Nat
  kk : Nat
  nn : Nat
  k0 : Nat
  n0 : Nat
  sv : Bool
  slot : Bool
  wport : Bool
  sdom : Nat
  deriving DecidableEq, Repr

/-- Rows that one pass of a weight format consumes (R206). -/
def passDepth (f : Fmt) : Nat := if f == .q4 then 256 else 128

/-- Decode a record; none where it is invalid. The alignment of CBASE and SZBASE and a SDOM without SV are not among the conditions of R203
that make it so. -/
def recordOf (w : List Word) : Option OpRecord :=
  let x (i : Nat) : Nat := wordAt w i
  match fmtOf (bits (x 4) 27 24) with
  | none => none
  | some f =>
    let g := bits (x 4) 23 22
    let d := passDepth f
    if !bit (x 4) 31 || bits (x 4) 30 28 != 0 || bits (x 4) 21 0 != 0 || !mwLoadOk f g ||
       x 5 == 0 || x 5 % d != 0 || x 6 == 0 || x 6 % 128 != 0 || x 7 % d != 0 || x 5 < x 7 + d || x 8 % 128 != 0 || x 6 < x 8 + 128 ||
       bits (x 9) 30 18 != 0 || bits (x 9) 15 10 != 0 ||
       (List.range 6).any fun i => x (10 + i) != 0
    then none
    else some { cbase := dwordAt w 0, szbase := dwordAt w 2, fmt := f, grp := g, kk := x 5, nn := x 6, k0 := x 7, n0 := x 8,
                sv := bit (x 9) 31, slot := bit (x 9) 17, wport := bit (x 9) 16, sdom := bits (x 9) 9 0 }

/-- Read an operand record of a launch; an unreadable record is an invalid one (R203, R451). -/
def State.opRecord (s : State) (k i : Nat) : Option OpRecord × State :=
  match s.coreLaunch k with
  | none => (none, s)
  | some (_, l) =>
    match s.sysRead (some (k / 4)) l.asid (l.cmd.hbase.toNat - 0x40000 + 64 * i) 64 clsImage with
    | (.ok bs, s) => (recordOf (wordsOfBytes bs), s)
    | (.error _, s) => (none, s)

/-! ## Loads (R207 to R209) -/

/-- The WD contribution of a page, or none where R208 case 5 refuses it. -/
def weightPage (l : Launch) (r : OpRecord) (t : Trans) : Option Bool :=
  if t.cls == 1 && r.sv && t.sdom == r.sdom then some true
  else if t.cls == 2 && l.sdom? == some t.sdom then some true
  else if t.cls == 0 then some r.sv
  else none

/-- Read weight bytes: the bytes with their WD contribution, or a fault code with the address (R208). -/
def State.weightRead (s : State) (k : Nat) (l : Launch) (r : OpRecord) : List (Nat × Nat) → Except (Nat × Nat) (List Byte × Bool) × State
  | [] => (.ok ([], false), s)
  | (va, n) :: rest =>
    match s.translate (some k) (some (k / 4)) l.asid va with
    | (none, s) => (.error (fcTrans, va), s)
    | (some t, s) =>
      if !t.r then (.error (fcProt, va), s)
      else match weightPage l r t with
        | none => (.error (fcClass, va), s)
        | some wd =>
          match s.physFault t n false with
          | some (c, _) => (.error (c, va), s)
          | none =>
            let (bs, s) := s.physRead t n
            match s.weightRead k l r rest with
            | (.error e, s) => (.error e, s)
            | (.ok (bs', wd'), s) => (.ok (bs ++ bs', wd || wd'), s)

/-- Bytes of a column of codes in one tile (R149). -/
def colBytes (f : Fmt) : Nat := if f == .q8 then 128 else if f == .q4 then 128 else 256

/-- The ranges of a tile's codes, column by column, in pieces of one line at most. -/
def codeRanges (r : OpRecord) : List (Nat × Nat) :=
  (List.range 128).map fun j =>
    let n := r.n0 + j
    let ofs := if r.fmt == .q4 then n * (r.kk / 2) + r.k0 / 2 else if r.fmt == .q8 then n * r.kk + r.k0 else 2 * (n * r.kk + r.k0)
    (r.cbase + ofs, colBytes r.fmt)

/-- Groups of a pass of a bank. -/
def groupsOf (f : Fmt) (grp : Nat) : Nat := passDepth f / (32 * 2 ^ grp)

/-- The ranges of a tile's entries (R149). -/
def entryRanges (r : OpRecord) : List (Nat × Nat) :=
  (List.range 128).map fun j =>
    (r.szbase + 4 * ((r.n0 + j) * (r.kk / (32 * 2 ^ r.grp)) + r.k0 / (32 * 2 ^ r.grp)), 4 * groupsOf r.fmt r.grp)

/-- The pieces of a range that lie in one line each (R209). -/
def rangeLines (x : Nat × Nat) : List (Nat × Nat) :=
  let rec go : Nat → Nat → Nat → List (Nat × Nat)
    | 0, _, _ => []
    | fuel + 1, a, n => if n == 0 then [] else let m := min n (128 - a % 128); (a, m) :: go fuel (a + m) (n - m)
  go (x.2 / 128 + 2) x.1 x.2

/-- The codes of a column in its bytes (R140). -/
def codesOf (f : Fmt) (bs : List Byte) : List Nat :=
  match f with
  | .q4 => bs.flatMap fun b => [b.toNat % 16, b.toNat / 16]
  | .q8 => bs.map (·.toNat)
  | _ => (chunks 2 bs.length bs).map ofLeBytes

/-- Whether an entry is invalid for a weight format (R148, R150). -/
def entryBad (f : Fmt) (w : Word) : Bool :=
  let x := w.toNat
  bits x 31 24 != 0 || (f == .q4 && 15 < bits x 23 16) ||
  match fdecode fp16 (x % 2 ^ 16) with | .fin _ m _ => m == 0 | _ => true

/-- Load a bank through a record (R207): the bank, or a fault with the address it held. -/
def State.loadBank (s : State) (k : Nat) (l : Launch) (i : Nat) (r : OpRecord) : Except (Nat × Nat × Option Nat) Bank × State :=
  match s.weightRead k l r ((codeRanges r).flatMap rangeLines) with
  | (.error (c, va), s) => (.error (c, 0, some va), s)
  | (.ok (bs, wd), s) =>
    let codes := (chunks (colBytes r.fmt) 128 bs).map (codesOf r.fmt)
    let ev := r.szbase != 0 && r.fmt != .bf16
    match if ev then s.weightRead k l r ((entryRanges r).flatMap rangeLines) else (.ok ([], false), s) with
    | (.error (c, va), s) => (.error (c, 0, some va), s)
    | (.ok (es, wd'), s) =>
      let entries := if ev then chunks (groupsOf r.fmt r.grp) 128 (wordsOfBytes es) else []
      if entries.any fun c => c.any (entryBad r.fmt) then (.error (fcArith, 0x21, none), s)
      else (.ok { fmt := r.fmt, grp := r.grp, codes := codes, entries := entries, record := i, wd := wd || wd', cv := true,
                  ev := r.szbase != 0 }, s)

/-- A load fails: the bank is poisoned and the handler ends (R202). -/
def State.loadFails (s : State) (k n : Nat) (b : Bool) (t : Task) (code detail : Nat) (va : Option Nat) : State :=
  let s := match va with | some a => s.noteVa k t.tag code a | none => s
  let s := s.onNode k n fun nd => nd.setBank b { nd.bank b with poison := true }
  (s.nodeFault k n code detail t.tag t.dAll).endHandler k n

/-- Perform a load whose record index is known (R207). -/
def State.loadInto (s : State) (k n : Nat) (b : Bool) (t : Task) (i : Nat) (right : Bool) (want : Option (Fmt × Nat)) : State :=
  match s.opRecord k i with
  | (none, s) => s.loadFails k n b t fcProt 0x53 none
  | (some r, s) =>
    match s.coreLaunch k with
    | none => s
    | some (_, l) =>
      if want.any fun w => r.fmt != w.1 || r.grp != w.2 then s.loadFails k n b t fcProt 0x53 none
      else if r.sv && l.sdom? != some r.sdom then s.loadFails k n b t fcProt 0x50 none
      else if !r.wport || (right && !r.slot) then s.loadFails k n b t fcProt 0x51 none
      else match s.loadBank k l i r with
        | (.error (c, d, va), s) => s.loadFails k n b t c d va
        | (.ok bank, s) => (s.onNode k n fun nd => { nd.setBank b bank with lb := b }).advance k n

/-- Run a matrix command; one that a running `mm.run` holds up waits until the array is free (R219). -/
def matrixCmd (s : State) (waits : Node → Bool) (act : State → Nat → Nat → Running → State) : Out :=
  atNodeKind s .matrix fun k n =>
    match s.issuing k n with
    | none => s
    | some r => if r.stream.isSome && waits (s.node k n) then s else act s k n r

/-- R207 `mw.load`. -/
def execMwLoad (fmt : Fmt) (grp : BitVec 2) (bank : Bool) (rec_ : BitVec 12) (s : State) : Out :=
  matrixCmd s (fun nd => nd.active == bank) fun s k n r => s.loadInto k n bank r.task rec_.toNat false (some (fmt, grp.toNat))

/-- R207 `mw.swap`. -/
def execMwSwap (bank : Bool) (s : State) : Out :=
  matrixCmd s (fun _ => true) fun s k n _ => (s.onNode k n fun nd => { nd with active := bank }).advance k n

/-- R204, R207 `mm.rec`: the record that the slot table gives for the context of the task's packet. -/
def execMmRec (bank : Bool) (s : State) : Out :=
  matrixCmd s (fun nd => nd.active == bank) fun s k n r =>
    let ctx := ctxOf r.task.tag
    let e := match s.coreLaunch k with | some (_, l) => if 0xC00 ≤ ctx then Tab.get 0 l.adapters (ctx - 0xC00) else 0 | none => 0
    let x := (s.node k n).bank bank
    if !bit e 31 then s.loadFails k n bank r.task fcProt 0x52 none
    else if x.cv && !x.poison && x.record == e % 4096 then (s.onNode k n fun nd => { nd with lb := bank }).advance k n
    else s.loadInto k n bank r.task (e % 4096) true none

/-- R207 `mm.zp`: the entries of bank LB from a tile. -/
def execMmZp (tile : BitVec 8) (s : State) : Out :=
  matrixCmd s (fun nd => nd.active == nd.lb) fun s k n r =>
    let nd := s.node k n
    let x := nd.bank nd.lb
    let g := groupsOf x.fmt x.grp
    let bad (s : State) (code detail : Nat) : State := s.loadFails k n nd.lb r.task code detail none
    if !x.cv || x.fmt == .bf16 then bad s fcProt 0x53
    else match (s.core k).tileAccess tile.toNat 0 (2 * g) true with
      | .wait => s
      | .bad c d => bad s c d
      | .go =>
        let t := (s.core k).tile tile.toNat
        let es := chunks g 128 (wordsOfBytes ((s.core k).scrRead t.firstByte (512 * g)))
        if es.any fun c => c.any (entryBad x.fmt) then bad s fcArith 0x21
        else (s.onNode k n fun nd => nd.setBank nd.lb { x with entries := es, ev := true, zp := true, wd := x.wd || t.dmark }).advance k n

/-! ## The pass (R210, R211) -/

/-- The float format of a code, if it is one. -/
def fmtFloat : Fmt → Option FFmt
  | .e4m3 => some e4m3
  | .e5m2 => some e5m2
  | .e2m1 => some e2m1
  | .bf16 => some bf16
  | .fp16 => some fp16
  | .fp32 => some fp32
  | .q4 | .q8 | .s8 | .s32 => none

/-- An integer as an exact value. -/
def intVal (v : Int) : FVal := .fin (decide (v < 0)) v.natAbs 0

/-- The activations of a vector's packets (R140, R210). -/
def actsOf (f : Fmt) (depth : Nat) (ps : List Wide) : List FVal :=
  let bs := ps.flatMap fun p => bytesOfWords p.all
  if fmtBits f == 8 then (bs.take depth).map fun b => match fmtFloat f with
    | some k => fdecode k b.toNat
    | none => intVal (signExt b.toNat 8)
  else ((chunks 2 depth bs).take depth).map fun h => match fmtFloat f with
    | some k => fdecode k (ofLeBytes h)
    | none => intVal 0

/-- The exact weight of a code under its entry: (q − z) × s, +0 where q = z (R147, R211). -/
def dequantised (q : Nat) (e : Word) : FVal :=
  let v : Int := (q : Int) - (bits e.toNat 23 16 : Nat)
  match fdecode fp16 (e.toNat % 2 ^ 16) with
  | .fin s m x => if v == 0 then .fin false 0 0 else .fin (s != decide (v < 0)) (v.natAbs * m) x
  | y => y

/-- The exact weights of column `c` of a bank. -/
def Bank.column (b : Bank) (c : Nat) : List FVal :=
  let codes := b.codes.getD c []
  if b.fmt == .bf16 then codes.map (fdecode bf16)
  else
    let es := b.entries.getD c []
    let g := 32 * 2 ^ b.grp
    (List.range codes.length).map fun i => dequantised (codes.getD i 0) (es.getD (i / g) 0)

def FVal.isNan : FVal → Bool | .nan _ _ => true | _ => false
def FVal.isInf : FVal → Bool | .inf _ => true | _ => false
def FVal.isZero : FVal → Bool | .fin _ m _ => m == 0 | _ => false
def FVal.sign : FVal → Bool | .nan s _ => s | .inf s => s | .fin s _ _ => s

/-- A finite value in units of 2^−300, below every exponent of the formats. -/
def FVal.units : FVal → Int
  | .fin s m e => (if s then -1 else 1) * ((m * 2 ^ (e + 300).toNat : Nat) : Int)
  | _ => 0

/-- The pass value of one column (R211): every product exact, one rounding to FP32. -/
def passValue (acts ws : List FVal) : Nat :=
  let ps := List.zip acts ws
  let sgn (p : FVal × FVal) : Bool := p.1.sign != p.2.sign
  let infs := ps.filter fun p => p.1.isInf || p.2.isInf
  if ps.any fun p => p.1.isNan || p.2.isNan then 0x7FC00000
  else if infs.any fun p => p.1.isZero || p.2.isZero then 0x7FC00000
  else if infs.any sgn && infs.any fun p => !sgn p then 0x7FC00000
  else if !infs.isEmpty then infPattern fp32 (infs.any sgn)
  else
    let sum : Int := (ps.map fun p => p.1.units * p.2.units).sum
    if sum == 0 then signBit fp32 (ps.all fun p => sgn p && (p.1.isZero || p.2.isZero))
    else fround fp32 .rne (decide (sum < 0)) sum.natAbs (-600) false

/-- Packets of one vector (R210). -/
def vectorPackets (w a : Fmt) : Nat := if w == .q4 && fmtBits a == 16 then 2 else 1

/-- A running `mm.run` takes a packet; the last packet of a vector sends its pass (R210, R211). The pass of two packets has the first one's
tag: the model's choice (assumption log 147). -/
def State.feed (s : State) (k n : Nat) (w : Wide) : State :=
  let nd := s.node k n
  match nd.running with
  | none => s
  | some r =>
    match r.stream with
    | none => s
    | some m =>
      let b := nd.bank nd.active
      let got := m.got ++ [w]
      if got.length < vectorPackets b.fmt m.fmt then
        s.onNode k n fun nd => { nd with running := some { r with stream := some { m with got := got } } }
      else
        let acts := actsOf m.fmt (passDepth b.fmt) got
        let vals := (List.range 128).map fun c => BitVec.ofNat 32 (passValue acts (b.column c))
        let p : Pass := .row m.acc m.taken vals (got.headD {}).tag (b.wd || got.any (·.d)) r.task.tag
        let m' : Stream := { m with taken := m.taken + 1, got := [] }
        let s := s.onNode k n fun nd =>
          Node.settle { nd with running := some { r with stream := if m'.taken < m.n then some m' else none } }
        s.onNode k (28 + m.acc) fun nd => { nd with passes := nd.passes ++ [p] }

/-- The first pending task that is one packet on port a: vectors are taken in arrival order, whatever their contexts (R210). -/
def State.pendingA (s : State) (k n : Nat) : Option (Nat × Wide) :=
  match (s.node k n).pending.findIdx? fun t => t.packets.any (·.1 == 0) with
  | none => none
  | some i => ((s.node k n).pending[i]?.bind fun t => t.packets.find? (·.1 == 0)).map fun p => (i, p.2)

/-- A running `mm.run` takes the port-a packets that wait in the pending queue, in arrival order. -/
def State.drainA (s : State) (k n : Nat) : Nat → State
  | 0 => s
  | fuel + 1 =>
    if !(s.node k n).wants then s
    else match s.pendingA k n with
      | none => s
      | some (i, w) => ((s.unpend k n i).feed k n w).drainA k n fuel

/-- R210, R211 `mm.run`. -/
def execMmRun (fmt : Fmt) (acc : BitVec 2) (n1 : BitVec 13) (s : State) : Out :=
  matrixCmd s (fun _ => true) fun s k n r =>
    let nd := s.node k n
    let b := nd.bank nd.active
    let count := n1.toNat + 1
    let bad (detail : Nat) : State :=
      ((s.poisonRows k acc.toNat (List.range (min count (s.accRows k))) r.task.tag).nodeFault k n fcArith detail r.task.tag
        r.task.dAll).endHandler k n
    if b.fmt == .bf16 && fmt != .bf16 then bad 0x40
    else if !b.cv || b.poison || (b.fmt != .bf16 && !b.ev) then bad 0x46
    else if s.accRows k < count then bad 0x41
    else
      let s := s.onNode k n fun nd => { nd with running := nd.running.map fun x =>
        { x with cmds := x.cmds.tail, next := s.now + 1, stream := some { acc := acc.toNat, fmt := fmt, n := count } } }
      let s := match r.task.packets.find? (·.1 == 0) with
        | some p => s.feed k n p.2
        | none => s
      s.drainA k n ((s.node k n).pending.length)

/-- R217 `mm.end`: the end token follows every pass of the node's earlier `mm.run`. -/
def execMmEnd (acc : BitVec 2) (count : BitVec 16) (s : State) : Out :=
  matrixCmd s (fun _ => true) fun s k n r =>
    (s.onNode k (28 + acc.toNat) fun nd => { nd with passes := nd.passes ++ [.fin acc.toNat count.toNat r.task.tag] }).advance k n

/-! ## Packets at handler nodes (R65, R190, R202, R210) -/

/-- R190 NODE_PACKET_ARRIVAL: a packet enters a port of a handler node. An F packet is precise there (R62) and goes no further at a
matrix or accumulator port (R202); a running `mm.run` takes the packets of port a (R210). -/
def execNodePacketArrival (s : State) : Out :=
  atNode s fun k n =>
    match nodeKindOf n with
    | none => s
    | some kind =>
      match s.nextTaken k n with
      | none => s
      | some (i, t) =>
        let s := s.onCore k (·.dropTransit i)
        let w := t.msg.packet
        if s.vanishes k w.tag then s
        else match t.dest with
          | .node _ port =>
            let s := s.firstToken k (ctxOf w.tag)
            let s := if w.f then s.preciseNode k n (w.lane 0) w.origin (t.msg.instOr w.origin) (t.src.getD 0) w.d
              (t.msg.ofInst (t.src.getD 0)) else s
            if w.f && (kind == .matrix || kind == .acc) then
              match (s.node k n).running with
              | some r =>
                match r.stream with
                | some m =>
                  if port == 0 then
                    (s.poisonRows k m.acc ((List.range m.n).drop m.taken) r.task.tag).dropHandler k n
                  else s
                | none => s
              | none => s
            else if port == 0 && (s.node k n).wants then s.feed k n w
            else s.enterPort k n port w
          | _ => s

/-! ## The accumulator (R213 to R218) -/

/-- The 128 values of a released row (R216). -/
def AccRow.values (r : AccRow) (e : Int) : List Word :=
  (List.range 128).map fun i =>
    let v := r.a.getD i 0
    BitVec.ofNat 32 <|
      if r.nan || (r.pos && r.neg) then 0x7FC00000
      else if r.pos then infPattern fp32 false
      else if r.neg then infPattern fp32 true
      else fround fp32 .rne (decide (v < 0)) v.natAbs (e - 64) false

/-- Emit a wide token on an accumulator's entry; one on an entry that is neither KIND 0 nor KIND 1 is discarded and counted (R315). -/
def State.accEmit (s : State) (k entry : Nat) (w : Wide) : State :=
  match s.emitBinding k entry (s.now + 1) w with
  | some s => s
  | none => s.countCore k cntNoBind

/-- Release a row (R216). One whose storage cannot be read is cleared, with ECCU (R202, R444; assumption log 140). -/
def State.releaseRow (s : State) (k n j : Nat) : State :=
  let r := Tab.get {} (s.node k n).rows j
  let e := (s.node k n).e
  let clear (s : State) : State := s.onNode k n fun nd => { nd with rows := Tab.del nd.rows j }
  if r.poison then clear s
  else if r.bad then clear (s.nodeFault k n fcEccu 0 r.tag true)
  else
    let vs := r.values e
    let hi := match s.coreLaunch k with
      | some (_, l) => if bit (l.binding k (144 + (n - 28))) 31 then 144 + (n - 28) else 4 * n
      | none => 4 * n
    let s := s.accEmit k (4 * n) { lanes := vs.take 64, tag := r.tag, d := r.d }
    let s := s.accEmit k hi { lanes := vs.drop 64, tag := r.tag, d := r.d }
    (clear s).onNode k n fun nd => if nd.rows.any fun x => x.2.used then nd else { nd with rc := 0 }

/-- Add one pass value to a row element on the window grid (R215). -/
def AccRow.add (r : AccRow) (e : Int) (vals : List Word) : AccRow :=
  let one (p : Word) (a : Int) : Int × Bool × Bool × Bool :=
    match fdecode fp32 p.toNat with
    | .nan _ _ => (a, true, false, false)
    | .inf sg => (a, false, !sg, sg)
    | .fin sg m x =>
      let q := roundAt .rne sg m (x + 64 - e) 0 false
      if 2 ^ 111 ≤ q then (a, false, !sg, sg) else (a + (if sg then -(q : Int) else (q : Int)), false, false, false)
  let outs := (List.range 128).map fun i => one (vals.getD i 0) (r.a.getD i 0)
  { r with a := outs.map (·.1), nan := r.nan || outs.any (·.2.1), pos := r.pos || outs.any (·.2.2.1),
           neg := r.neg || outs.any (·.2.2.2) }

/-- A pass arrives for a row (R215). One whose storage cannot be read is poisoned, with ECCU (R202, R444; assumption log 140). -/
def State.addPass (s : State) (k n j : Nat) (vals : List Word) (tag : Tag) (d : Bool) (origin : Tag) : State :=
  let nd := s.node k n
  let r := Tab.get {} nd.rows j
  let put (s : State) (r : AccRow) : State := s.onNode k n fun nd => { nd with rows := Tab.set nd.rows j r }
  if r.poison then
    let r' := { r with cnt := r.cnt + 1, d := r.d || d }
    let s := put s r'
    if nd.rc != 0 && nd.rc ≤ r'.cnt then s.releaseRow k n j else s
  else if r.bad then (put s (r.poisoned tag)).nodeFault k n fcEccu 0 origin true
  else if r.used && r.tag != tag then (put s (r.poisoned tag)).nodeFault k n fcArith 0x44 origin d
  else
    let r := if r.used then r else { r with used := true, tag := tag }
    let r' := r.add nd.e vals
    let r' := { r' with cnt := r.cnt + 1, d := r.d || d }
    let s := put s r'
    if nd.rc != 0 && r'.cnt == nd.rc then s.releaseRow k n j
    else if nd.rc != 0 && nd.rc < r'.cnt then (put s (r'.poisoned tag)).nodeFault k n fcArith 0x45 origin r'.d
    else s

/-- Clear the rows that are USED only because they were poisoned (R202). -/
def State.clearFresh (s : State) (k n : Nat) : State := s.onNode k n fun nd => { nd with rows := nd.rows.filter fun x => !x.2.fresh }

/-- R215 PASS_ARRIVAL: the next pass on its way to an accumulator node. -/
def execPassArrival (s : State) : Out :=
  atNodeKind s .acc fun k n =>
    match (s.node k n).passes with
    | .row _ j vals tag d origin :: rest =>
      let s := s.onNode k n fun nd => { nd with passes := rest }
      if s.vanishes k tag then s else s.addPass k n j vals tag d origin
    | _ => s

/-- R217 END_TOKEN_ARRIVAL: the next end token on its way to an accumulator node. Its ARITH 0x42 has D = 0: an end token has no D bit, and
the value is the model's choice (assumption log 146). -/
def execEndTokenArrival (s : State) : Out :=
  atNodeKind s .acc fun k n =>
    match (s.node k n).passes with
    | .fin _ count origin :: rest =>
      let s := (s.onNode k n fun nd => { nd with passes := rest }).clearFresh k n
      let nd := s.node k n
      if nd.rc == 0 then
        let s := s.onNode k n fun nd => { nd with rc := count }
        nd.rows.foldl (fun s x =>
          if !x.2.used then s
          else if x.2.cnt == count then s.releaseRow k n x.1
          else if count < x.2.cnt then
            (s.onNode k n fun nd => { nd with rows := Tab.set nd.rows x.1 (x.2.poisoned origin) }).nodeFault k n fcArith 0x45 origin x.2.d
          else s) s
      else if nd.rc == count then s
      else s.nodeFault k n fcArith 0x42 origin false
    | _ => s

/-- Run an accumulator command. -/
def accCmd (s : State) (act : State → Nat → Nat → Running → State) : Out :=
  atNodeKind s .acc fun k n => match s.issuing k n with | none => s | some r => act s k n r

/-- R218 `acc.cfg`. -/
def execAccCfg (e : BitVec 8) (s : State) : Out :=
  accCmd s fun s k n r =>
    if (s.node k n).rows.any fun x => x.2.used then
      (s.nodeFault k n fcArith 0x43 r.task.tag r.task.dAll).endHandler k n
    else (s.onNode k n fun nd => { nd with e := (e.toNat : Int) - 127 }).advance k n

/-- R218 `acc.rel`: every USED row in ascending order, then RC := 0. -/
def execAccRel (s : State) : Out :=
  accCmd s fun s k n _ =>
    let s := s.clearFresh k n
    let s := (s.node k n).rows.foldl (fun s x => if x.2.used then s.releaseRow k n x.1 else s) s
    (s.onNode k n fun nd => { nd with rc := 0 }).advance k n

end Sys2Proof.Machine
end

