-- ==== Sys2Proof/Machine/Census.lean ====
section
/-! DEFINITION. The census of a core and the quiescence of a launch's phase (R123, R336 to R338). -/

namespace Sys2Proof.Machine

open Sys2Proof

/-- The stored tokens of a list that the census counts: all but STICKY ones (R336). -/
def countedTokens (ts : List Token) : Nat := (ts.filter fun t => t.ma != .sticky).length

/-- Items of an element that the census counts: tokens in its input queues, stored tokens, fired sets and running timers (R336, R341). -/
def Elem.items (el : Elem) : Nat := el.queue.length + countedTokens el.tier1 + el.fired.length + el.timers.length

/-- Items of a node: packets at its ports, pending tasks, a running handler, USED rows, and passes on their way (R336). -/
def Node.items (nd : Node) : Nat :=
  nd.ports.flatten.length + nd.pending.length + (if nd.running.isSome then 1 else 0) + (nd.rows.filter fun r => r.2.used).length +
  nd.passes.length

/-- Accesses whose result has not been emitted. -/
def Core.openAccesses (c : Core) : List Access := c.accesses.filter fun x => !x.over

/-- What a core itself holds for the census (R336). -/
def Core.items (c : Core) : Nat :=
  (c.elems.map fun x => x.2.items).sum + countedTokens c.tier2 + countedTokens c.tier3 + c.arrival.length +
  c.transit.length + (c.nodes.map fun x => x.2.items).sum + c.openAccesses.length + c.gathers.length + c.results.length + c.sc

/-- The census of a core (R336): its own items and its epochs that are not FREE. -/
def State.census (s : State) (k : Nat) : Nat :=
  (s.core k).items + (s.epochs.filter fun e => e.core == k).length

/-- Waiting `phase.wait` of a core. -/
def Core.phaseWaits (c : Core) : List Access := c.accesses.filter fun x => x.opc == 0x1A4 && x.stage == .waiting

/-- Pending tasks of a node whose entry is not valid (R64). -/
def Node.unbound (nd : Node) : List Task := nd.pending.filter fun t => (Tab.find? nd.handlers t.ty).isNone

/-- Unbound parked tasks and stranded packets of a core (R64, R190). -/
def Core.parked (c : Core) : Nat := (c.nodes.map fun x => x.2.unbound.length + x.2.ports.flatten.length).sum

/-- Whether a sequencer stands at a waiting point of R123. -/
def Seq.atBoundary (q : Seq) : Bool :=
  match q.mode, q.waitFor with
  | .halted, _ => true
  | .wait, .pbar _ => true
  | .wait, .pbarFinal _ => true
  | .wait, .halt => true
  | _, _ => false

/-- Whether every sequencer waits and every word pushed has reached its cores (R123). -/
def State.sequencersWait (s : State) (x : Launch) : Bool :=
  x.clusters.all (fun c => (s.seq c).atBoundary) && x.cores.all s.wordsTaken

/-- Whether every stream of a launch has finished. -/
def State.streamsDone (s : State) (x : Launch) : Bool := x.clusters.all fun c => (s.seq c).aps.all fun a => a.2.st != .running

/-- The quiescence of a launch's open phase (R338). -/
def State.quiescent (s : State) (x : Launch) : Bool :=
  x.isOpen && x.st == .running && s.sequencersWait x && s.streamsDone x &&
  x.cores.all fun k => s.census k == (s.core k).phaseWaits.length + (s.core k).parked

end Sys2Proof.Machine
end

