-- ==== Sys2Proof/Machine/Match.lean ====
section
/-! DEFINITION. The matcher of an element: arrival order, the three tiers, firing, DUPTAG, spilling and re-injection (R44 to R51, R326
to R331), and the timed wait (R341). -/

namespace Sys2Proof.Machine

open Sys2Proof

/-! ## What is stored -/

/-- The stored tokens of an element in tiers 1 and 2. -/
def Core.stored (c : Core) (e : Nat) : List Token := (c.elem e).tier1 ++ c.tier2.filter fun t => t.elem == e

/-- Whether a STICKY token matches a tag (R44). -/
def stickyCovers (st : Token) (t : Tag) : Bool :=
  ctxOf st.tag == ctxOf t && depthOf st.tag ≤ depthOf t && st.tag.toNat % 2 ^ (4 * st.slv) == t.toNat % 2 ^ (4 * st.slv)

/-- Whether two sticky tags name the same STICKY token (R44, R51). -/
def sameSticky (st t : Token) : Bool :=
  st.slv == t.slv && ctxOf st.tag == ctxOf t.tag && st.tag.toNat % 2 ^ (4 * t.slv) == t.tag.toNat % 2 ^ (4 * t.slv)

/-- The token of a list that the matcher took first. -/
def earliest : List Token → Option Token
  | [] => none
  | t :: ts => match earliest ts with
    | none => some t
    | some u => if u.ord < t.ord then some u else some t

/-- Whether a token meets a stored one of its operand slot: one of equal tag, or a STICKY one that it falls under (R51). -/
def meetsStored (ts : List Token) (t : Token) : Bool :=
  ts.any fun x => x.slot == t.slot && (x.tag == t.tag || (x.ma == .sticky && stickyCovers x t.tag))

/-- The stored NORMAL or QUEUED token of a slot and tag that is consumed next (R44). -/
def exactMatch (ts : List Token) (slot : Nat) (t : Tag) : Option Token :=
  earliest (ts.filter fun x => x.slot == slot && x.tag == t && x.ma != .sticky)

/-- The STICKY token of a slot that a tag falls under. -/
def stickyMatch (ts : List Token) (slot : Nat) (t : Tag) : Option Token :=
  earliest (ts.filter fun x => x.slot == slot && x.ma == .sticky && stickyCovers x t)

/-- The set that a tag completes with the token given: the tokens by operand slot, or none where a slot is empty or every token is
STICKY (R45, R46). -/
def completes (ts : List Token) (arity : Nat) (sub : Option (BitVec 2)) (t : Tag) (given : Token) : Option (List (Option Token)) :=
  let pick (i : Nat) : Option Token :=
    if i == given.slot then some given
    else match exactMatch ts i t with
      | some x => some x
      | none => stickyMatch ts i t
  let need := (List.range arity).filter fun i => sub != some (BitVec.ofNat 2 i)
  if need.all (fun i => (pick i).isSome) && need.any (fun i => match pick i with | some x => x.ma != .sticky | none => false) then
    some ([0, 1, 2, 3].map fun i => if need.contains i then pick i else none)
  else none

/-! ## Room (R48, R327) -/

/-- Records that a list of tokens occupies in tier 2. -/
def recordsOf (ts : List Token) : Nat := (ts.map Token.records).sum

/-- Records of tier 2 that re-injected tokens on their way to the matchers of a core hold. -/
def Core.flying2 (c : Core) : Nat :=
  (c.elems.map fun x => recordsOf ((x.2.queue.filter fun q => q.hold == some true).map (·.tok))).sum

/-- Entries of tier 1 that re-injected tokens on their way to an element's matcher hold. -/
def Elem.flying1 (el : Elem) : Nat := (el.queue.filter fun q => q.hold == some false).length

/-- Records of the operand store (R20, R48). -/
def Core.tier2Size (c : Core) : Nat := bits c.partw 7 0 * 16384

/-- Whether tier 1 of an element has an entry for a token of an input queue: one that is neither reserved nor held (R48, R327). -/
def Core.room1 (c : Core) (e : Nat) : Bool := (c.elem e).tier1.length + c.reserved1.count e + (c.elem e).flying1 < 8

/-- Whether tier 2 has `n` records for a token of an input queue. -/
def Core.room2 (c : Core) (n : Nat) : Bool := recordsOf c.tier2 + c.reserved2 + c.flying2 + n ≤ c.tier2Size

/-- Reservations end when tier 3 is empty (R327). -/
def Core.trimReserve (c : Core) : Core := if c.tier3.isEmpty then { c with reserved1 := [], reserved2 := 0 } else c

/-- An entry becomes free: the core reserves it while tier 3 holds entries (R327). -/
def Core.freeEntry (c : Core) (t : Token) (in1 : Bool) : Core :=
  if c.tier3.isEmpty then c
  else if in1 then { c with reserved1 := c.reserved1 ++ [t.elem] } else { c with reserved2 := c.reserved2 + t.records }

/-- Remove a stored token. -/
def Core.unstore (c : Core) (t : Token) : Core :=
  if (c.elem t.elem).tier1.contains t then
    (c.onElem t.elem fun el => { el with tier1 := el.tier1.erase t }).freeEntry t true
  else if c.tier2.contains t then ({ c with tier2 := c.tier2.erase t } : Core).freeEntry t false
  else c

/-- Put a token in tier 1 of its element. -/
def Core.store1 (c : Core) (t : Token) : Core := c.onElem t.elem fun el => { el with tier1 := el.tier1 ++ [t] }

/-- Put a token's records in tier 2. -/
def Core.store2 (c : Core) (t : Token) : Core := { c with tier2 := c.tier2 ++ [t.recorded] }

/-- Store a token that completes no set: a re-injected one in the entry that it holds (R327), another in tier 1, else tier 2, else
tier 3, else it is lost with OVFL (R48, R326, R328). The first result tells whether it is kept. -/
def State.store (s : State) (k : Nat) (hold : Option Bool) (t : Token) : Bool × State :=
  let c := s.core k
  if hold == some false || (hold.isNone && c.room1 t.elem) then (true, s.onCore k (·.store1 t))
  else if hold == some true || c.room2 t.records then (true, s.onCore k (·.store2 t))
  else match s.spillTake k t.records with
    | some s => (true, s.onCore k fun c => { c.count cntSpilled with tier3 := c.tier3 ++ [t.recorded] })
    | none => (false, (s.onCore k (·.count cntOvfl)).overflowToken k t.elem t.slot t)

/-! ## Firing -/

/-- Whether a set holds a flagged token and a NORMAL or QUEUED token stored before it arrived (R331). -/
def flagCollides (ts : List (Option Token)) : Bool :=
  ts.any fun f => match f with
    | some f => f.fab && ts.any fun p => match p with | some p => p.ma != .sticky && p.ord < f.ord | none => false
    | none => false

/-- The tag and the instance of a set: those of its NORMAL or QUEUED tokens (R52). -/
def setTag (ts : List (Option Token)) : Tag × Tag :=
  match ts.find? fun t => match t with | some t => t.ma != .sticky | none => false with
  | some (some t) => (t.tag, t.inst.getD t.tag)
  | _ => (0, 0)

/-- Whether a set holds the b token of a `wait.t` (R341). -/
def holdsLimit (ts : List (Option Token)) : Bool := match ts.getD 1 none with | some b => b.ma != .sticky | none => false

/-- Fire a set: stored NORMAL and QUEUED tokens are consumed, STICKY ones stay (R44, R49); the timer of a b token ends with it (R341). -/
def State.fire (s : State) (k e : Nat) (ts : List (Option Token)) : State :=
  let c := s.core k
  let slow := ts.any fun t => match t with | some t => c.tier2.contains t | none => false
  let c := ts.foldl (fun c t => match t with | some t => if t.ma == .sticky then c else c.unstore t | none => c) c
  let c := if flagCollides ts then c.count cntFabColl else c
  let (tag, inst) := setTag ts
  s.setCore k (c.onElem e fun el =>
    { el with fired := el.fired ++ [{ toks := ts, tag := tag, inst := inst, due := s.now + 1,
                                      search := if slow then some (s.now + 8) else none }],
              timers := if holdsLimit ts then el.timers.filter fun x => x.tag != tag else el.timers })

/-- Fire a token alone (R181, R341). -/
def State.fireAlone (s : State) (k e : Nat) (t : Token) : State :=
  s.fire k e ([0, 1, 2, 3].map fun i => if i == t.slot then some t else none)

/-- A DUPTAG F token for an arriving token (R51). -/
def State.dupTag (s : State) (k e : Nat) (a : ElemArgs) (t : Token) : State :=
  let el := s.elem k e
  s.raise { k := k, e := e, args := a, frame := el.frame, slot := el.slot, inst := t.inst.getD t.tag, ready := s.now + 1 }
    fcDuptag 0 t.tag t.d

/-- Fire every set that an arriving STICKY token completes, one for each stored token that falls under it (R44, R48). -/
def State.fireUnder (s : State) (k e : Nat) (a : ElemArgs) (st : Token) : Nat → State
  | 0 => s
  | fuel + 1 =>
    let ts := (s.core k).stored e ++ [st]
    let ready := ts.filter fun x => x.ma != .sticky && x.slot != st.slot && stickyCovers st x.tag &&
      (completes ts (a.arity.toNat + 1) a.sub x.tag x).isSome
    match earliest ready with
    | none => s
    | some x =>
      match completes ts (a.arity.toNat + 1) a.sub x.tag x with
      | none => s
      | some set => (s.fire k e set).fireUnder k e a st fuel

/-- The timer of a tag ends. -/
def Elem.endTimer (el : Elem) (t : Tag) : Elem := { el with timers := el.timers.filter fun x => x.tag != t }

/-- The ordinary firing rule for an arriving token (R44, R45, R51). A STICKY token fires the sets that it completes and is stored. Of
several STICKY tokens that a PURGE token names, the one stored first is removed (assumption log 121). -/
def State.matchToken (s : State) (k e : Nat) (a : ElemArgs) (hold : Option Bool) (t : Token) : State :=
  let ts := (s.core k).stored e
  match t.ma with
  | .purge =>
    match earliest (ts.filter fun x => x.ma == .sticky && x.slot == t.slot && sameSticky x t) with
    | some x =>
      let s := s.onCore k (·.unstore x)
      if x.slot == 1 then s.onElem k e (·.endTimer x.tag) else s
    | none => s.countCore k cntStrayPurge
  | .sticky =>
    if a.arity == 0 then s.countCore k cntStraySticky
    else if meetsStored ts t && ts.any fun x => x.ma == .sticky && x.slot == t.slot && sameSticky x t then s.dupTag k e a t
    else ((s.fireUnder k e a t (ts.length + 1)).store k hold t).2
  | _ =>
    if t.ma == .normal && meetsStored ts t then s.dupTag k e a t
    else if (exactMatch ts t.slot t.tag).isSome then (s.store k hold t).2
    else match completes ts (a.arity.toNat + 1) a.sub t.tag t with
      | some set => s.fire k e set
      | none => (s.store k hold t).2

/-! ## The timed wait (R341) -/

/-- Start the timer of a b token that is stored in whichever tier; a re-injected one has its timer. -/
def Elem.startTimer (el : Elem) (now : Nat) (t : Token) : Elem :=
  if el.timers.any fun x => x.tag == t.tag then el else { el with timers := el.timers ++ [{ tag := t.tag, expiry := now + t.val.toNat }] }

/-- The cycle that the timers of a core's launch have come to: they stand still once PREEMPT has stopped it (R439, R446). -/
def State.timerNow (s : State) (k : Nat) : Nat := ((s.coreLaunch k).bind fun x => x.2.stopAt).getD s.now

/-- An F token in b is forwarded at once, and a timer that runs for another b token of its tag goes on (R54, R341). -/
def State.forwardLimit (s : State) (k e : Nat) (hold : Option Bool) (t : Token) : State :=
  let ts := (s.elem k e).timers
  let s := s.fireAlone k e { t with ma := .normal }
  if hold.isNone then s.onElem k e fun el => { el with timers := ts } else s

/-- What the matcher does with a NORMAL or QUEUED token of a `wait.t`. An F token in b that finds no partner is forwarded at once, a
timer of its tag or not (assumption log 121). -/
def State.matchWait (s : State) (k e : Nat) (a : ElemArgs) (hold : Option Bool) (t : Token) : State :=
  let ts := (s.core k).stored e
  let el := s.elem k e
  if t.slot == 1 then
    match completes ts 2 none t.tag t with
    | some set => s.fire k e set
    | none =>
      if t.origin.isSome then s.forwardLimit k e hold t
      else if (t.ma == .normal && meetsStored ts t) || (exactMatch ts 1 t.tag).isSome then
        (if hold.isSome then s.onElem k e (·.endTimer t.tag) else s).dupTag k e a t
      else if hold.isNone && el.timers.any fun x => x.tag == t.tag then s.dupTag k e a t
      else
        let (kept, s) := s.store k hold t
        if kept then s.onElem k e (·.startTimer (s.timerNow k) t) else s
  else if el.tombs.contains t.tag then
    s.onCore k fun c => (c.onElem e fun el => { el with tombs := el.tombs.erase t.tag }).count cntLate
  else if t.ma == .normal && meetsStored ts t then s.dupTag k e a t
  else match completes ts 2 none t.tag t with
    | some set => s.fire k e set
    | none => (s.store k hold t).2

/-- What the matcher does with a STICKY b token of a `wait.t`: one that completes no set starts a timer as it is stored, and stands until
the timer ends (assumption log 121). -/
def State.matchStickyLimit (s : State) (k e : Nat) (a : ElemArgs) (hold : Option Bool) (t : Token) : State :=
  let n := (s.elem k e).fired.length
  let s' := s.matchToken k e a hold t
  let kept := ((s'.core k).stored e ++ (s'.core k).tier3).any fun x => x.recorded == t.recorded
  if (s'.elem k e).fired.length != n then s'
  else if t.origin.isSome then s.forwardLimit k e hold t
  else if kept then s'.onElem k e (·.startTimer (s.timerNow k) t)
  else s'

/-- The timer of an element that has expired (R341). -/
def Elem.expired (el : Elem) (now : Nat) : Option Timer := el.timers.find? fun x => x.expiry < now

/-- The b token that a timer stands for, and the core without it: a stored one, one in tier 3, or a re-injected one that the matcher has
not taken yet. -/
def Core.takeLimit (c : Core) (e : Nat) (t : Tag) : Option (Token × Core) :=
  let mine (x : Token) : Bool := x.elem == e && x.slot == 1 && x.tag == t
  match (exactMatch (c.stored e) 1 t).orElse fun _ => (c.stored e).find? mine with
  | some b => some (b, c.unstore b)
  | none =>
    match takeFirst mine c.tier3 with
    | some (b, rest) => some (b, { c with tier3 := rest })
    | none =>
      match takeFirst (fun q : Queued => q.hold.isSome && mine q.tok) (c.elem e).queue with
      | some (q, rest) => some (q.tok, (c.onElem e fun el => { el with queue := rest }).freeEntry q.tok (q.hold == some false))
      | none => none

/-- R341 WAIT_T_TIMEOUT: the b token is removed, a tombstone stands for the tag, and TIMEOUT is emitted with D(b). -/
def execWaitTTimeout (s : State) : Out :=
  atElem s fun k e =>
    let el := s.elem k e
    match el.expired (s.timerNow k), el.instr.bind elemParts with
    | some x, some (_, a) =>
      let s := s.onElem k e fun el => { el with timers := el.timers.erase x }
      match (s.core k).takeLimit e x.tag with
      | none => s
      | some (b, c) =>
        let s := if (s.core k).tier3.length == c.tier3.length then s else s.spillGive k b.records
        let s := s.onCore k fun _ => (c.onElem e fun el => { el with tombs := el.tombs ++ [x.tag] }).trimReserve
        s.yield { k := k, e := e, args := a, frame := el.frame, slot := el.slot, inst := b.inst.getD b.tag, ready := s.now + 1 }
          { vals := [0, b.val.toNat, 0, 0], toks := [none, some b, none, none], tag := b.tag }
          (.emit [some 0, some 1, some 1] (tagApply a.tagOp b.tag) b.d false true)
    | _, _ => s

/-- R341 `wait.t`: COMPLETED, the value to F1 and the status to F2 and F3. -/
def execWaitT (a : ElemArgs) (s : State) : Out :=
  issuePure s a false 1 fun o => .emit [some (BitVec.ofNat 32 (o.val 0)), some 0, some 0] (tagApply a.tagOp o.tag) o.dAll false true

/-! ## The matcher's step -/

/-- The token that the matcher takes next: a re-injected one, else the one that entered first, ties to the lower slot (R47). -/
def nextQueued (q : List Queued) : Option Queued :=
  match q.find? fun x => x.hold.isSome with
  | some x => some x
  | none => q.foldl (fun best x => match best with
    | none => some x
    | some b => if x.entered < b.entered || (x.entered == b.entered && x.tok.slot < b.tok.slot) then some x else best) none

/-- A re-injected token that was not stored leaves the entry that it held free, and so reserved for the next one (R327). -/
def Core.releaseHold (c : Core) (e : Nat) (hold : Option Bool) (t : Token) : Core :=
  match hold with
  | none => c
  | some in2 => if (c.stored e).contains t then c else c.freeEntry t !in2

/-- R48 MATCHER_TAKE: at most one token a cycle. -/
def execMatcherTake (s : State) : Out :=
  atElem s fun k e =>
    let el := s.elem k e
    match nextQueued el.queue, el.instr.bind elemParts with
    | some q, some (opc, a) =>
      if s.now < el.takeFrom || (el.expired (s.timerNow k)).isSome then s
      else
        let (n, s) := s.newId
        let t := { q.tok with ord := n }
        let s := s.onCore k fun c =>
          c.onElem e fun el => { el with queue := el.queue.erase q, takeFrom := s.now + 1 }
        let s :=
          if a.arity.toNat < t.slot then s
          else if a.sub == some (BitVec.ofNat 2 t.slot) then s.dupTag k e a t
          else if opc == 0x102 then
            match t.ma with
            | .sticky => s.countCore k cntStraySticky
            | .purge => s.countCore k cntStrayPurge
            | _ => s.fireAlone k e t
          else if opc == 0x1A5 && (t.ma == .normal || t.ma == .queued) then s.matchWait k e a q.hold t
          else if opc == 0x1A5 && t.ma == .sticky && t.slot == 1 then s.matchStickyLimit k e a q.hold t
          else s.matchToken k e a q.hold t
        s.onCore k fun c => (c.releaseHold e q.hold t).trimReserve
    | _, _ => s

/-- Whether the search of a fired set has come back. -/
def Fired.returned (x : Fired) (now : Nat) : Bool := match x.search with | some c => c ≤ now | none => false

/-- R49 TIER2_SEARCH_RETURN: the first search of the element that has come back. -/
def execTier2SearchReturn (s : State) : Out :=
  atElem s fun k e => s.onElem k e fun el =>
    { el with fired := replaceFirst (·.returned s.now) (fun x => { x with search := none, due := s.now + 1 }) el.fired }

/-! ## Re-injection (R50, R327) -/

/-- The free entry that a tier-3 token can take, reserved or not: false in tier 1, true in tier 2 (R50, R327). -/
def Core.entryFor (c : Core) (t : Token) : Option Bool :=
  if (c.elem t.elem).tier1.length + (c.elem t.elem).flying1 < 8 then some false
  else if recordsOf c.tier2 + c.flying2 + t.records ≤ c.tier2Size then some true
  else none

/-- A re-injected token holds a free entry, a reserved one where there is one. -/
def Core.holdEntry (c : Core) (t : Token) (in2 : Bool) : Core :=
  if in2 then { c with reserved2 := c.reserved2 - t.records } else { c with reserved1 := c.reserved1.erase t.elem }

/-- The oldest entry of tier 3 for the element of a token (R42, R50). -/
def Core.oldestOf (c : Core) (t : Token) : Token :=
  c.tier3.foldl (fun best x =>
    if x.elem == t.elem && tagOlder (c.frame (c.elem t.elem).frame).levels x.tag best.tag then x else best) t

/-- The entry of tier 3 that is re-injected next, with the entry that it takes: the oldest of its element that finds room, the elements
in the order of their first entries (R50, R327). -/
def Core.nextReinject (c : Core) : Option (Token × Bool) :=
  c.tier3.findSome? fun t => (c.entryFor (c.oldestOf t)).map fun h => (c.oldestOf t, h)

/-- R327 TIER3_REINJECT: the first eligible entry goes to its matcher. -/
def execTier3Reinject (s : State) : Out :=
  atCore s fun k =>
    match (s.core k).nextReinject with
    | none => s
    | some (t, h) =>
      (s.spillGive k t.records).onCore k fun c =>
        (({ c with tier3 := c.tier3.erase t } : Core).holdEntry t h).onElem t.elem fun el =>
          { el with queue := el.queue ++ [{ tok := t, entered := s.now, hold := some h }] }

end Sys2Proof.Machine
end

