-- ==== Sys2Proof/Machine/Record.lean ====
section
/-! DEFINITION. What the device reports: completion records and signals of queue commands (R132, R135, R378), trap records and fault
rings (R428 to R432), and the end of a launch (R126, R343). -/

namespace Sys2Proof.Machine

open Sys2Proof

/-! ## Memory of a queue's commands (R378) -/

/-- Eight-byte or longer reads at a queue's address: in its ASID, or on the bus for a queue whose ASID lies in no partition. -/
def State.queueRead (s : State) (asid va n : Nat) : Except Nat (List Byte) × State :=
  match s.asidPart asid with
  | some _ => s.sysRead none asid va n clsOpen
  | none =>
    if s.hostDead.any fun r => r.1 < va + n && va < r.2 then (.error fcTrans, s) else (.ok (readBytes s.hostMem va n), s.postAll)

def State.queueWrite (s : State) (asid va : Nat) (bs : List Byte) : Except Nat Unit × State :=
  match s.asidPart asid with
  | some _ =>
    let (r, s) := s.sysWrite none asid va bs clsOpen
    (r, s.settle)
  | none => (.ok (), { s with hostMem := writeBytes s.hostMem va bs, posted := [] })

/-- The partition that a queue acts for: that of its ASID, which for a queue of a VF must be the VF's own (R378). -/
def State.queuePart (s : State) (q : Nat) : Option Nat :=
  (s.asidPart (s.queue q).asid).filter fun p => Config.queueFn q == 0 || (s.part p).vf == Config.queueFn q

/-- Write the signal of a queue's command. A PF queue whose ASID lies in no partition names a bus address; a VF queue that has no
partition reaches nothing (R378). -/
def State.signalWrite (s : State) (q va : Nat) (bs : List Byte) : Except Nat Unit × State :=
  if (s.queuePart q).isSome || Config.queueFn q == 0 then s.queueWrite (s.queue q).asid va bs else (.error fcTrans, s)

/-- Whether an 8-byte object passes the checks of R125: aligned, and a page of class OPEN that may be read or written. -/
def State.objectOk (s : State) (asid va : Nat) (wr : Bool) : Bool × State :=
  if va % 8 != 0 then (false, s)
  else match s.asidPart asid with
    | none => (true, s)
    | some _ =>
      match s.translateAll none none asid (pageParts va 8) with
      | (none, s) => (false, s)
      | (some ps, s) => ((s.sysCheck ps wr clsOpen).isNone, s)

/-- Raise an MSI-X vector of a function (R24, R135): it is a write to the host, behind the posted writes before it. -/
def State.raiseVec (s : State) (fn vec : Nat) : State := s.postAll.onFn fn fun f => { f with msix := f.msix ++ [vec] }

/-! ## Trap records (R428 to R432) -/

/-- The fields of a trap record before it has a place in a ring. -/
structure Trap where
  kind : Nat
  action : Nat := 0
  res : Bool := false
  queue : Nat := 0
  word : Word := 0
  otag : Tag := 0
  va : Option Nat := none
  score : Nat := 0
  x : Nat := 0
  y : Nat := 0
  node : Nat := 0
  frame : Nat := 0
  slot : Nat := 0
  cid : Nat := 0
  ctx : Nat := 0
  itag : Tag := 0
  d : Bool := false
  deriving DecidableEq, Repr

/-- The 16 words of a trap record (R430); DRED clears OTAG, ITAG, VA and DETAIL (R398). -/
def Trap.words (t : Trap) (p : Bool) (seq time : Nat) : List Word :=
  let hide (x : Nat) : Nat := if t.d then 0 else x
  let va := match t.va with | some a => 2 ^ 63 + hide (a % 2 ^ 57) | none => 0
  let w (x : Nat) : Word := BitVec.ofNat 32 x
  let two (x : Nat) : List Word := splitWords x 2
  [w (b2n p * 2 ^ 31 + b2n t.d * 2 ^ 30 + t.kind * 2 ^ 28 + t.action * 2 ^ 26 + b2n t.res * 2 ^ 25 + t.queue % 2 ^ 17),
   w (if t.d then t.word.toNat / 256 * 256 else t.word.toNat)] ++ two (hide t.otag.toNat) ++ two va ++
  [w (t.score * 2 ^ 26 + t.x * 2 ^ 21 + t.y * 2 ^ 16 + t.node * 2 ^ 10 + t.frame * 2 ^ 7 + t.slot),
   w (t.cid * 2 ^ 16 + t.ctx)] ++ two (hide t.itag.toNat) ++ [w seq, w time, 0, 0, 0, 0]

/-- Address of a partition's fault ring descriptor (R432). -/
def ringDescVa : Nat := 0x1FE * 2 ^ 48

/-- Post a record to a partition's fault ring (R432). -/
def State.post (s : State) (p : Nat) (t : Trap) : State :=
  let x := s.part p
  let r := x.ring
  let s := s.onPart p fun q => { q with ring := { q.ring with seq := q.ring.seq + 1 } }
  if !r.enabled || r.error then s.countPart p cntLost
  else match s.sysRead none x.first (ringDescVa + 16) 4 clsOpen with
    | (.error _, s) => (s.onPart p fun q => { q with ring := { q.ring with error := true } }).countPart p cntLost
    | (.ok bs, s) =>
      let n := 2 ^ (4 + r.size)
      if n ≤ (r.wi - BitVec.ofNat 32 (ofLeBytes bs)).toNat then s.countPart p cntLost
      else
        let ws := t.words (r.wi.toNat / n % 2 == 0) r.seq.toNat (s.board.micros % 2 ^ 32)
        match s.sysWrite none x.first (r.base + 64 * (r.wi.toNat % n)) (bytesOfWords ws) clsOpen with
        | (.error _, s) => s.onPart p fun q => { q with ring := { q.ring with error := true } }
        | (.ok _, s) =>
          let s := (s.onPart p fun q => { q with ring := { q.ring with wi := q.ring.wi + 1 } }).settle
          if r.en then s.raiseVec (if r.vfi then x.vf else 0) r.vec else s

/-- Post a record for an event of a core, which its counter FAULT.TRAPS counts (R438). -/
def State.postCore (s : State) (k p : Nat) (t : Trap) : State := (s.countCore k cntTraps).post p t

/-! ## Completion (R132, R133, R135) -/

/-- Write a completion record in the slot of a command (R132): a write to the host, behind the posted writes before it. -/
def State.writeCompletion (s : State) (q : Nat) (k : Word) (status cid d0 d1 : Nat) : State :=
  let wq := s.queue q
  let n := 2 ^ (4 + wq.size)
  let w0 := b2n (k.toNat / n % 2 == 0) * 2 ^ 31 + status * 2 ^ 16 + cid % 2 ^ 16
  { s with hostMem := writeBytes s.hostMem (wq.crbase + 16 * (k.toNat % n)) (leBytes w0 4 ++ leBytes d0 4 ++ leBytes d1 8), posted := [] }

/-- Complete a command: record, signal, interrupt (R135). R advances past the command (R132), also past a LAUNCH ahead of it that still
runs, whose own record then leaves R as it is (assumption log 118); BADCMD puts the queue into ERROR (R99). -/
def State.finishCmd (s : State) (q : Nat) (k : Word) (h : CmdHeader) (status d0 d1 : Nat) : State :=
  let s := s.writeCompletion q k status h.cid.toNat d0 d1
  let wq := s.queue q
  let ahead := (k + 1 - wq.r).toNat
  let s := s.onQueue q fun x => { x with r := if 1 ≤ ahead && ahead ≤ 2 ^ (4 + x.size) then k + 1 else x.r,
                                         error := x.error || status == stBadCmd }
  let s := match h.sig with
    | none => s
    | some (a, v) =>
      if status == stBadCmd || status == stBadAddr then s
      else match s.signalWrite q a.toNat (leBytes v.toNat 8) with
        | (.ok _, s) => s
        | (.error c, s) =>
          match s.queuePart q with
          | none => s
          | some p => s.post p { kind := 3, queue := q, word := faultWord c 0 0 0 0, cid := h.cid.toNat, va := some a.toNat }
  if h.irq then s.raiseVec (Config.queueFn q) wq.vec else s

/-- The queue's head command completes: the next one comes to the head (R134). -/
def State.completeHead (s : State) (q : Nat) (h : CmdHeader) (status : Nat) (d0 d1 : Nat := 0) : State :=
  let k := (s.queue q).next
  (s.finishCmd q k h status d0 d1).onQueue q fun x => { x with next := k + 1, head := .idle, drain := false }

/-! ## The end of a launch (R20, R21, R126, R343, R353) -/

/-- What a node holds until the first configuration word of the next launch (R189, R205, R213). -/
def Node.kept (n : Node) : Node :=
  { w := n.w, bank0 := n.bank0, bank1 := n.bank1, active := n.active, lb := n.lb, e := n.e, rc := n.rc, rows := n.rows }

/-- A core is free again: what R21 lets the next launch find is kept, and what is zeroed at the next dispatch or first configuration
word (R189, R213, R271, R438). -/
def Core.freed (c : Core) : Core :=
  { partw := c.partw, prev := c.prev, cells := c.cells, empties := c.empties, dmarks := c.dmarks, poisoned := c.poisoned,
    tlb := c.tlb, tiles := c.tiles, rings := c.rings, nodes := c.nodes.map fun (x : Nat × Node) => (x.1, x.2.kept), user := c.user,
    counters := c.counters }

/-- Free the cores, sequencers and barrier routes of a launch; its slot bindings end with it (R353). -/
def State.freeLaunch (s : State) (l : Nat) : State :=
  let x := s.launch l
  let s := x.cores.foldl (fun s k => if (s.core k).launch == some l then s.onCore k Core.freed else s) s
  let s := x.clusters.foldl (fun s c => s.onSeq c fun _ => {}) s
  let s := match x.part with
    | some p =>
      let drop (r : Route) : Route := if r.holder == some l then { r with holder := none, due := [] } else r
      s.onPart p fun q => { q with routes := q.routes.map fun (r : Nat × Route) => (r.1, drop r.2) }
    | none => s
  let idle (w : WorkQueue) : WorkQueue := if w.launch == some l then { w with launch := none } else w
  { s with launches := Tab.del s.launches l,
           queues := s.queues.map fun (w : Nat × WorkQueue) => (w.1, idle w.2) }

/-- A launch ends with a status: its cores and routes are freed and the command that reports it completes. A command that still stands
at the head of its queue, a RESUME issued on another queue, leaves it. -/
def State.endLaunch (s : State) (l status d0 d1 : Nat) : State :=
  let x := s.launch l
  let s := (s.freeLaunch l).finishCmd x.cq x.idx x.hdr status d0 d1
  if (s.queue x.cq).next == x.idx then s.onQueue x.cq fun w => { w with next := x.idx + 1, head := .idle, drain := false } else s

/-- Completion of a launch whose clusters have all halted: OK, or KILLED where a context was killed (R126, R434). -/
def State.haltLaunch (s : State) (l : Nat) : State :=
  let x := s.launch l
  if 0 < x.kills then s.endLaunch l stKilled x.kills (x.firstKill.getD 0) else s.endLaunch l stOk 0 0

/-! ## Signing (R415) -/

/-- The next index of the identity key, or the status that refuses signing (R415). A new block of 1,024 indices is reserved in the flash;
whether its record reads back good is a free value. -/
def State.signIndex (s : State) : Except Nat Nat × State :=
  let x := s.signing
  if x.refused then (.error stSigState, s)
  else if 2 ^ 60 ≤ x.index then (.error stSigExh, s)
  else if x.index < x.blockEnd then (.ok x.index, { s with signing := { x with index := x.index + 1 } })
  else
    let (w, s) := s.freeWord 415
    if bit w.toNat 0 then (.error stSigState, { s with signing := { x with refused := true } })
    else (.ok x.index, { s with signing := { x with index := x.index + 1, blockEnd := x.index + 1024 } })

end Sys2Proof.Machine
end

