-- ==== Sys2Proof/Machine/Seq.lean ====
section
/-! DEFINITION. The cluster sequencer: issue, stall field and interlock (R110 to R112), scalar instructions (R113), loads and stores
(R114, R115), branches and jumps (R116), traps (R127, R128). -/

namespace Sys2Proof.Machine

open Sys2Proof

/-! ## Registers and failure -/

/-- A general register; x0 reads zero (R108). -/
def Seq.reg (q : Seq) (x : BitVec 5) : DWord := if x == 0 then 0 else Tab.get 0 q.x x.toNat

/-- Write a general register; a write to x0 is discarded (R108). -/
def Seq.setReg (q : Seq) (x : BitVec 5) (v : DWord) : Seq := if x == 0 then q else { q with x := Tab.set q.x x.toNat v }

/-- Note when the result of a producer is readable (R111). -/
def Seq.setReady (q : Seq) (x : BitVec 5) (from_ : Nat) (fixed : Bool) : Seq :=
  if x == 0 then q else { q with ready := Tab.set q.ready x.toNat { from_ := from_, fixed := fixed } }

/-- The launch that a sequencer runs. -/
def State.seqLaunch (s : State) (c : Nat) : Option (Nat × Launch) := s.coreLaunch (4 * c)

/-- The launch of a sequencer fails (R133): a control program from a SEQIMG image reports its pc, a generated one its block and entry. -/
def State.seqFail (s : State) (c status : Nat) (code : Nat := 0) : State :=
  match s.seqLaunch c with
  | none => s
  | some (l, _) =>
    let q := s.seq c
    let f : Failure := if q.ranNative then { status := status, detail0 := q.pc, code := code }
      else match q.gen with
        | a :: _ => { status := status, detail0 := a.entry, detail1 := a.block, code := code }
        | [] => { status := status, code := code }
    (s.failLaunch l f).onSeq c fun q => { q with mode := .stopped }

/-- The launch fails with SEQFAULT: the fault code and the virtual address (R114). -/
def State.seqFault (s : State) (c code va : Nat) : State :=
  match s.seqLaunch c with
  | none => s
  | some (l, _) =>
    (s.failLaunch l { status := stSeqFault, detail0 := code, detail1 := va, code := code, va := some va }).onSeq c
      fun q => { q with mode := .stopped }

/-! ## Issue (R110 to R112) -/

/-- The hold of R112: whether an instruction that reads these registers may issue now, with the counter SEQ.SHORTSTALL and the cycle of
issue that a hold behind a producer of fixed latency leaves. -/
def Seq.gate (q : Seq) (now : Nat) (reads : List (BitVec 5)) : Bool × Seq :=
  if now < q.issueFrom then (false, q) else
  let rs := (reads.filter (· != 0)).map fun x => Tab.get {} q.ready x.toNat
  let fixed := (rs.filter (·.fixed)).foldl (fun m r => max m r.from_) 0
  let var := (rs.filter fun r => !r.fixed).foldl (fun m r => max m r.from_) 0
  let q := if q.issueFrom < fixed then { q with shortstall := q.shortstall + 1, issueFrom := fixed } else q
  (decide (q.issueFrom ≤ now) && decide (var ≤ now), q)

/-- Run a sequencer instruction if it may issue: the launch runs, the sequencer is not waiting, and the interlock lets it (R112). -/
def seqIssue (s : State) (reads : List (BitVec 5)) (act : State → Nat → State) : Out :=
  atSeq s fun c =>
    match s.seqLaunch c with
    | none => s
    | some (_, l) =>
      if l.st != .running || (s.seq c).mode != .run then s
      else
        let (ok, q) := (s.seq c).gate s.now reads
        let s := s.onSeq c fun _ => q
        if ok then act s c else s

/-- The instruction retires: the next one issues no earlier than its stall field lets it (R110). -/
def State.seqStall (s : State) (c : Nat) (stall : Nat) : State := s.onSeq c fun q => { q with issueFrom := s.now + 1 + stall }

/-- Go on at a new pc, which must be one that R116 allows; a generated program goes on with its next action. BADSEQ reports the pc of the
instruction that issued, not the bad one: R133 says only "pc" (assumption log 144). -/
def State.seqGo (s : State) (c pc : Nat) : State :=
  if !(s.seq c).ranNative then s.onSeq c fun q => { q with gen := q.gen.tail }
  else if pcOk pc then s.onSeq c fun q => { q with pc := pc }
  else s.seqFail c stBadSeq

/-- Retire in sequence. -/
def State.seqNext (s : State) (c : Nat) (stall : BitVec 3) : State := (s.seqStall c stall.toNat).seqGo c ((s.seq c).pc + 4)

/-- An instruction that writes a register with a producer latency (R111). -/
def State.seqWrite (s : State) (c : Nat) (x : BitVec 5) (v : DWord) (lat : Nat) (fixed : Bool) : State :=
  s.onSeq c fun q => (q.setReg x v).setReady x (s.now + lat) fixed

/-! ## Scalar instructions (R113) -/

/-- `SignExt` of an immediate to 64 bits. -/
def sext64 {n : Nat} (b : BitVec n) : DWord := b.signExtend 64

/-- An R-form instruction. -/
def seqR (s : State) (stall : BitVec 3) (xd xa xb : BitVec 5) (lat : Nat) (f : DWord → DWord → DWord) : Out :=
  seqIssue s [xa, xb] fun s c =>
    (s.seqWrite c xd (f ((s.seq c).reg xa) ((s.seq c).reg xb)) lat true).seqNext c stall

/-- An I-form instruction with its operand B. -/
def seqI (s : State) (stall : BitVec 3) (xd xa : BitVec 5) (b : DWord) (f : DWord → DWord → DWord) : Out :=
  seqIssue s [xa] fun s c => (s.seqWrite c xd (f ((s.seq c).reg xa) b) 1 true).seqNext c stall

/-- Shift amounts are B[5:0]. -/
def shAmt (b : DWord) : Nat := b.toNat % 64
def opShl (a b : DWord) : DWord := a <<< shAmt b
def opShr (a b : DWord) : DWord := a >>> shAmt b
def opSra (a b : DWord) : DWord := a.sshiftRight (shAmt b)
def opSlt (a b : DWord) : DWord := if a.slt b then 1 else 0
def opSltu (a b : DWord) : DWord := if a.ult b then 1 else 0

/-- R113 `add`. -/
def execSeqAdd (stall : BitVec 3) (xd xa xb : BitVec 5) (s : State) : Out := seqR s stall xd xa xb 1 (· + ·)
/-- R113 `sub`. -/
def execSeqSub (stall : BitVec 3) (xd xa xb : BitVec 5) (s : State) : Out := seqR s stall xd xa xb 1 (· - ·)
/-- R113 `and`. -/
def execSeqAnd (stall : BitVec 3) (xd xa xb : BitVec 5) (s : State) : Out := seqR s stall xd xa xb 1 (· &&& ·)
/-- R113 `or`. -/
def execSeqOr (stall : BitVec 3) (xd xa xb : BitVec 5) (s : State) : Out := seqR s stall xd xa xb 1 (· ||| ·)
/-- R113 `xor`. -/
def execSeqXor (stall : BitVec 3) (xd xa xb : BitVec 5) (s : State) : Out := seqR s stall xd xa xb 1 (· ^^^ ·)
/-- R113 `shl`. -/
def execSeqShl (stall : BitVec 3) (xd xa xb : BitVec 5) (s : State) : Out := seqR s stall xd xa xb 1 opShl
/-- R113 `shr`. -/
def execSeqShr (stall : BitVec 3) (xd xa xb : BitVec 5) (s : State) : Out := seqR s stall xd xa xb 1 opShr
/-- R113 `sra`. -/
def execSeqSra (stall : BitVec 3) (xd xa xb : BitVec 5) (s : State) : Out := seqR s stall xd xa xb 1 opSra
/-- R113 `mul`. -/
def execSeqMul (stall : BitVec 3) (xd xa xb : BitVec 5) (s : State) : Out := seqR s stall xd xa xb 3 (· * ·)
/-- R113 `slt`. -/
def execSeqSlt (stall : BitVec 3) (xd xa xb : BitVec 5) (s : State) : Out := seqR s stall xd xa xb 1 opSlt
/-- R113 `sltu`. -/
def execSeqSltu (stall : BitVec 3) (xd xa xb : BitVec 5) (s : State) : Out := seqR s stall xd xa xb 1 opSltu
/-- R113 `addi`. -/
def execSeqAddi (stall : BitVec 3) (xd xa : BitVec 5) (imm : BitVec 12) (s : State) : Out :=
  seqI s stall xd xa (sext64 imm) (· + ·)
/-- R113 `andi`. -/
def execSeqAndi (stall : BitVec 3) (xd xa : BitVec 5) (imm : BitVec 12) (s : State) : Out :=
  seqI s stall xd xa (sext64 imm) (· &&& ·)
/-- R113 `ori`. -/
def execSeqOri (stall : BitVec 3) (xd xa : BitVec 5) (imm : BitVec 12) (s : State) : Out :=
  seqI s stall xd xa (sext64 imm) (· ||| ·)
/-- R113 `xori`. -/
def execSeqXori (stall : BitVec 3) (xd xa : BitVec 5) (imm : BitVec 12) (s : State) : Out :=
  seqI s stall xd xa (sext64 imm) (· ^^^ ·)
/-- R113 `shli`. -/
def execSeqShli (stall : BitVec 3) (xd xa : BitVec 5) (sh : BitVec 6) (s : State) : Out :=
  seqI s stall xd xa (sh.setWidth 64) opShl
/-- R113 `shri`. -/
def execSeqShri (stall : BitVec 3) (xd xa : BitVec 5) (sh : BitVec 6) (s : State) : Out :=
  seqI s stall xd xa (sh.setWidth 64) opShr
/-- R113 `srai`. -/
def execSeqSrai (stall : BitVec 3) (xd xa : BitVec 5) (sh : BitVec 6) (s : State) : Out :=
  seqI s stall xd xa (sh.setWidth 64) opSra
/-- R113 `slti`. -/
def execSeqSlti (stall : BitVec 3) (xd xa : BitVec 5) (imm : BitVec 12) (s : State) : Out :=
  seqI s stall xd xa (sext64 imm) opSlt
/-- R113 `lui`. -/
def execSeqLui (stall : BitVec 3) (xd : BitVec 5) (imm : BitVec 17) (s : State) : Out :=
  seqIssue s [] fun s c => (s.seqWrite c xd (sext64 imm * 4096) 1 true).seqNext c stall

/-! ## Loads and stores (R114, R115) -/

/-- The address of a load or store. -/
def seqAddr (q : Seq) (xa : BitVec 5) (imm : BitVec 12) : Nat := (q.reg xa + sext64 imm).toNat

/-- Read an aligned value of an OPEN page; a failure fails the launch (R114). -/
def State.seqRead (s : State) (c va n : Nat) : Option Nat × State :=
  match s.seqLaunch c with
  | none => (none, s)
  | some (_, l) =>
    if va % n != 0 then (none, s.seqFault c fcMisalign va)
    else match s.sysRead (some c) l.asid va n clsOpen with
      | (.ok bs, s) => (some (ofLeBytes bs), s)
      | (.error f, s) => (none, s.seqFault c f va)

/-- Write an aligned value to an OPEN page, which no other queue owns if it lies in the KV range (R357); false where the launch failed
(R114). -/
def State.seqStore (s : State) (c va n v : Nat) : Bool × State :=
  match s.seqLaunch c with
  | none => (false, s)
  | some (_, l) =>
    if va % n != 0 then (false, s.seqFault c fcMisalign va)
    else match s.sysWriteBy (some c) l.asid va (leBytes v n) (kvForeign (some l.q)) clsOpen with
      | (.ok _, s) => (true, s.settle)
      | (.error f, s) => (false, s.seqFault c f va)

/-- A load of `n` bytes, zero-extended. -/
def seqLoad (s : State) (stall : BitVec 3) (xd xa : BitVec 5) (imm : BitVec 12) (n : Nat) : Out :=
  seqIssue s [xa] fun s c =>
    match s.seqRead c (seqAddr (s.seq c) xa imm) n with
    | (none, s) => s
    | (some v, s) => (s.seqWrite c xd (BitVec.ofNat 64 v) 1 false).seqNext c stall

/-- A store of the low `n` bytes of a register. -/
def seqSave (s : State) (stall : BitVec 3) (xs xa : BitVec 5) (imm : BitVec 12) (n : Nat) : Out :=
  seqIssue s [xs, xa] fun s c =>
    match s.seqStore c (seqAddr (s.seq c) xa imm) n ((s.seq c).reg xs).toNat with
    | (false, s) => s
    | (true, s) => s.seqNext c stall

/-- R114 `ld`. -/
def execSeqLd (stall : BitVec 3) (xd xa : BitVec 5) (imm : BitVec 12) (s : State) : Out := seqLoad s stall xd xa imm 8
/-- R114 `lw`. -/
def execSeqLw (stall : BitVec 3) (xd xa : BitVec 5) (imm : BitVec 12) (s : State) : Out := seqLoad s stall xd xa imm 4
/-- R114 `sd`. -/
def execSeqSd (stall : BitVec 3) (xs xa : BitVec 5) (imm : BitVec 12) (s : State) : Out := seqSave s stall xs xa imm 8
/-- R114 `sw`. -/
def execSeqSw (stall : BitVec 3) (xs xa : BitVec 5) (imm : BitVec 12) (s : State) : Out := seqSave s stall xs xa imm 4

/-! ## Branches and jumps (R116) -/

/-- The pc of a word offset, taken as an integer: a pc below 0 is none that R116 allows. -/
def pcPlus (pc : Nat) (ofs : Int) : Nat :=
  let t : Int := (pc : Int) + 4 * ofs
  if t < 0 then 0x10000 else t.toNat

/-- A taken branch or jump (R110, R116). -/
def State.seqJump (s : State) (c : Nat) (stall : BitVec 3) (pc : Nat) : State := (s.seqStall c (max stall.toNat 2)).seqGo c pc

/-- A conditional branch. -/
def seqBranch (s : State) (stall : BitVec 3) (xa xb : BitVec 5) (ofs : BitVec 12) (cond : DWord → DWord → Bool) : Out :=
  seqIssue s [xa, xb] fun s c =>
    let q := s.seq c
    if cond (q.reg xa) (q.reg xb) then s.seqJump c stall (pcPlus q.pc ofs.toInt) else s.seqNext c stall

/-- R116 `beq`. -/
def execSeqBeq (stall : BitVec 3) (xa xb : BitVec 5) (ofs : BitVec 12) (s : State) : Out := seqBranch s stall xa xb ofs (· == ·)
/-- R116 `bne`. -/
def execSeqBne (stall : BitVec 3) (xa xb : BitVec 5) (ofs : BitVec 12) (s : State) : Out := seqBranch s stall xa xb ofs (· != ·)
/-- R116 `blt`. -/
def execSeqBlt (stall : BitVec 3) (xa xb : BitVec 5) (ofs : BitVec 12) (s : State) : Out :=
  seqBranch s stall xa xb ofs fun a b => a.slt b
/-- R116 `bge`. -/
def execSeqBge (stall : BitVec 3) (xa xb : BitVec 5) (ofs : BitVec 12) (s : State) : Out :=
  seqBranch s stall xa xb ofs fun a b => !a.slt b
/-- R116 `bltu`. -/
def execSeqBltu (stall : BitVec 3) (xa xb : BitVec 5) (ofs : BitVec 12) (s : State) : Out :=
  seqBranch s stall xa xb ofs fun a b => a.ult b
/-- R116 `bgeu`. -/
def execSeqBgeu (stall : BitVec 3) (xa xb : BitVec 5) (ofs : BitVec 12) (s : State) : Out :=
  seqBranch s stall xa xb ofs fun a b => !a.ult b

/-- R116 `jal`. -/
def execSeqJal (stall : BitVec 3) (xd : BitVec 5) (imm : BitVec 17) (s : State) : Out :=
  seqIssue s [] fun s c =>
    let pc := (s.seq c).pc
    (s.seqWrite c xd (BitVec.ofNat 64 (pc + 4)) 1 true).seqJump c stall (pcPlus pc imm.toInt)

/-- R116 `jalr`: the target is a[15:0], and a non-zero a[63:16] is no pc. -/
def execSeqJalr (stall : BitVec 3) (xd xa : BitVec 5) (imm : BitVec 12) (s : State) : Out :=
  seqIssue s [xa] fun s c =>
    let a := seqAddr (s.seq c) xa imm
    (s.seqWrite c xd (BitVec.ofNat 64 ((s.seq c).pc + 4)) 1 true).seqJump c stall a

/-! ## Traps (R127, R128) -/

/-- Whether a CTXFAULT is taken at the next instruction boundary (R128). -/
def Seq.trapPends (q : Seq) : Bool := !q.ctxfaults.isEmpty && q.tvec != 0 && !q.intrap

/-- R127 `trap`. Like a taken branch it leaves a gap of max(s, 2): R110 names jumps, and R116 lists only `jal` and `jalr` (assumption
log 124). -/
def execSeqTrap (stall : BitVec 3) (code : BitVec 8) (s : State) : Out :=
  seqIssue s [] fun s c =>
    let q := s.seq c
    if q.tvec == 0 || q.intrap then
      match s.seqLaunch c with
      | none => s
      | some (l, _) =>
        (s.failLaunch l { status := stSeqTrap, detail0 := code.toNat }).onSeq c fun q => { q with mode := .stopped }
    else if !pcOk q.tvec.toNat then s.seqFail c stBadSeq
    else (s.seqStall c (max stall.toNat 2)).onSeq c fun q => q.takeTrap 0 code.toNat 0 (q.pc + 4)

/-- R127 `eret`, with the gap of `trap` (assumption log 124). -/
def execEret (stall : BitVec 3) (s : State) : Out :=
  seqIssue s [] fun s c =>
    let q := s.seq c
    if !q.intrap || !pcOk q.epc.toNat then s.seqFail c stBadSeq
    else (s.seqStall c (max stall.toNat 2)).onSeq c fun q => q.returnTrap

/-- R128 CTXFAULT_TAKE: the oldest pending CTXFAULT is taken at an instruction boundary; a waiting instruction is interrupted with its
own address as the return address. A `halt` that waits for its phase to end is interrupted too, which R128's list leaves out (assumption
log 28). -/
def execCtxfaultTake (s : State) : Out :=
  atSeq s fun c =>
    let q := s.seq c
    match q.ctxfaults with
    | [] => s
    | ctx :: rest =>
      if q.tvec == 0 || q.intrap || !(q.mode == .run || q.mode == .wait) || !(s.seqLaunch c).any (fun l => l.2.st == .running) then s
      else if !pcOk q.tvec.toNat then s.seqFail c stBadSeq
      else s.onSeq c fun q => { q.takeTrap 1 0 ctx q.pc with mode := .run, waitFor := .none, ctxfaults := rest }

/-- R97 ILLEGAL_SEQUENCER_INSTRUCTION: a word that no instruction has. -/
def execIllegalSequencerInstruction (s : State) : Out := seqIssue s [] fun s c => s.seqFail c stBadSeq

end Sys2Proof.Machine
end

