-- ==== Sys2Proof/Machine/SeqUnit.lean ====
section
/-! DEFINITION. The fabric-facing instructions of the cluster sequencer: streams (R118 to R121), pushing configuration (R122), parameters
and completion objects (R124, R125), waiting points (R123, R126) and system registers (R109, R129). -/

namespace Sys2Proof.Machine

open Sys2Proof

/-! ## Access-pattern descriptors (R118, R119) -/

/-- Whether a tag may start a stream under a tag operation: DEPTH at most 12, and not 0 under `next` (R119). -/
def streamTagOk (t : Tag) (op : TagOp) : Bool := depthOf t ≤ 12 && !(tagOpCode op == 2 && depthOf t == 0)

/-- The descriptor in 16 words, none where R119 refuses it. -/
def descrOf (ws : List Word) : Option Descr :=
  let w6 := wordAt ws 6
  let kind := bits w6 17 16
  let base := dwordAt ws 0
  let wide := bit w6 30
  let index := bits w6 12 7
  let ma := maOf (bits w6 23 22)
  let slv := bits w6 21 18
  let tag : Tag := BitVec.ofNat 64 (dwordAt ws 8)
  match decodeTagOp (bits (wordAt ws 7) 19 0) with
  | .error _ => none
  | .ok op =>
    if bits base 63 57 != 0 || base % (if wide then 256 else 4) != 0 then none
    else if bits (wordAt ws 5) 31 16 != 0 || bit w6 31 || bits w6 4 0 != 0 || bits (wordAt ws 7) 31 20 != 0 then none
    else if !zeroWords ws [10, 11, 12, 13, 14, 15] || 1 < bits w6 29 28 || 1 < kind then none
    else if wide && (kind == 0 || index == 34 || index == 35) then none
    else if 12 < slv || (slv != 0 && (ma == .normal || ma == .queued)) then none
    else if bits w6 29 28 == 1 && !inWindow base then none
    else if (kind == 0 && 31 < index) || (kind == 1 && 35 < index) then none
    else if tagOpCode op == 1 || tagOpCode op == 3 then none
    else if (bits w6 29 28 != 1 && bits w6 27 24 != 0) || (kind == 1 && bits w6 15 13 != 0) || (kind == 0 && bits w6 6 5 != 0) then none
    else if !streamTagOk tag op then none
    else some { base := base, str1 := signExt (wordAt ws 2) 32, str2 := signExt (wordAt ws 3) 32, cnt0 := bits (wordAt ws 4) 15 0,
                cnt1 := bits (wordAt ws 4) 31 16, cnt2 := bits (wordAt ws 5) 15 0, wide := wide, src := bits w6 29 28,
                mnode := bits w6 27 24, ma := ma, slv := slv, kind := kind, frame := bits w6 15 13, index := index,
                os := bits w6 6 5, tagOp := op, tag := tag }

/-- Bytes of one element of a pattern. -/
def Descr.size (d : Descr) : Nat := if d.wide then 256 else 4

/-- Elements of a pattern. -/
def Descr.total (d : Descr) : Nat := (d.cnt0 + 1) * (d.cnt1 + 1) * (d.cnt2 + 1)

/-- Virtual address of an element of a pattern, e running fastest (R118). -/
def Descr.addr (d : Descr) (i : Nat) : Nat :=
  let e := i % (d.cnt0 + 1)
  let j := i / (d.cnt0 + 1) % (d.cnt1 + 1)
  let k := i / ((d.cnt0 + 1) * (d.cnt1 + 1))
  wrap ((d.base : Int) + (k : Int) * d.str2 + (j : Int) * d.str1 + ((e * d.size : Nat) : Int)) 64

/-- R119 `sbind`: it waits while the register's stream runs. -/
def execSbind (stall : BitVec 3) (xa : BitVec 5) (ap : BitVec 4) (port : BitVec 6) (s : State) : Out :=
  seqIssue s [xa] fun s c =>
    let q := s.seq c
    let va := (q.reg xa).toNat
    match s.seqLaunch c with
    | none => s
    | some (_, l) =>
      if (q.ap ap.toNat).st == .running then s
      else if va % 64 != 0 then s.seqFail c stBadStream
      else match s.sysRead (some c) l.asid va 64 clsOpen with
        | (.error _, s) => s.seqFail c stBadStream
        | (.ok bs, s) =>
          match descrOf (wordsOfBytes bs) with
          | none => s.seqFail c stBadStream
          | some d => (s.onSeq c (·.onAp ap.toNat fun a => { a with descr := d, port := port.toNat, st := .bound })).seqNext c stall

/-- R119 `sgo`: it waits while the register's stream runs, or another register's on the same port. -/
def execSgo (stall : BitVec 3) (xa : BitVec 5) (ap : BitVec 4) (s : State) : Out :=
  seqIssue s [xa] fun s c =>
    let q := s.seq c
    let a := q.ap ap.toNat
    let tag : Tag := if xa == 0 then a.descr.tag else q.reg xa
    if a.st == .free then s.seqFail c stBadStream
    else if a.st == .running then s
    else if q.phase == 0 || !streamTagOk tag a.descr.tagOp then s.seqFail c stBadStream
    else if q.aps.any fun x => x.2.st == .running && x.2.port == a.port then s
    else
      (s.onSeq c (·.onAp ap.toNat fun a =>
        { a with st := .running, pos := 0, tag := tag, count := 0, parked := false, nextEmit := s.now, tile := none, lines := [] })).seqNext c stall

/-- R119 `swait`. -/
def execSwait (stall : BitVec 3) (xd : BitVec 5) (ap : BitVec 4) (s : State) : Out :=
  seqIssue s [] fun s c =>
    let a := (s.seq c).ap ap.toNat
    if a.st == .running then s
    else (s.seqWrite c xd (BitVec.ofNat 64 a.count) 0 false).seqNext c stall

/-! ## Emission (R118, R120, R121, R234, R435) -/

/-- What the next element of a stream gives. -/
inductive StreamRead where
  | wait (tile : Nat)
  | bad (code detail : Nat)
  | ok (bs : List Byte) (d : Bool)
  deriving DecidableEq, Repr

/-- An element read from the scratchpad of a core by a stream with SRC = 1 (R118). Addresses are taken modulo 2^64, and one below the
local window gives PROT 0x62 like an offset past the scratchpad (assumption log 125). -/
def Core.streamScr (c : Core) (va n : Nat) (was : Option Nat) : StreamRead :=
  let off := va - windowBase
  if va < windowBase || c.scrBytes < off + n then .bad fcProt 0x62
  else if was.any fun t => (c.tile t).st == .empty then .bad fcProt 0x31
  else match List.find? (fun t : Nat × Tile => t.2.st == .filling || t.2.st == .draining) (c.tilesOf off n) with
    | some t => .wait t.1
    | none => if c.scrPoisoned off n then .bad fcEccu 0 else .ok (c.scrRead off n) (c.scrDs off n)

/-- What a stream knows of a line: its number and whether it lies in host memory. -/
def streamLine (t : Trans) (line : Nat) : Nat := ((line * 8 + t.cls) * 1024 + t.sdom) * 2 + b2n t.host

/-- The lines of a piece that a stream has not read yet are read, each whole in one access (R234): a fault with its DETAIL, or the lines
that it has read by then. -/
def State.streamLines (s : State) (t : Trans) : List Nat → Tab (List Byte) → Except (Nat × Nat) (Tab (List Byte)) × State
  | [], m => (.ok m, s)
  | l :: ls, m =>
    let u : Trans := { t with pa := 128 * l }
    if (Tab.find? m (streamLine t l)).isSome then s.streamLines t ls m
    else match s.physFault u 128 false with
      | some f => (.error f, s)
      | none =>
        let (bs, s) := s.physRead u 128
        s.streamLines t ls (Tab.set m (streamLine t l) bs)

/-- The lines of every piece of an element. -/
def State.streamPieces (s : State) : List Piece → Tab (List Byte) → Except (Nat × Nat) (Tab (List Byte)) × State
  | [], m => (.ok m, s)
  | p :: ps, m =>
    match s.streamLines p.t (linesTouched p.t.pa p.n) m with
    | (.error f, s) => (.error f, s)
    | (.ok m, s) => s.streamPieces ps m

/-- The bytes of a piece in the lines that a stream has read. -/
def pieceBytes (m : Tab (List Byte)) (p : Piece) : List Byte :=
  (List.range p.n).map fun i => (Tab.get [] m (streamLine p.t ((p.t.pa + i) / 128))).getD ((p.t.pa + i) % 128) 0

/-- An element read from memory by a stream with SRC = 0: a readable OPEN page, or a DERIVED page of the launch's seal domain (R120). It
comes from the one read of its line (R234), with the lines read by then. -/
def State.streamMem (s : State) (c : Nat) (l : Launch) (held : Tab (List Byte)) (va n : Nat) : (StreamRead × Tab (List Byte)) × State :=
  match s.translateAll none (some c) l.asid (pageParts va n) with
  | (none, s) => ((.bad fcTrans 0, held), s)
  | (some ps, s) =>
    if ps.any fun p => !p.t.r then ((.bad fcProt 0, held), s)
    else if ps.any fun p => !(p.t.cls == 0 || (p.t.cls == 2 && l.sdom? == some p.t.sdom)) then ((.bad fcClass 0, held), s)
    else match s.streamPieces ps held with
      | (.error f, s) => ((.bad f.1 f.2, held), s)
      | (.ok m, s) => ((.ok (ps.flatMap (pieceBytes m)) (ps.any fun p => p.t.cls == 2), m), s)

/-- The element whose coordinates a stream's fault word carries (R429). -/
def Core.streamOrigin (c : Core) (d : Descr) : Nat := if d.kind == 1 then firstAttached d.index else c.inputOrigin d.frame d.index

/-- Note that a stream to a block input has raised a fault: its record takes the coordinates of the input's element as the frame is
configured when the record is written (R429). -/
def Core.noteStream (c : Core) (d : Descr) (otag : Tag) (code : Nat) : Core :=
  if d.kind == 1 then c
  else { c with streamFaults := c.streamFaults ++ [{ otag := otag, code := code, frame := d.frame, input := d.index }] }

/-- Task type of the tokens that a stream delivers to a node port (R315). -/
def Launch.streamTask (l : Launch) (k : Nat) (d : Descr) : Nat :=
  let b := l.binding k (4 * d.index + d.os)
  if d.kind == 1 && bit b 31 && bits b 30 29 == 2 then bits b 14 9 else 0

/-- Send an element, or the F token in its place, into the fabric of core `k` (R118, R120). -/
def State.streamSend (s : State) (k port : Nat) (l : Launch) (a : Ap) (lanes : List Word) (d : Bool) (origin : Option Tag) : State :=
  let ds := a.descr
  let task := l.streamTask k ds
  let dest : Dest := if ds.kind == 0 then .input ds.frame ds.index else .node ds.index ds.os
  let msg : Msg := if ds.wide then
      .wide (match origin with
        | some o => { wideFault (lanes.headD 0) o a.tag d with task := task }
        | none => { lanes := lanes, tag := a.tag, d := d, task := task })
    else .narrow { ma := ds.ma, slv := ds.slv, tag := a.tag, val := lanes.headD 0, d := d, origin := origin } task
  s.travel k { chan := [2, port], dest := dest, msg := msg, ready := s.now + 1 }

/-- The end of a stream: its count is recorded (R119). -/
def Ap.finish (a : Ap) : Ap := { a with st := .bound, count := a.pos + 1, pos := a.pos + 1, tile := none, lines := [] }

/-- The stream goes on to its next element, or ends after its last. -/
def Ap.advance (a : Ap) (now : Nat) : Ap :=
  if a.descr.total ≤ a.pos + 1 then a.finish
  else
    let t := match tagApply a.descr.tagOp a.tag with | .ok t => t | .error _ => a.tag
    { a with pos := a.pos + 1, tag := t, nextEmit := now + 1, tile := none }

/-- A stream element cannot be read: an F token in its place ends the stream (R120); under the suspend policy a resolvable fault is
precise at the stream port and the stream keeps its position (R435). -/
def State.streamFault (s : State) (c ap k : Nat) (l : Launch) (a : Ap) (code detail : Nat) : State :=
  let e := (s.core k).streamOrigin a.descr
  let word := faultWord code k (colOf e) (rowOf e) detail
  let s := (s.noteVa k a.tag code (a.descr.addr a.pos)).onCore k (·.noteStream a.descr a.tag code)
  if detail == 0 && (code == fcTrans || code == fcProt) && !l.cmd.kpol && !l.ctxKilled (ctxOf a.tag) then
    (s.onSeq c (·.onAp ap fun a => { a with parked := true })).onCore k fun x => x.addPrecise
      { word := word, otag := a.tag, itag := a.tag, d := false, ctx := ctxOf a.tag, res := true,
        place := { node := 62, slot := a.port % 16 } } none
  else (s.streamSend k (a.port % 16) l a [word] false (some a.tag)).onSeq c (·.onAp ap Ap.finish)

/-- R118 STREAM_EMIT: the next element of a running stream, at most one in a cycle. -/
def execStreamEmit (s : State) : Out :=
  atAp s fun c ap =>
    let a := (s.seq c).ap ap
    let k := 4 * c + a.port / 16
    match s.seqLaunch c with
    | none => s
    | some (_, l) =>
      if l.st != .running || a.st != .running || a.parked || s.now < a.nextEmit then s
      else
        let va := a.descr.addr a.pos
        let (r, s) : (StreamRead × Tab (List Byte)) × State :=
          if a.descr.src == 1 then (((s.core k).streamScr va a.descr.size a.tile, a.lines), s)
          else s.streamMem c l a.lines va a.descr.size
        match r.1 with
        | .wait t => s.onSeq c (·.onAp ap fun a => { a with tile := some t })
        | .bad code detail => s.streamFault c ap k l a code detail
        | .ok bs d =>
          (s.streamSend k (a.port % 16) l a (wordsOfBytes bs) d none).onSeq c (·.onAp ap fun a => { a with lines := r.2 }.advance s.now)

/-! ## Pushing configuration (R68, R72, R101, R122) -/

/-- Whether an image header of 4 words passes R101, but for COUNT and NODE. -/
def imageHeaderOk (ws : List Word) : Bool :=
  wordAt ws 0 == 0x53424C4B && bits (wordAt ws 1) 31 16 == Config.implId &&
  (bits (wordAt ws 1) 15 0 == 0 || bits (wordAt ws 1) 15 0 == Config.grade) &&
  bits (wordAt ws 2) 15 5 == 0 && !bit (wordAt ws 2) 1 && wordAt ws 3 == 0

/-- Whether an element image's header and words pass R101. -/
def elementImageOk (hdr ws : List Word) : Bool :=
  let n := bits (wordAt hdr 2) 31 16
  imageHeaderOk hdr && !bit (wordAt hdr 2) 0 && 2 ≤ n && n ≤ 4095 &&
  bits (wordAt ws 0) 31 26 == 0x10 && bits (wordAt ws (n - 1)) 31 26 == 0x11

/-- Whether a word makes the sequencer refuse the image (R72). -/
def wordRefused (w : Word) : Bool := bits w.toNat 31 30 == 3 || (bits w.toNat 31 30 == 2 && bits w.toNat 29 20 != 0)

/-- A word with the frame field of OPEN or CLOSE replaced (R75, R122). -/
def wordPlaced (f : Nat) (w : Word) : Word :=
  if bits w.toNat 31 26 == 0x10 || bits w.toNat 31 26 == 0x11 then BitVec.ofNat 32 (setBits w.toNat 25 23 f) else w

/-- Stop a sequencer with a launch failure. -/
def State.seqStop (s : State) (c : Nat) (f : Failure) : State :=
  match s.seqLaunch c with
  | none => s
  | some (l, _) => (s.failLaunch l f).onSeq c fun q => { q with mode := .stopped }

/-- The failure of an image that is refused (R133 BADIMAGE). -/
def badImage (va : Nat) : Failure := { status := stBadImage, detail1 := va }

/-- The failure of a launch by its signatures (R406). -/
def badSig (detail : Nat) : Failure := { status := stSig, detail0 := detail, code := fcSig }

/-- The admission that locks a frame for a domain of a partition. -/
def State.lockOf (s : State) (p sdom frame : Nat) : Option Nat :=
  match Tab.find? s.locks frame with
  | some (p', aid) => if p' == p && (s.part p).admissions.any fun a => a.aid == aid && a.sdom == sdom then some aid else none
  | none => none

/-- In a sealed partition every image that a launch fetches lies in frames that one admission of its domain locks (R406). -/
def State.imageLocked (s : State) (c : Option Nat) (li va n : Nat) : Try Unit :=
  let x := s.launch li
  match x.part with
  | none => (.ok (), s)
  | some p =>
    if !(s.part p).sealing then (.ok (), s)
    else match s.translateAll none c x.asid (pageParts va n) with
      | (none, s) => (.error (badImage va), s)
      | (some ps, s) =>
        let aids := ps.map fun q => s.lockOf p x.cmd.sdom.toNat (q.t.pa / 65536)
        match aids.head? with
        | some (some a) =>
          if aids.any Option.isNone then (.error (badSig 0x06), s)
          else if aids.any (· != some a) || x.admission.any (· != a) then (.error (badSig 0x07), s)
          else (.ok (), s.onLaunch li fun x => { x with admission := some a })
        | _ => (.error (badSig 0x06), s)

/-- A launch keeps the images that it has pushed, in order: RESUME pushes them again (R441). -/
def State.notePush (s : State) (li : Nat) (i : Pushed) : State := s.onLaunch li fun x => { x with images := x.images ++ [i] }

/-- Read an image of class IMAGE: its header of 4 words and the words that COUNT gives (R100, R406). -/
def State.readImage (s : State) (c : Option Nat) (li va : Nat) : Try (List Word × List Word) :=
  let asid := (s.launch li).asid
  if va % 256 != 0 then (.error (badImage va), s)
  else match s.sysRead c asid va 16 clsImage with
    | (.error _, s) => (.error (badImage va), s)
    | (.ok h, s) =>
      let hdr := wordsOfBytes h
      let n := 4 * bits (wordAt hdr 2) 31 16
      match s.sysRead c asid (va + 16) n clsImage with
      | (.error _, s) => (.error (badImage va), s)
      | (.ok b, s) => tryThen (s.imageLocked c li va (16 + n)) fun _ s => (.ok (hdr, wordsOfBytes b), s)

/-- The configuration words of an image enter the FIFOs of a cluster's cores: word i of core 4c + j in cycle t + i + 4 j (R68). -/
def State.pushWords (s : State) (c : Nat) (ws : List Word) : State :=
  [0, 1, 2, 3].foldl (fun s j =>
    s.onCore (4 * c + j) fun k => { k with fifo := k.fifo ++ (ws.zipIdx.map fun (w : Word × Nat) => (s.now + w.2 + 4 * j, w.1)) }) s

/-- R122 `bframe`. -/
def execBframe (stall : BitVec 3) (frame : BitVec 3) (s : State) : Out :=
  seqIssue s [] fun s c => (s.onSeq c fun q => { q with bframe := frame.toNat }).seqNext c stall

/-- R122 `bpush`: it retires when the last word has entered core 4c's FIFO. -/
def execBpush (stall : BitVec 3) (xa : BitVec 5) (s : State) : Out :=
  seqIssue s [xa] fun s c =>
    let q := s.seq c
    let va := (q.reg xa).toNat
    match s.seqLaunch c with
    | none => s
    | some (li, _) =>
      match s.readImage (some c) li va with
      | (.error f, s) => s.seqStop c f
      | (.ok (hdr, ws), s) =>
        if !elementImageOk hdr ws then s.seqStop c (badImage va)
        else if ws.any wordRefused then s.seqStop c { status := stBadCfg, detail0 := 4 * c * 2 ^ 24 }
        else
          let s := s.notePush li { cluster := c, va := va, frame := some q.bframe }
          let s := (s.pushWords c (ws.map (wordPlaced q.bframe))).seqNext c stall
          s.onSeq c fun q => { q with issueFrom := max q.issueFrom (s.now + ws.length) }

/-! ## Parameters (R124) -/

/-- Take the oldest parameter, or the value of an ended chain; none while the instruction waits. -/
def Seq.popParam (q : Seq) (wait : Bool) : Option (DWord × Seq) :=
  match q.params with
  | p :: rest => some (p, { q with params := rest })
  | [] => if wait && !q.chainEnded then none else some (DWord.allOnes, q)

/-- R124 `qpop`. -/
def execQpop (stall : BitVec 3) (xd : BitVec 5) (s : State) : Out :=
  seqIssue s [] fun s c =>
    match (s.seq c).popParam true with
    | none => s
    | some (v, q) => ((s.onSeq c fun _ => q).seqWrite c xd v 0 false).seqNext c stall

/-- R124 `qpop.nb`. -/
def execQpopNb (stall : BitVec 3) (xd : BitVec 5) (s : State) : Out :=
  seqIssue s [] fun s c =>
    match (s.seq c).popParam false with
    | none => s
    | some (v, q) => ((s.onSeq c fun _ => q).seqWrite c xd v 0 false).seqNext c stall

/-! ## Completion objects (R125) -/

/-- R125 `cwait`: it retires once the object has reached the target. -/
def execCwait (stall : BitVec 3) (xa xb : BitVec 5) (s : State) : Out :=
  seqIssue s [xa, xb] fun s c =>
    let a := ((s.seq c).reg xa).toNat
    let target := ((s.seq c).reg xb).toNat
    match s.seqRead c a 8 with
    | (none, s) => s
    | (some v, s) =>
      if target ≤ v then s.seqNext c stall
      else (s.seqStall c stall.toNat).onSeq c fun q => { q with mode := .wait, waitFor := .cwait a target }

/-- R125 CWAIT_OBJECT_READ: a waiting `cwait` reads its object again. -/
def execCwaitObjectRead (s : State) : Out :=
  atSeq s fun c =>
    match (s.seq c).mode, (s.seq c).waitFor with
    | .wait, .cwait a target =>
      if !(s.seqLaunch c).any fun l => l.2.st == .running then s
      else match s.seqRead c a 8 with
        | (none, s) => s
        | (some v, s) =>
          if v < target then s
          else (s.onSeq c fun q => { q with mode := .run, waitFor := .none }).seqGo c ((s.seq c).pc + 4)
    | _, _ => s

/-- R125 `cosig`. -/
def execCosig (stall : BitVec 3) (xa xb : BitVec 5) (s : State) : Out :=
  seqIssue s [xa, xb] fun s c =>
    match s.seqStore c ((s.seq c).reg xa).toNat 8 ((s.seq c).reg xb).toNat with
    | (false, s) => s
    | (true, s) => s.seqNext c stall

/-- R125 `cosig.add`: the read and the write are one step at the object's point of order. -/
def execCosigAdd (stall : BitVec 3) (xa xb : BitVec 5) (s : State) : Out :=
  seqIssue s [xa, xb] fun s c =>
    let a := ((s.seq c).reg xa).toNat
    match s.seqRead c a 8 with
    | (none, s) => s
    | (some v, s) =>
      match s.seqStore c a 8 (v + ((s.seq c).reg xb).toNat) with
      | (false, s) => s
      | (true, s) => s.seqNext c stall

/-! ## Waiting points (R123, R126) -/

/-- Stop at a waiting point; PHASE_BOUNDARY completes it. -/
def State.seqWait (s : State) (c : Nat) (stall : BitVec 3) (w : SeqWait) : State :=
  (s.seqStall c stall.toNat).onSeq c fun q => { q with mode := .wait, waitFor := w }

/-- R123 `pbar`. -/
def execPbar (stall : BitVec 3) (xd : BitVec 5) (s : State) : Out := seqIssue s [] fun s c => s.seqWait c stall (.pbar xd)

/-- R123 `pbar.final`. -/
def execPbarFinal (stall : BitVec 3) (xd : BitVec 5) (s : State) : Out := seqIssue s [] fun s c => s.seqWait c stall (.pbarFinal xd)

/-- Whether every program of a launch has ended, and every word pushed has reached its cores (R123, R126). -/
def State.allHalted (s : State) (x : Launch) : Bool :=
  x.clusters.all (fun c => (s.seq c).mode == .halted) && x.cores.all s.wordsTaken

/-- R126 `halt`: it waits for the open phase to end, and the launch completes with its last program. -/
def execHalt (stall : BitVec 3) (s : State) : Out :=
  seqIssue s [] fun s c =>
    match s.seqLaunch c with
    | none => s
    | some (l, x) =>
      if x.isOpen then s.seqWait c stall .halt
      else
        let s := s.onSeq c fun q => { q with mode := .halted }
        if s.allHalted x then s.haltLaunch l else s

/-! ## System registers (R109, R129) -/

/-- The value of a system register; none for a reserved number. -/
def State.sysReg (s : State) (c : Nat) (l : Launch) (n : Nat) : Option DWord :=
  let q := s.seq c
  let v (x : Nat) : Option DWord := some (BitVec.ofNat 64 x)
  match n with
  | 0x00 => v (s.now - q.start)
  | 0x01 => v c
  | 0x02 => v (l.cid % 2 ^ 16 + l.q % 2 ^ 17 * 2 ^ 16)
  | 0x03 => v q.phase
  | 0x04 => v (s.core (4 * c)).partw
  | 0x05 => v (s.core (4 * c + 1)).partw
  | 0x06 => v (s.core (4 * c + 2)).partw
  | 0x07 => v (s.core (4 * c + 3)).partw
  | 0x08 => some l.cmd.hbase
  | 0x09 => some q.tvec
  | 0x0A => some q.epc
  | 0x0B => some q.ecause
  | 0x0C => some q.eval
  | 0x0D => v (b2n q.intrap)
  | 0x0E => some q.shortstall
  | 0x0F => v (match l.sdom? with | some d => 2 ^ 63 + d | none => 0)
  | _ => none

/-- R129 `srd`. -/
def execSrd (stall : BitVec 3) (xd : BitVec 5) (num : BitVec 8) (s : State) : Out :=
  seqIssue s [] fun s c =>
    match s.seqLaunch c with
    | none => s
    | some (_, l) =>
      match s.sysReg c l num.toNat with
      | none => s.seqFail c stBadSeq
      | some v => (s.seqWrite c xd v 2 true).seqNext c stall

/-- R129 `swr`: a write to a read-only register is ignored. -/
def execSwr (stall : BitVec 3) (xa : BitVec 5) (num : BitVec 8) (s : State) : Out :=
  seqIssue s [xa] fun s c =>
    let v := (s.seq c).reg xa
    if 0x0F < num.toNat then s.seqFail c stBadSeq
    else
      (s.onSeq c fun q =>
        if num == 0x09 then { q with tvec := v }
        else if num == 0x0A then { q with epc := v }
        else if num == 0x0E then { q with shortstall := v }
        else q).seqNext c stall

end Sys2Proof.Machine
end

