-- ==== Sys2Proof/Machine/Loader.lean ====
section
/-! DEFINITION. Riuri's loader: command-block chains, the generated control program and sequencer images (R124, R136, R137). -/

namespace Sys2Proof.Machine

open Sys2Proof

/-- A command block. -/
structure Block where
  va : Nat
  kind : Nat
  count : Nat
  ws : List Word
  deriving DecidableEq, Repr

def Block.next (b : Block) : Nat := dwordAt b.ws 14
/-- The 64-bit value of an entry. -/
def Block.entry (b : Block) (i : Nat) : Nat := dwordAt b.ws (1 + 2 * i)
/-- The entries that COUNT uses, with their index. -/
def Block.entries (b : Block) : List (Nat × Nat) := (List.range b.count).map fun i => (i, b.entry i)

/-- Payload words of a kind that hold something: words 1 to the result. -/
def Block.used (b : Block) : Nat :=
  match b.kind with
  | 0x01 | 0x02 | 0x04 => 2 * b.count
  | 0x05 => 2
  | 0x06 => 4
  | 0x07 => 5
  | _ => 0

/-- Whether an entry of a FRAMES or STREAMS block sets no bit outside its fields. -/
def entryOk (kind e : Nat) : Bool :=
  if kind == 0x01 then bits e 63 57 == 0 && bits e 7 3 == 0
  else if kind == 0x02 then bits e 63 57 == 0
  else true

/-- Whether the words of a block are well formed (R136). -/
def Block.formOk (b : Block) : Bool :=
  let w0 := wordAt b.ws 0
  let counted := b.kind == 0x01 || b.kind == 0x02 || b.kind == 0x04
  (counted || b.kind == 0x03 || b.kind == 0x05 || b.kind == 0x06 || b.kind == 0x07 || b.kind == 0x0F) &&
  bits w0 23 20 == 1 && bits w0 19 3 == 0 && (if counted then 1 ≤ b.count && b.count ≤ 6 else b.count == 0) &&
  ((List.range 13).all fun i => i < b.used || wordAt b.ws (1 + i) == 0) &&
  (b.entries.all fun e => entryOk b.kind e.2) && (b.kind != 0x07 || wordAt b.ws 5 < 2) &&
  (b.kind != 0x04 || b.entries.all fun e => e.2 != 2 ^ 64 - 1)

/-- Whether a block may stand at its place in the chain (R136). -/
def Block.placeOk (b : Block) (q : Seq) : Bool :=
  (b.kind != 0x02 || q.sawPhase) && (b.kind != 0x05 || q.chainFirst) && (!q.ranNative || b.kind == 0x04 || b.kind == 0x0F)

/-- Registers that the generated control program uses for the operands of an action. -/
def genA : BitVec 5 := 5
def genB : BitVec 5 := 6

/-- The generated control of a block (R136). `sbind` and `sgo` name the access-pattern register that is free when they issue. -/
def Block.actions (b : Block) : List GenAction :=
  let act (e : Nat) (regs : List (Nat × DWord)) (i : Instr) : GenAction := { regs := regs, instr := i, block := b.va, entry := e }
  let v (i : Nat) : DWord := BitVec.ofNat 64 (dwordAt b.ws i)
  match b.kind with
  | 0x01 => b.entries.flatMap fun (e : Nat × Nat) =>
      [act e.1 [] (.bframe 0 (BitVec.ofNat 3 e.2)),
       act e.1 [(genA.toNat, BitVec.ofNat 64 (bits e.2 56 8 * 256))] (.bpush 0 genA)]
  | 0x02 => b.entries.flatMap fun (e : Nat × Nat) =>
      [act e.1 [(genA.toNat, BitVec.ofNat 64 (bits e.2 56 6 * 64))] (.sbind 0 genA 0 (BitVec.ofNat 6 e.2)), act e.1 [] (.sgo 0 0 0)]
  | 0x03 => [act 0 [] (.pbar 0 0)]
  | 0x06 => [act 0 [(genA.toNat, v 1), (genB.toNat, v 3)] (.cwait 0 genA genB)]
  | 0x07 => [act 0 [(genA.toNat, v 1), (genB.toNat, v 3)] (if wordAt b.ws 5 == 1 then .cosigAdd 0 genA genB else .cosig 0 genA genB)]
  | 0x0F => [act 0 [] (.pbarFinal 0 0), act 0 [] (.halt 0)]
  | _ => []

/-- Whether the header of a sequencer image passes R137. -/
def seqImageOk (h : List Word) : Bool :=
  wordAt h 0 == 0x53455143 && bits (wordAt h 1) 31 16 == Config.implId &&
  (bits (wordAt h 1) 15 0 == 0 || bits (wordAt h 1) 15 0 == Config.grade) &&
  1 ≤ bits (wordAt h 2) 31 16 && bits (wordAt h 2) 31 16 ≤ 16384 && bits (wordAt h 2) 15 0 == 0 && wordAt h 3 == 0

/-- The chain goes on at the block's NEXT; END ends it. -/
def Seq.chainOn (q : Seq) (b : Block) : Seq :=
  { q with chainNext := b.next, chainFirst := false, sawPhase := q.sawPhase || b.kind == 0x03,
           chainEnded := q.chainEnded || b.kind == 0x0F }

/-- Values that wait enter the parameter queue while it has room (R124). -/
def Seq.feed (q : Seq) : Seq :=
  let n := 64 - q.params.length
  { q with params := q.params ++ q.held.take n, held := q.held.drop n }

/-- The image of a SEQIMG block replaces the generated program (R137). -/
def State.loadSeqImage (s : State) (c li : Nat) (b : Block) : State :=
  match s.readImage (some c) li (b.entry 0) with
  | (.error f, s) => s.seqStop c f
  | (.ok (h, ws), s) =>
    if !seqImageOk h then s.seqStop c (badImage (b.entry 0))
    else (s.notePush li { cluster := c, va := b.entry 0 }).onSeq c fun q =>
      { q.chainOn b with ranNative := true, pc := 0, imem := ws.zipIdx.map fun (w : Word × Nat) => (w.2, w.1) }

/-- The loader has read a block. -/
def State.takeBlock (s : State) (c li : Nat) (b : Block) : State :=
  if !(b.formOk && b.placeOk (s.seq c)) then s.seqStop c { status := stBadChain, detail1 := b.va }
  else if b.next % 64 != 0 then s.seqStop c { status := stBadChain, detail1 := b.next }
  else if b.kind == 0x05 then s.loadSeqImage c li b
  else if b.kind == 0x04 then
    s.onSeq c fun q => ({ q.chainOn b with held := b.entries.map fun (e : Nat × Nat) => BitVec.ofNat 64 e.2 } : Seq).feed
  else s.onSeq c fun q => { q.chainOn b with gen := if q.ranNative then q.gen else q.gen ++ b.actions }

/-- R137 CHAIN_BLOCK_LOAD: the loader of a cluster feeds the parameter queue, follows a CHAIN command or reads the next block. -/
def execChainBlockLoad (s : State) : Out :=
  atLoader s fun c =>
    match s.seqLaunch c with
    | none => s
    | some (li, l) =>
      let q := s.seq c
      if l.st != .running || q.chainEnded then s
      else if !q.held.isEmpty then s.onSeq c Seq.feed
      else if q.chainNext == 0 && !q.chainFirst then
        match l.links[q.chainUsed]? with
        | none => s
        | some a => s.onSeq c fun q => { q with chainNext := a, chainUsed := q.chainUsed + 1 }
      else match s.sysRead (some c) l.asid q.chainNext 64 clsOpenOrImage with
        | (.error _, s) => s.seqStop c (badBlock q.chainNext)
        | (.ok bs, s) =>
          let ws := wordsOfBytes bs
          s.takeBlock c li { va := q.chainNext, kind := bits (wordAt ws 0) 31 24, count := bits (wordAt ws 0) 2 0, ws := ws }
where
  /-- An unreadable block fails the launch with BADADDR. -/
  badBlock (va : Nat) : Failure := { status := stBadAddr, detail1 := va }

end Sys2Proof.Machine
end

