-- ==== Sys2Proof/Machine/ElemSync.lean ====
section
/-! DEFINITION. The synchronisation port of a core: barriers (R333 to R335), the software count (R339) and `phase.wait` (R340). -/

namespace Sys2Proof.Machine

open Sys2Proof

/-- Fire an access to the synchronisation port: nothing is checked and nothing is held to commit (R332). -/
def fireSync (i : Instr) (s : State) : Out :=
  fireControl i s false fun s _ _ => (.ok (0, 0), s)

/-- R334 `bar.arrive`. -/
def execBarArrive (a : ElemArgs) (s : State) : Out := fireSync (.barArrive a) s
/-- R334 `bar.wait`. -/
def execBarWait (a : ElemArgs) (s : State) : Out := fireSync (.barWait a) s
/-- R339 `cens.up`. -/
def execCensUp (a : ElemArgs) (s : State) : Out := fireSync (.censUp a) s
/-- R339 `cens.dn`. -/
def execCensDn (a : ElemArgs) (s : State) : Out := fireSync (.censDn a) s
/-- R340 `phase.wait`. -/
def execPhaseWait (a : ElemArgs) (s : State) : Out := fireSync (.phaseWait a) s

/-! ## Performing -/

/-- The partition and the route that an access names, if its launch claims it (R334). -/
def State.claimedRoute (s : State) (k : Nat) (x : Access) : Option (Nat × Nat × Route × Nat) :=
  match s.coreLaunch k with
  | none => none
  | some (_, l) =>
    let n := x.args.cond.toNat
    match l.part, Tab.find? l.routes n with
    | some p, some nm1 => some (p, n, Tab.get {} (s.part p).routes n, nm1)
    | _, _ => none

def State.setRoute (s : State) (p n : Nat) (r : Route) : State := s.onPart p fun q => { q with routes := Tab.set q.routes n r }

/-- An arrival is counted; the last of an episode sets its DONE 48 cycles later (R334). -/
def Route.arrive (r : Route) (now : Nat) : Route :=
  if r.cnt == r.nm1 then { r with ep := r.ep + 1, cnt := 0, due := r.due ++ [now + 48] } else { r with cnt := r.cnt + 1 }

/-- `bar.arrive` is performed: its result is the episode joined. -/
def State.doBarArrive (s : State) (k : Nat) (x : Access) : State :=
  match s.claimedRoute k x with
  | none => s.fail k x { code := fcProt, detail := 0x80 }
  | some (p, n, r, _) => (s.setRoute p n (r.arrive s.now)).finish k x r.ep.toNat x.opnds.dAll

/-- Whether episode `e` is done (R334). -/
def Route.isDone (r : Route) (e : Nat) : Bool :=
  let d := (r.done - BitVec.ofNat 32 e).toNat
  1 ≤ d && d ≤ 2 ^ 31

/-- `bar.wait` is performed: it emits for an episode that is done, and waits otherwise. -/
def State.doBarWait (s : State) (k : Nat) (x : Access) : State :=
  match s.claimedRoute k x with
  | none => s.fail k x { code := fcProt, detail := 0x80 }
  | some (_, _, r, _) =>
    if r.isDone (x.opnds.val 0) then s.finish k x (x.opnds.val 0) x.opnds.dAll
    else s.onCore k (·.onAccess x.id fun y => { y with stage := .waiting })

/-- The accesses of a launch's cores that satisfy a test, with their cores. -/
def State.launchAccesses (s : State) (x : Launch) (p : Access → Bool) : List (Nat × Access) :=
  x.cores.flatMap fun k => ((s.core k).accesses.filter p).map fun a => (k, a)

/-- R334 BARRIER_DONE: the DONE cycle of a route's oldest episode has come; every `bar.wait` that waits for it emits, on every core
together. -/
def execBarrierDone (s : State) : Out :=
  atRoute s fun p n =>
    let r := Tab.get {} (s.part p).routes n
    match r.due, r.holder with
    | t :: rest, some l =>
      if s.now < t then s
      else
        let r := { r with done := r.done + 1, due := rest }
        let s := s.setRoute p n r
        let out := s.launchAccesses (s.launch l) fun a =>
          a.opc == 0x1A1 && a.stage == .waiting && a.args.cond.toNat == n && r.isDone (a.opnds.val 0)
        out.foldl (fun s a => s.finish a.1 a.2 (a.2.opnds.val 0) a.2.opnds.dAll) s
    | _, _ => s

/-- `cens.up` is performed (R339). -/
def State.doCensUp (s : State) (k : Nat) (x : Access) : State :=
  let a := x.opnds.val 0
  if 2 ^ 16 ≤ a then s.fail k x { code := fcArith, detail := 0x83 }
  else if 2 ^ 32 ≤ (s.core k).sc + a then s.fail k x { code := fcArith, detail := 0x82 }
  else (s.onCore k fun c => { c with sc := c.sc + a }).finish k x a x.opnds.dAll

/-- `cens.dn` is performed (R339). -/
def State.doCensDn (s : State) (k : Nat) (x : Access) : State :=
  let a := x.opnds.val 0
  if 2 ^ 16 ≤ a then s.fail k x { code := fcArith, detail := 0x83 }
  else if (s.core k).sc < a then s.fail k x { code := fcArith, detail := 0x81 }
  else (s.onCore k fun c => { c with sc := c.sc - a }).finish k x a x.opnds.dAll

/-- `phase.wait` waits for the next quiescence (R340). -/
def State.doPhaseWait (s : State) (k : Nat) (x : Access) : State := s.onCore k (·.onAccess x.id fun y => { y with stage := .waiting })

end Sys2Proof.Machine
end

