-- ==== Sys2Proof/Machine/FaultRec.lean ====
section
/-! DEFINITION. What happens where a fault is precise: its trap record (R428 to R430), and the suspension or the kill of its context
(R433, R434). -/

namespace Sys2Proof.Machine

open Sys2Proof

/-! ## Kill (R434) -/

/-- Remove what a node holds of a context, its running handler included: no item that the census counts may remain (R434; assumption
log 115). Another handler's `mm.run` gives up the packets of the context that it has taken for its next vector. -/
def Node.dropCtx (nd : Node) (ctx : Nat) : Node :=
  let kept (m : Stream) : Stream := { m with got := m.got.filter fun w => ctxOf w.tag != ctx }
  { nd with
    running := match nd.running with
      | some r => if ctxOf r.task.tag == ctx then none else some { r with stream := r.stream.map kept }
      | none => none
    ports := nd.ports.map fun ws => ws.filter fun w => ctxOf w.tag != ctx
    pending := nd.pending.filter fun t => ctxOf t.tag != ctx
    rows := nd.rows.filter fun r => ctxOf r.2.tag != ctx
    passes := nd.passes.filter fun p => match p with | .row _ _ _ t _ _ => ctxOf t != ctx | .fin _ _ _ => true }

/-- Remove what an element holds of a context. -/
def Elem.dropCtx (el : Elem) (ctx : Nat) : Elem :=
  { el with
    queue := el.queue.filter fun q => ctxOf q.tok.tag != ctx
    tier1 := el.tier1.filter fun t => ctxOf t.tag != ctx
    fired := el.fired.filter fun f => ctxOf f.tag != ctx
    timers := el.timers.filter fun t => ctxOf t.tag != ctx
    tombs := el.tombs.filter fun t => ctxOf t != ctx }

/-- Records of the SPILL pool that a context's tokens hold on a core. -/
def Core.spillOf (c : Core) (ctx : Nat) : Nat :=
  ((c.tier3.filter fun t => ctxOf t.tag == ctx).map Token.records).sum +
  ((c.arrival.filter fun h => h.spilled && ctxOf h.tok.tag == ctx).map fun h => h.tok.records).sum +
  (c.accesses.filter fun x => x.opc == 0x146 && x.stage == .waiting && ctxOf x.inst == ctx && !c.isReleased x).length +
  ((c.results.length - 1024) - ((c.results.filter fun r => ctxOf r.tag != ctx).length - 1024)) +
  (c.nodes.map fun x => (x.2.pending.length - 16) - ((x.2.dropCtx ctx).pending.length - 16)).sum

/-- Remove what a core holds of a context, but for the accesses that committed instances released; freed matching entries are reserved
while tier 3 holds entries (R327). -/
def Core.dropCtx (c : Core) (ctx : Nat) : Core :=
  let mine (t : Tag) : Bool := ctxOf t == ctx
  let held (el : Elem) : List (Token × Bool) :=
    el.queue.filterMap fun q => if mine q.tok.tag then q.hold.map fun in2 => (q.tok, !in2) else none
  let freed := (c.elems.flatMap fun x => x.2.tier1.filter fun t => mine t.tag).map (fun t => (t, true)) ++
    (c.tier2.filter fun t => mine t.tag).map (fun t => (t, false)) ++ c.elems.flatMap fun x => held x.2
  let c := { c with tier3 := c.tier3.filter fun t => !mine t.tag }
  let c := freed.foldl (fun c x => c.freeEntry x.1 x.2) c
  Core.trimReserve { c with
    elems := c.elems.map fun (x : Nat × Elem) => (x.1, x.2.dropCtx ctx)
    tier2 := c.tier2.filter fun t => !mine t.tag
    arrival := c.arrival.filter fun h => !mine h.tok.tag
    lost := c.lost.filter fun h => !mine h.tok.tag
    transit := c.transit.filter fun t => !mine t.msg.tag
    commits := c.commits.filter fun x => !mine x.2
    accesses := c.accesses.filter fun x => !mine x.inst || (c.isReleased x && x.stage != .parked)
    nodes := c.nodes.map fun (x : Nat × Node) => (x.1, x.2.dropCtx ctx)
    gathers := c.gathers.filter fun g => !mine g.msg.tag
    results := c.results.filter fun r => !mine r.tag
    insts := c.insts.filter fun i => !mine i.tag || i.committed }

/-- Kill a context of a launch (R434). A sequence slot's record becomes ENDED with END 6. -/
def State.killCtx (s : State) (l ctx : Nat) : State :=
  let x := s.launch l
  let s := s.onLaunch l fun x => { x with fates := Tab.set x.fates ctx .killed, kills := x.kills + 1 }
  let s := x.cores.foldl (fun s k =>
    if (s.core k).launch == some l then (s.spillGive k ((s.core k).spillOf ctx)).onCore k (·.dropCtx ctx) else s) s
  if ctx < 0xC00 then s
  else
    match x.part with
    | none => s
    | some p =>
      let q := ctx - 0xC00
      if (s.part p).slot0 ≤ q && q < (s.part p).slot0 + (s.part p).nslot && (s.slot q).st != .free then
        s.onSlot q fun r => { r with st := .ended, ending := 6 }
      else s

/-! ## Suspension (R433) -/

/-- Suspend a context; a CTXFAULT is held pending for every sequencer of the launch whose TVEC is not 0: at any other it is never taken
(R128; assumption log 28). -/
def State.suspendCtx (s : State) (l ctx : Nat) (res : Bool) : State :=
  let x := s.launch l
  match Tab.find? x.fates ctx with
  | some (.suspended all) => s.onLaunch l fun x => { x with fates := Tab.set x.fates ctx (.suspended (all && res)) }
  | some .killed => s
  | none =>
    let s := s.onLaunch l fun x => { x with fates := Tab.set x.fates ctx (.suspended res) }
    x.clusters.foldl (fun s c => s.onSeq c fun q => if q.tvec == 0 then q else { q with ctxfaults := q.ctxfaults ++ [ctx] }) s

/-! ## The record (R428 to R430) -/

/-- The core that a fault word names. -/
def originCore (w : Word) : Nat := bits w.toNat 23 18

/-- The virtual address that the origin core holds for a fault, which frees the entry (R429). -/
def State.takeVa (s : State) (word : Word) (otag : Tag) : Option Nat × State :=
  let k := originCore word
  let code := bits word.toNat 31 24
  match takeFirst (fun (v : FaultVa) => v.otag == otag && v.code == code) (s.core k).vas with
  | some (v, rest) => (some v.va, s.onCore k fun c => { c with vas := rest })
  | none => (none, s)

/-- The fault word as its record carries it: that of a stream to a block input names the element of the input as its frame is configured
now (R429). -/
def State.recordWord (s : State) (word : Word) (otag : Tag) : Word × State :=
  let k := originCore word
  let code := bits word.toNat 31 24
  match takeFirst (fun (v : StreamFault) => v.otag == otag && v.code == code) (s.core k).streamFaults with
  | none => (word, s)
  | some (v, rest) =>
    let e := (s.core k).inputOrigin v.frame v.input
    (faultWord code k (colOf e) (rowOf e) (bits word.toNat 7 0), s.onCore k fun c => { c with streamFaults := rest })

/-- The trap record of a precise fault. -/
def Precise.trap (p : Precise) (l : Launch) (k action : Nat) (va : Option Nat) : Trap :=
  { kind := 0, action := action, res := p.res && action == 1, queue := l.q, word := p.word, otag := p.otag, va := va, score := k,
    x := p.place.x, y := p.place.y, node := p.place.node, frame := p.place.frame, slot := p.place.slot, cid := l.cid, ctx := p.ctx,
    itag := p.itag, d := p.d }

/-- Whether a fault may be reported (R62): its instance holds the context's commit token, so that every earlier instance has committed,
and the core has no released access of the context left to perform; or nothing of the phase can move any more. -/
def State.reportable (s : State) (k : Nat) (x : Launch) (p : Precise) : Bool :=
  let c := s.core k
  match p.inst with
  | none => true
  | some (f, t) =>
    (c.commits.contains (f, t) && !c.accesses.any fun a => ctxOf a.inst == ctxOf t && c.isReleased a && a.stage != .parked) ||
    s.quiescent x

/-- R62, R428 FAULT_PRECISE: the oldest fault that may be reported on a core writes its record, and its context is suspended or killed
as the launch's policy says. A fault of a killed context writes none. -/
def execFaultPrecise (s : State) : Out :=
  atCore s fun k =>
    match s.coreLaunch k with
    | none => s
    | some (l, x) =>
      match takeFirst (s.reportable k x) (s.core k).precise with
      | none => s
      | some (p, rest) =>
        let s := s.onCore k fun c => { c with precise := rest }
        if x.st == .failing || x.ctxKilled p.ctx then s
        else
          let (word, s) := s.recordWord p.word p.otag
          let p := { p with word := word }
          let (va, s) := match p.va with | some a => (some a, s) | none => s.takeVa p.word p.otag
          let action := if x.cmd.kpol then 2 else 1
          let seq := match x.part with | some q => (s.part q).ring.seq.toNat | none => 0
          let s := match x.part with | some q => s.postCore k q (p.trap x k action va) | none => s
          if x.cmd.kpol then
            (s.onLaunch l fun y => { y with firstKill := some (y.firstKill.getD seq) }).killCtx l p.ctx
          else s.suspendCtx l p.ctx p.res

end Sys2Proof.Machine
end

