-- ==== Sys2Proof/Machine/LaunchTables.lean ====
section
/-! DEFINITION. The tables below HBASE that are read when a launch is dispatched, and their checks (R21, R256, R289, R312, R315, R333,
R356, R362, R451). -/

namespace Sys2Proof.Machine

open Sys2Proof

/-- The failure of a table entry or line at an address (R256, R289, R451). -/
def badAddr (va : Nat) : Failure := { status := stBadAddr, detail1 := va }

/-- The failure of a malformed table (R312, R315, R333, R356, R362); with the core where the table is a core's. -/
def badTable (k : Nat) : Failure := { status := stBadCfg, detail0 := k * 2 ^ 24 }

/-- Address of a table at an offset below HBASE. -/
def below (hbase ofs : Nat) : Nat := (hbase + 2 ^ 64 - ofs) % 2 ^ 64

/-- Read `n` whole lines of IMAGE-class memory; the failure names the line (R451). -/
def State.readLines (s : State) (asid va : Nat) : Nat → Try (List Byte)
  | 0 => (.ok [], s)
  | n + 1 =>
    tryThen (s.readLines asid va n) fun bs s =>
      match s.sysRead none asid (va + 128 * n) 128 clsImage with
      | (.ok b, s) => (.ok (bs ++ b), s)
      | (.error _, s) => (.error (badAddr (va + 128 * n)), s)

/-- The words of a table of `n` lines' bytes, the part from `skip` bytes on: a table need not begin at a line. -/
def State.readTable (s : State) (asid va bytes : Nat) : Try (List Word) :=
  let first := va / 128 * 128
  let n := (va + bytes + 127) / 128 - va / 128
  tryThen (s.readLines asid first n) fun bs s => (.ok (wordsOfBytes ((bs.drop (va - first)).take bytes)), s)

/-! ## The segment tables (R256, R289) -/

/-- Whether an entry of the segment table is well formed; entry 15 is zero. -/
def segOk (i e : Nat) : Bool := bits e 62 57 == 0 && bits e 15 0 == 0 && (i != 15 || e == 0)

/-- The segment table of a launch. -/
def State.readSegs (s : State) (asid hbase : Nat) : Try (List Nat) :=
  let va := below hbase 0x40080
  tryThen (s.readTable asid va 128) fun ws s =>
    let es := (List.range 16).map fun i => dwordAt ws (2 * i)
    match (List.range 16).find? fun i => !segOk i (es.getD i 0) with
    | some i => (.error (badAddr (va + 8 * i)), s)
    | none => (.ok es, s)

/-- Whether an entry of the remote segment table is well formed, for the jobs that a partition owns. -/
def remoteOk (owns : Nat → Bool) (ws : List Word) : Bool :=
  let e := dwordAt ws 0
  let w2 := wordAt ws 2
  let w3 := wordAt ws 3
  bits e 61 57 == 0 && bits e 15 0 == 0 && bits w2 31 28 == 0 && bits w2 15 12 == 0 && bits w3 11 10 == 0 &&
  bits w3 9 0 ≤ 1000 && (bit e 62 || bits w3 31 12 == 0) && (!bit e 63 || owns (bits w2 27 16))

/-- The remote segment table of a launch. -/
def State.readRemote (s : State) (asid hbase : Nat) (part : Option Nat) : Try (List (List Word)) :=
  let va := below hbase 0x40180
  let owns (j : Nat) : Bool := (Tab.find? s.jobs j).any fun x => some x.owner == part
  tryThen (s.readTable asid va 256) fun ws s =>
    let es := chunks 4 16 ws
    match (List.range 16).find? fun i => !remoteOk owns (es.getD i []) with
    | some i => (.error (badAddr (va + 16 * i)), s)
    | none => (.ok es, s)

/-! ## Router slot tables (R311, R312) -/

/-- Whether an output of a core's router leads to a router whose core the launch names; the local and vertical ports lead to none. -/
def outLeads (named : Nat → Bool) (k o : Nat) : Bool :=
  let x := k % 4
  let y := k / 4 % 4
  match o with
  | 0 => y != 0 && named (k - 4)
  | 1 => x != 3 && named (k + 1)
  | 2 => y != 3 && named (k + 4)
  | 3 => x != 0 && named (k - 1)
  | _ => true

/-- Claim of an output in an entry: the input that owns it. -/
def claimOf (e o : Nat) : Option Nat := if bit e (4 * o + 3) then some (bits e (4 * o + 2) (4 * o)) else none

/-- Whether an entry of a slot table passes R312. -/
def slotEntryOk (named : Nat → Bool) (k e : Nat) : Bool :=
  bits e 31 24 == 0 && (List.range 6).all fun o =>
    match claimOf e o with
    | none => true
    | some i => i < 6 && i != o && outLeads named k o

/-- Whether a core's slot table passes R312. -/
def slotTableOk (named : Nat → Bool) (k : Nat) (es : List Nat) : Bool :=
  es.all (slotEntryOk named k) && (List.range 6).all fun o => 32 ≤ (es.filter fun e => (claimOf e o).isNone).length

/-- The non-zero entries of a table of 32-bit words, by index. -/
def nonZero (ws : List Word) : Tab Nat :=
  (ws.zipIdx.filter fun (w : Word × Nat) => w.1 != 0).map fun (w : Word × Nat) => (w.2, w.1.toNat)

/-- The slot tables of the cores given. -/
def State.readSlotTables (s : State) (asid hbase : Nat) (cores : List Nat) : List Nat → Try (Tab (Tab Nat))
  | [] => (.ok [], s)
  | k :: rest =>
    tryThen (s.readTable asid ((below hbase 0x50180 + 1024 * k) % 2 ^ 64) 1024) fun ws s =>
      if !slotTableOk cores.contains k (ws.map BitVec.toNat) then (.error (badTable k), s)
      else tryThen (s.readSlotTables asid hbase cores rest) fun t s => (.ok (Tab.set t k (nonZero ws)), s)

/-! ## Node binding tables (R315) -/

/-- Whether an entry sets no bit that its form requires to be zero: RSV, KIND 3, and the fields that its KIND does not use (R315). -/
def bindingForm (e : Nat) : Bool :=
  let index := bits e 26 20
  bits e 6 0 == 0 &&
  match bits e 30 29 with
  | 0 => bits e 19 17 == 0 && bits e 8 7 == 0
  | 1 => bits index 6 5 == 0 && bits e 16 15 == 0
  | 2 => index == 0 && bits e 19 17 == 0 && bits e 16 15 == 0 && bits e 8 7 == 0
  | _ => false

/-- Whether what a valid entry of core `k`'s table names exists: a node port of a named core, or block inputs of core `k` itself; an
inbound entry names nothing (R315). -/
def bindingNames (named : Nat → Bool) (k e : Nat) : Bool :=
  let (k', n, _) := bindNode k e
  match bits e 30 29 with
  | 0 => named k' && n < 34
  | 1 => k' == k && bits e 26 20 + bits e 8 7 ≤ 31
  | _ => true

/-- Whether an entry of core `k`'s node binding table passes R315. The form is checked whatever V is, the names where V = 1 (assumption
log 120). -/
def bindingOk (named : Nat → Bool) (k i e : Nat) : Bool :=
  if 148 ≤ i then e == 0 else bindingForm e && (!bit e 31 || bindingNames named k e)

/-- The node binding tables of the cores given: their valid entries. -/
def State.readBindings (s : State) (asid hbase : Nat) (cores : List Nat) : List Nat → Try (Tab (Tab Nat))
  | [] => (.ok [], s)
  | k :: rest =>
    tryThen (s.readTable asid ((below hbase 0x60180 + 1024 * k) % 2 ^ 64) 1024) fun ws s =>
      let live (j : Nat) : Bool := cores.contains j && !s.coreLost j
      if !(ws.zipIdx.all fun (w : Word × Nat) => bindingOk live k w.2 w.1.toNat) then (.error (badTable k), s)
      else tryThen (s.readBindings asid hbase cores rest) fun t s =>
        (.ok (Tab.set t k ((nonZero ws).filter fun x => bit x.2 31)), s)

/-- Whether a core's bindings hold an entry of a matrix or accumulator node (R21). -/
def usesAcc (t : Tab Nat) : Bool := t.any fun x => (4 * 24 ≤ x.1 && x.1 < 4 * 32) || 144 ≤ x.1

/-! ## Barriers, generation header, adapters (R333, R356, R362) -/

/-- The routes that a launch claims with their NM1. -/
def State.readRoutes (s : State) (asid hbase : Nat) : Try (Tab Nat) :=
  tryThen (s.readTable asid (below hbase 0x601C0) 64) fun ws s =>
    let es := (List.range 8).map fun i => dwordAt ws (2 * i)
    if es.any fun e => bits e 62 16 != 0 || (!bit e 63 && bits e 15 0 != 0) then (.error { status := stBadCfg }, s)
    else (.ok ((es.zipIdx.filter fun (e : Nat × Nat) => bit e.1 63).map fun (e : Nat × Nat) => (e.2, bits e.1 15 0)), s)

/-- The generation header of a launch. -/
def State.readHeader (s : State) (asid hbase : Nat) : Try (List Word) :=
  tryThen (s.readTable asid (below hbase 0x60200) 64) fun ws s =>
    if bits (wordAt ws 0) 30 16 != 0 || (ws.drop 1).any (· != 0) then (.error { status := stBadCfg }, s) else (.ok ws, s)

/-- The adapter slot table of a launch. -/
def State.readAdapters (s : State) (asid hbase : Nat) : Try (Tab Nat) :=
  tryThen (s.readTable asid (below hbase 0x61200) 4096) fun ws s =>
    if ws.any fun w => bits w.toNat 30 12 != 0 then (.error { status := stBadCfg }, s) else (.ok (nonZero ws), s)

/-! ## All of them -/

/-- Read the tables of a launch into its record (R451). -/
def State.readTables (s : State) (x : Launch) : Try Launch :=
  let hb := x.cmd.hbase.toNat
  if hb % 256 != 0 then (.error (badAddr hb), s) else
  tryThen (s.readSegs x.asid hb) fun segs s =>
  tryThen (s.readRemote x.asid hb x.part) fun remote s =>
  tryThen (s.readSlotTables x.asid hb x.cores x.cores) fun slots s =>
  tryThen (s.readBindings x.asid hb x.cores x.cores) fun binds s =>
  tryThen (s.readRoutes x.asid hb) fun routes s =>
  tryThen (s.readHeader x.asid hb) fun header s =>
  tryThen (s.readAdapters x.asid hb) fun adapters s =>
    (.ok { x with segs := segs, remote := remote, slotTables := slots, bindings := binds, routes := routes, header := header,
                  adapters := adapters }, s)

/-- R20: the partition word is well formed; bits [31:24] of the word are zero by the form of LAUNCH. -/
def partwOk (w : Nat) : Bool := bits w 7 0 + bits w 15 8 + bits w 23 16 == 128 && 2 ≤ bits w 7 0

/-- The core whose partition word R21 refuses, if any: looked at before any other table than the node bindings, which the last of its
conditions needs. -/
def State.badPart (s : State) (x : Launch) : Option Nat × State :=
  let w := x.cmd.partw.toNat
  if !partwOk w then (x.cores.head?, s)
  else if bits w 23 16 != 0 then (none, s)
  else match s.readBindings x.asid x.cmd.hbase.toNat x.cores x.cores with
    | (.error _, s) => (none, s)
    | (.ok b, s) => (x.cores.find? fun k => usesAcc (Tab.get [] b k), s)

end Sys2Proof.Machine
end

