-- ==== Sys2Proof/Machine/Phase.lean ====
section
/-! DEFINITION. Quiescence and the phase boundary of a launch (R123, R126, R338, R340, R362, R429). -/

namespace Sys2Proof.Machine

open Sys2Proof

/-! ## Quiescence (R338) -/

/-- Every waiting `phase.wait` of a launch emits its result, 48 cycles after detection. -/
def State.releasePhaseWaits (s : State) (x : Launch) : State :=
  x.cores.foldl (fun s k =>
    (s.core k).phaseWaits.foldl (fun s a =>
      (s.onCore k (·.dropAccess a.id)).yield (a.shot k (s.now + 48)) a.opnds (yieldAll a.args a.opnds (a.opnds.val 0) a.opnds.dAll)) s) s

/-- What a node holds that no handler will take: unbound parked tasks and stranded packets raise UNBOUND and are consumed. -/
def State.raiseUnbound (s : State) (k n : Nat) : State :=
  let nd := s.node k n
  let kept := nd.pending.filter fun t => (Tab.find? nd.handlers t.ty).isSome
  let s := s.spillGive k ((nd.pending.length - 16) - (kept.length - 16))
  let s := s.onNode k n fun nd => { nd with pending := kept, ports := nd.ports.map fun _ => [] }
  let word := nodeWord k n fcUnbound 0
  let s := nd.unbound.foldl (fun s t => s.preciseNode k n word t.tag t.tag 0 (t.packets.any fun p => p.2.d)) s
  nd.ports.flatten.foldl (fun s w => s.preciseNode k n word w.tag w.tag 0 w.d) s

/-- The nodes of a core that hold something unbound or stranded. -/
def Core.unboundNodes (c : Core) : List Nat :=
  (c.nodes.filter fun x => !(x.2.unbound.isEmpty && x.2.ports.flatten.isEmpty)).map (·.1)

/-- The end of a phase on a core: stored STICKY tokens and tombstones are discarded, and the fault address table is emptied (R429). -/
def Core.endPhase (c : Core) : Core :=
  let st (t : Token) : Bool := t.ma == .sticky
  let n := (c.elems.map fun x => (x.2.tier1.filter st).length).sum + ((c.tier2 ++ c.tier3).filter st).length
  let drop (el : Elem) : Elem := { el with tier1 := el.tier1.filter fun t => !st t, tombs := [] }
  { c.count cntStickyEnd n with
    elems := c.elems.map fun (x : Nat × Elem) => (x.1, drop x.2)
    tier2 := c.tier2.filter fun t => !st t
    tier3 := c.tier3.filter fun t => !st t
    vas := []
    streamFaults := [] }

/-- The end of a phase on a core, which returns the records that its STICKY tokens hold in tier 3. -/
def State.endPhaseAt (s : State) (k : Nat) : State :=
  (s.spillGive k (recordsOf ((s.core k).tier3.filter fun t => t.ma == .sticky))).onCore k fun c => c.endPhase.trimReserve

/-- Whether a context of a launch is suspended, or a precise fault of it has no record yet. -/
def State.faultsOpen (s : State) (x : Launch) : Bool :=
  (x.fates.any fun f => match f.2 with | .suspended _ => true | .killed => false) || x.cores.any fun k => !(s.core k).precise.isEmpty

/-- R338 QUIESCENCE_DETECT: the open phase of a launch has come to rest. -/
def execQuiescenceDetect (s : State) : Out :=
  atLaunch s fun l =>
    match Tab.find? s.launches l with
    | none => s
    | some x =>
      if !s.quiescent x then s
      else if x.cores.any fun k => !(s.core k).phaseWaits.isEmpty then s.releasePhaseWaits x
      else if x.cores.any fun k => (s.core k).parked != 0 then
        x.cores.foldl (fun s k => (s.core k).unboundNodes.foldl (fun s n => s.raiseUnbound k n) s) s
      else if s.faultsOpen x then s
      else
        let s := x.cores.foldl State.endPhaseAt s
        s.onLaunch l fun x => { x with isOpen := false, ended := x.phase }

/-! ## The phase boundary (R123) -/

/-- A sequencer goes on from its waiting point: `opened` is the phase that opens, `ended` the one that ended. -/
def State.passBoundary (s : State) (c opened ended : Nat) : State :=
  let go (xd : BitVec 5) (v phase : Nat) : State :=
    ((s.seqWrite c xd (BitVec.ofNat 64 v) 0 false).onSeq c fun q => { q with mode := .run, waitFor := .none, phase := phase }).seqGo c
      ((s.seq c).pc + 4)
  match (s.seq c).mode, (s.seq c).waitFor with
  | .wait, .pbar xd => go xd opened opened
  | .wait, .pbarFinal xd => go xd ended 0
  | .wait, .halt => s.onSeq c fun q => { q with mode := .halted, waitFor := .none, phase := 0 }
  | _, _ => s

/-- Whether a sequencer waits in `pbar`. -/
def Seq.atPbar (q : Seq) : Bool :=
  match q.mode, q.waitFor with
  | .wait, .pbar _ => true
  | _, _ => false

/-- A phase opens, if some sequencer waits in `pbar`: the adapter slot table is read again (R362, R451). -/
def State.openPhase (s : State) (l : Nat) (x : Launch) : Try Nat :=
  if x.clusters.any fun c => (s.seq c).atPbar then
    tryThen (s.readAdapters x.asid x.cmd.hbase.toNat) fun t s =>
      (.ok (x.phase + 1), s.onLaunch l fun x => { x with adapters := t, phase := x.phase + 1, isOpen := true })
  else (.ok x.phase, s)

/-- R123 PHASE_BOUNDARY: every waiting instruction of a launch completes in the same step. -/
def execPhaseBoundary (s : State) : Out :=
  atLaunch s fun l =>
    match Tab.find? s.launches l with
    | none => s
    | some x =>
      if x.st != .running || x.isOpen || !s.sequencersWait x then s
      else match s.openPhase l x with
        | (.error f, s) => s.failLaunch l f
        | (.ok opened, s) =>
          let s := x.clusters.foldl (fun s c => s.passBoundary c opened x.ended) s
          let s := s.onLaunch l fun x => { x with ended := 0 }
          if s.allHalted x then s.haltLaunch l else s

end Sys2Proof.Machine
end

