-- ==== Sys2Proof/Machine/Queue.lean ====
section
/-! DEFINITION. Work queues: the queue table and doorbells (R130, R131), the scheduler of a schedule domain (R134, R323, R324), wait
objects, and the dispatch of LAUNCH and CHAIN (R20, R21, R67, R134, R138, R406). -/

namespace Sys2Proof.Machine

open Sys2Proof

/-! ## Functions, tables and descriptors (R130) -/

/-- The partition that a virtual function serves (R372). -/
def State.vfPart (s : State) (fn : Nat) : Option Nat :=
  if fn == 0 then none else (List.find? (fun x : Nat × Partition => !x.2.units.isEmpty && x.2.vf == fn) s.parts).map (·.1)

/-- Count an event of a queue that is not served (R130, R131). The counters belong to a partition (R438): an event of a PF queue that lies
in none, or whose descriptor has not been read, is counted nowhere (assumption log 117). -/
def State.countQueue (s : State) (q i : Nat) : State :=
  let p := match s.vfPart (Config.queueFn q) with
    | some p => some p
    | none => if (s.queue q).known then s.asidPart (s.queue q).asid else none
  match p with
  | some p => s.countPart p i
  | none => s

/-- Whether bus addresses answer. -/
def State.busOk (s : State) (a n : Nat) : Bool := !s.hostDead.any fun r => r.1 < a + n && a < r.2

/-- Whether a descriptor's fields are well formed for its function (R130). -/
def State.descriptorOk (s : State) (fn : Nat) (ws : List Word) : Bool :=
  let w4 := wordAt ws 4
  let w5 := wordAt ws 5
  let asid := bits w4 31 16
  dwordAt ws 0 % 4096 == 0 && dwordAt ws 2 % 4096 == 0 && bits w4 15 12 == 0 && bits w4 5 0 == 0 && bits w4 11 8 ≤ 12 &&
  bits w5 30 11 == 0 && wordAt ws 6 == 0 && wordAt ws 7 == 0 && (fn == 0 || bits w5 10 0 < 256) &&
  (fn == 0 || (s.vfPart fn).any fun p => s.asidPart asid == some p)

/-- Read a queue's descriptor; a bad one puts the queue into ERROR (R130). -/
def State.readDescriptor (s : State) (q : Nat) : State :=
  let fn := Config.queueFn q
  match (s.fn fn).table with
  | none => s.onQueue q fun x => { x with known := true, error := true }
  | some t =>
    let a := t + 32 * (q - Config.qbase fn)
    if !s.busOk a 32 then s.onQueue q fun x => { x with known := true, error := true }
    else
      let ws := wordsOfBytes (readBytes s.hostMem a 32)
      let w4 := wordAt ws 4
      let w5 := wordAt ws 5
      s.onQueue q fun x =>
        { x with known := true, rbase := dwordAt ws 0, crbase := dwordAt ws 2, asid := bits w4 31 16, size := bits w4 11 8,
                 prio := bits w4 7 6, en := bit w5 31, vec := bits w5 10 0, error := x.error || !s.descriptorOk fn ws }

/-! ## Doorbells (R37, R130, R131) -/

/-- A table write: the first doorbell to QBASE (R130). -/
def State.tableWrite (s : State) (fn v : Nat) : State :=
  if v % 64 != 0 || bits v 63 57 != 0 || !s.busOk v 32 then s else s.onFn fn fun f => { f with table := some v }

/-- The OVERRUN record in the completion slot of R; the CID of the record that it stands for is a free value. -/
def State.overrun (s : State) (q v : Nat) : State :=
  let (cid, s) := s.freeWord 131
  (s.writeCompletion q (s.queue q).r stOverrun cid.toNat (v % 2 ^ 32) 0).onQueue q fun x => { x with error := true }

/-- A doorbell value for a queue that is known (R131). A value behind W is stale also where it lies ahead of R, as the example of R131
has it. -/
def State.ring (s : State) (q v : Nat) : State :=
  let x := s.queue q
  let n := 2 ^ (4 + x.size)
  let w : Word := BitVec.ofNat 32 v
  if x.error || !x.en then s.countQueue q cntQueueDisabled
  else if 2 ^ 32 ≤ v then s.overrun q v
  else if w == x.w then s
  else if (x.w - w).toNat ≤ n then s.countQueue q cntStaleDb
  else if (w - x.r).toNat ≤ n then s.onQueue q fun x => { x with w := w }
  else s.overrun q v

/-- R131 DOORBELL: a write to the doorbell of queue `q` in a function's window. -/
def execDoorbell (fn q : Nat) (value : DWord) (s : State) : Out :=
  atDevice s
    (if s.board.trained.isNone || q < Config.qbase fn || Config.qbase fn + Config.qcount fn ≤ q then s
     else match (s.fn fn).table with
      | none => if q == Config.qbase fn then s.tableWrite fn value.toNat else s.countQueue q cntQueueDisabled
      | some _ => (if (s.queue q).known then s else s.readDescriptor q).ring q value.toNat)

/-! ## Reading the head command (R98, R99, R125, R134) -/

/-- The common words of a command. -/
def headerOf : Instr → CmdHeader
  | .launch h _ | .chain h _ | .capRead h _ _ | .healthRead h _ | .modeSet h _ | .partitionCfg h _ | .partitionTeardown h _
  | .rankSet h _ | .invalRange h _ | .ringRestart h _ _ | .ringRestartFaultRing h _ | .preempt h _ _ | .resume h _ _
  | .sealLoadCreate h _ | .sealLoadImport h _ | .sealLoadDestroy h _ | .sessionOpen h _ | .sessionClose h _ | .replyBind h _
  | .replyUnbind h _ | .usageSignReport h _ | .usageSignUsage h _ | .kernelAdmitLibrary h _ | .kernelAdmitRaw h _
  | .kernelAdmitRevoke h _ => h
  | _ => {}

/-- The commands that are executed while a LAUNCH of their queue runs (R134). -/
def runsBeside : Instr → Bool
  | .chain _ _ | .preempt _ _ _ => true
  | _ => false

/-- The commands of a queue whose ASID lies in no partition (R378). -/
def namesNoPartition : Instr → Bool
  | .capRead _ _ _ | .healthRead _ _ | .modeSet _ _ | .partitionCfg _ _ | .partitionTeardown _ _ => true
  | _ => false

/-- The commands that are executed before READY is set (R36). -/
def runsBeforeReady : Instr → Bool
  | .capRead _ _ _ | .healthRead _ _ => true
  | _ => false

/-- What the read of a head command finds before anything of it is executed: a status with DETAIL1, or none. -/
def State.headStatus (s : State) (q : Nat) (i : Instr) : Option (Nat × Nat) × State :=
  let x := s.queue q
  let h := headerOf i
  if !s.board.ready && !runsBeforeReady i then (some (stNotReady, 0), s)
  else if x.left || (s.queuePart q).isNone && (Config.queueFn q != 0 || !namesNoPartition i) then (some (stDenied, 0), s)
  else
    let (w, s) := match h.wait with | some (a, _) => s.objectOk x.asid a.toNat false | none => (true, s)
    if !w then (some (stBadAddr, match h.wait with | some (a, _) => a.toNat | none => 0), s)
    else
      let (g, s) := match h.sig with | some (a, _) => s.objectOk x.asid a.toNat true | none => (true, s)
      if !g then (some (stBadAddr, match h.sig with | some (a, _) => a.toNat | none => 0), s) else (none, s)

/-- The next command of a queue that a teardown left in place completes with DENIED (R377). -/
def State.denyLeft (s : State) (q : Nat) (h : CmdHeader) : State :=
  (s.completeHead q h stDenied).onQueue q fun x => { x with left := false }

/-- Read the head command of a queue that has one to read (R131, R134): a malformed record, or one that may not be executed, completes
at once; it waits while a LAUNCH runs that it may not run beside. A malformed record is BADCMD also before READY is set: the record is
checked before READY is looked at (assumption log 119). -/
def State.readHead (s : State) (q : Nat) : State :=
  let x := s.queue q
  if !x.known || !x.en || x.error || x.head != .idle || x.next == x.w then s
  else
    let a := x.rbase + 64 * (x.next.toNat % 2 ^ (4 + x.size))
    let ws := wordsOfBytes (readBytes s.hostMem a 64)
    match decodeCommand ws with
    | .error _ =>
      if x.launch.isSome then s
      else s.completeHead q { cid := BitVec.ofNat 16 (wordAt ws 0), irq := bit (wordAt ws 1) 29 } stBadCmd
    | .ok i =>
      if x.launch.isSome && !runsBeside i then s
      else match s.headStatus q i with
        | (some (st, d1), s) => if x.left && st == stDenied then s.denyLeft q (headerOf i) else s.completeHead q (headerOf i) st 0 d1
        | (none, s) => s.onQueue q fun x => { x with head := if (headerOf i).wait.isSome then .waiting i else .ready i }

/-- R323 WAIT_OBJECT_POLL: the wait object of a queue's head command is read. -/
def execWaitObjectPoll (s : State) : Out :=
  atQueue s fun q =>
    let x := s.queue q
    match x.head with
    | .waiting i =>
      if x.left then s.denyLeft q (headerOf i)
      else match (headerOf i).wait with
      | none => s.onQueue q fun x => { x with head := .ready i }
      | some (a, v) =>
        match s.queueRead x.asid a.toNat 8 with
        | (.error _, s) => s.completeHead q (headerOf i) stBadAddr 0 a.toNat
        | (.ok bs, s) => if v.toNat ≤ ofLeBytes bs then s.onQueue q fun x => { x with head := .ready i } else s
    | _ => s

/-! ## The scheduler (R323, R324) -/

/-- The schedule domain of a queue (R378). -/
def State.queueDomain (s : State) (q : Nat) : Nat := (s.asidPart (s.queue q).asid).getD 8

/-- Clusters of a partition's units (R16). -/
def Partition.clusters (p : Partition) : List Nat := p.units.flatMap fun u => [2 * u, 2 * u + 1]

/-- Why a LAUNCH is turned away before it waits for its cores: status and DETAIL0 (R138, R406). -/
def State.launchRefusal (s : State) (asid : Nat) (p : LaunchCmd) : Option (Nat × Nat) :=
  if p.cmask == 0 then some (stBadCmd, 0)
  else match s.asidPart asid with
    | none => some (stDenied, 0)
    | some n =>
      let x := s.part n
      if (List.range 16).any fun c => bit p.cmask.toNat c && !x.clusters.contains c then some (stDenied, 0)
      else if x.sealing && !p.sdv then some (stSig, 0x05)
      else if p.sdv && !(x.sealing && (Tab.get {} x.domains p.sdom.toNat).live) then some (stDenied, 0)
      else none

/-- Whether the cores of a cluster mask are free. -/
def State.clustersFree (s : State) (mask : Nat) : Bool :=
  (List.range 64).all fun k => !bit mask (k / 4) || (s.core k).launch.isNone

/-- Whether every route that a LAUNCH's barrier table claims is free (R323, R333); a table that cannot be read claims none. -/
def State.routesFree (s : State) (p asid hbase : Nat) : Bool :=
  match (s.readRoutes asid hbase).1 with
  | .error _ => true
  | .ok rs => rs.all fun r => (Tab.get {} (s.part p).routes r.1).holder.isNone

/-- The checkpoint that a RESUME would take: the snapshot at its area (R440, R441). -/
def State.areaFrame (s : State) (asid area : Nat) : Option Nat :=
  match s.translate none none asid area with
  | (some t, _) => if t.cls == 6 && t.r then some t.pa else none
  | (none, _) => none

def State.checkpointAt (s : State) (asid area : Nat) : Option Checkpoint :=
  (s.areaFrame asid area).bind fun f => s.checkpoints.find? fun c => c.frame == f && some c.part == s.asidPart asid

/-- Whether a command that has been read can begin now (R323). -/
def State.canBegin (s : State) (q : Nat) (i : Instr) : Bool :=
  let x := s.queue q
  match i with
  | .launch _ p =>
    x.launch.isNone &&
    ((s.launchRefusal x.asid p).isSome ||
     (s.clustersFree p.cmask.toNat && match s.asidPart x.asid with | some n => s.routesFree n x.asid p.hbase.toNat | none => true))
  | .resume _ ofs area =>
    let q' := Config.qbase (Config.queueFn q) + ofs.toNat
    x.launch.isNone && (s.queue q').launch.isNone &&
    match s.checkpointAt (s.queue q').asid area.toNat with
    | some c => s.clustersFree c.launch.cmd.cmask.toNat && c.launch.routes.all fun r =>
        (Tab.get {} (s.part c.part).routes r.1).holder.isNone
    | none => true
  | _ => runsBeside i || x.launch.isNone

/-- Whether a queue is ready (R323). -/
def State.queueReady (s : State) (q : Nat) : Bool :=
  let x := s.queue q
  x.en && !x.error && match x.head with | .ready i => x.left || s.canBegin q i | _ => false

/-- The priorities that the 15 positions of the round visit (R324). -/
def roundOrder : List Nat := [0, 1, 0, 2, 0, 1, 0, 3, 0, 1, 0, 2, 0, 1, 0]

/-- The oldest of the aged queues, the lowest index first among equals. -/
def agedQueue (s : State) (ready : List Nat) : Option Nat :=
  (ready.filter fun q => 4096 ≤ (s.queue q).age).foldl (fun best q =>
    match best with
    | none => some q
    | some b => if (s.queue b).age < (s.queue q).age then some q else some b) none

/-- The first queue of a priority after the one last dispatched at it, wrapping; `ready` rises. -/
def nextOfPrio (s : State) (last : Option Nat) (ready : List Nat) (prio : Nat) : Option Nat :=
  let qs := ready.filter fun q => (s.queue q).prio == prio
  match last.bind fun l => qs.find? fun q => l < q with
  | some q => some q
  | none => qs.head?

/-- The choice of a slot: the queue and the next position of the round (R324). -/
def State.choose (s : State) (d : Nat) (ready : List Nat) : Option (Nat × Nat) :=
  let sc := Tab.get {} s.scheds d
  match agedQueue s ready with
  | some q => some (q, sc.round)
  | none =>
    (List.range 15).findSome? fun i =>
      let pos := (sc.round + i) % 15
      let prio := roundOrder.getD pos 0
      (nextOfPrio s (Tab.find? sc.last prio) ready prio).map fun q => (q, (pos + 1) % 15)

/-- Ages after a slot: a ready queue that was not chosen grows older, every other begins again. -/
def State.ageQueues (s : State) (qs ready : List Nat) (chosen : Option Nat) : State :=
  qs.foldl (fun s q => s.onQueue q fun x => { x with age := if ready.contains q && chosen != some q then x.age + 1 else 0 }) s

/-- The head command of a queue is dispatched; that of a queue that a teardown left in place is denied (R377). -/
def State.dispatch (s : State) (q : Nat) : State :=
  match (s.queue q).head with
  | .ready i => if (s.queue q).left then s.denyLeft q (headerOf i) else s.onQueue q fun x => { x with head := .running i }
  | _ => s

/-- R324 SCHEDULER_SLOT: one dispatch decision of a schedule domain in 8 cycles. -/
def execSchedulerSlot (s : State) : Out :=
  atSched s fun d =>
    if s.now < (Tab.get {} s.scheds d).nextSlot then s
    else
      let qs := (s.queues.filter fun x => x.2.known && s.queueDomain x.1 == d).map (·.1)
      let s := qs.foldl State.readHead s
      let ready := qs.filter s.queueReady
      let chosen := s.choose d ready
      let s := s.ageQueues qs ready (chosen.map (·.1))
      let later (f : Sched → Sched) : State :=
        { s with scheds := Tab.modify {} s.scheds d fun (x : Sched) => { f x with nextSlot := s.now + 8 } }
      match chosen with
      | none => later id
      | some (q, pos) =>
        (later fun x => { x with round := pos, last := Tab.set x.last (s.queue q).prio q }).dispatch q

/-! ## Commands that run -/

/-- The command that a queue runs. -/
def State.runningCmd (s : State) (q : Nat) : Option Instr :=
  match (s.queue q).head with | .running i => some i | _ => none

/-- Execute a command at the queue whose head it is. -/
def onCommand (s : State) (act : State → Nat → State) : Out :=
  atQueue s fun q => if (s.runningCmd q).isSome then act s q else s

/-! ## LAUNCH (R20, R21, R67, R138, R451) -/

/-- A core is given to a launch: PARTW is latched with the launch's partition and seal domain, the scratchpad is kept where the launch does
not differ from the one before, and the user registers, counters and the software count are zero (R20, R21, R339, R438). -/
def Core.begin (c : Core) (l : Nat) (partw : Nat) (part : Nat) (sdom : Option Nat) (now : Nat) : Core :=
  let same := c.partw == partw && match c.prev with | some (p, d) => p == part && d == sdom | none => false
  if same then
    { launch := some l, partw := partw, prev := some (part, sdom), zeroUntil := now, cells := c.cells, empties := c.empties, dmarks := c.dmarks,
      poisoned := c.poisoned, tlb := c.tlb, tiles := c.tiles, rings := c.rings, nodes := c.nodes }
  else { launch := some l, partw := partw, prev := some (part, sdom), zeroUntil := now + 8192, tlb := c.tlb, tiles := c.tiles,
         rings := c.rings, nodes := c.nodes }

/-- The sequencer of a launch that begins. -/
def Seq.begin (now chain : Nat) : Seq := { mode := .run, start := now, chainNext := chain }

/-- The failure that a launch's partition word and tables give at dispatch, with the launch and its tables (R21, R451; the order of the
checks is of assumption log 75). -/
def State.loadTables (s : State) (x : Launch) : Option Failure × Launch × State :=
  match s.badPart x with
  | (some k, s) => (some { status := stBadPart, detail0 := k * 2 ^ 24 }, x, s)
  | (none, s) =>
    match s.readTables x with
    | (.error f, s) => (some f, x, s)
    | (.ok x, s) =>
      if x.cmd.chain.toNat % 64 != 0 then (some { status := stBadChain, detail1 := x.cmd.chain.toNat }, x, s) else (none, x, s)

/-- Claim the barrier routes of a launch (R333). -/
def State.claimRoutes (s : State) (l : Nat) (p : Nat) (routes : Tab Nat) : State :=
  s.onPart p fun q => { q with routes := routes.foldl (fun t (r : Nat × Nat) => Tab.set t r.1 { holder := some l, nm1 := r.2 }) q.routes }

/-- Give the cores and sequencers of a launch to it. -/
def State.takeCores (s : State) (l : Nat) (x : Launch) (p : Nat) : State :=
  let s := x.cores.foldl (fun s k => s.onCore k fun c => c.begin l x.cmd.partw.toNat p x.sdom? s.now) s
  x.clusters.foldl (fun s c => s.onSeq c fun _ => Seq.begin s.now x.cmd.chain.toNat) s

/-- R138 LAUNCH; it waits while its cores or routes are no longer free (R323). -/
def execLaunch (h : CmdHeader) (p : LaunchCmd) (s : State) : Out :=
  onCommand s fun s q =>
    let w := s.queue q
    match s.launchRefusal w.asid p, s.asidPart w.asid with
    | some (st, d0), _ => s.completeHead q h st d0
    | none, none => s.completeHead q h stDenied
    | none, some n =>
      if !s.canBegin q (.launch h p) then s else
      let (l, s) := s.newId
      let x : Launch := { q := q, fn := Config.queueFn q, cid := h.cid.toNat, cq := q, idx := w.next, hdr := h, cmd := p,
                          asid := w.asid, part := some n, start := s.now }
      let (f, x, s) := s.loadTables x
      let s := { s with launches := Tab.set s.launches l x }
      let s := s.onQueue q fun y => { y with next := w.next + 1, head := .idle, launch := some l }
      match f with
      | some f => (x.cores.foldl (fun s k => s.onCore k fun c => { c with launch := some l }) s).failLaunch l f
      | none => (s.takeCores l x n).claimRoutes l n x.routes

/-- R138 CHAIN. Where a launch has several clusters, its chain has ended once the loader of one of them has read END: the model's choice
(assumption log 145). -/
def execChain (h : CmdHeader) (block : DWord) (s : State) : Out :=
  onCommand s fun s q =>
    match (s.queue q).launch with
    | none => s.completeHead q h stNoLaunch
    | some l =>
      if (s.launch l).clusters.any fun c => (s.seq c).chainEnded then s.completeHead q h stClosed
      else if block.toNat % 64 != 0 then
        (s.failLaunch l { status := stBadChain, detail1 := block.toNat }).completeHead q h stBadChain 0 block.toNat
      else (s.onLaunch l fun x => { x with links := x.links ++ [block.toNat] }).completeHead q h stOk

end Sys2Proof.Machine
end

