-- ==== Sys2Proof/Machine/Capability.lean ====
section
/-! DEFINITION. The capability list and the health word (R29 to R34, R37), the commands that read them, and MODE.SET (R28). -/

namespace Sys2Proof.Machine

open Sys2Proof

/-! ## What a function sees -/

/-- The units that a function's view covers: its partition's, or all of them for the PF (R31). -/
def State.viewUnits (s : State) (fn : Nat) : List Nat :=
  if fn == 0 then List.range 8 else match s.vfPart fn with | some p => (s.part p).units | none => []

/-- The unit that a spare lies in (R16). -/
def Spare.unit : Spare → Nat
  | .elem k _ _ => k / 8
  | .core k => k / 8
  | .slice n => n / 32
  | .channel k _ => k / 2
  | .port n => n / 12

def State.viewSpares (s : State) (fn : Nat) : List Spare := s.board.spares.filter fun x => (s.viewUnits fn).contains (Spare.unit x)

/-- A bitmap of `n` words with the bits of a list set (R8, R32). -/
def bitmap (n : Nat) (set : List Nat) : List Word := splitWords ((insertAll set []).foldl (fun a b => a + 2 ^ b) 0) n

def sparesCores (xs : List Spare) : List Nat := xs.filterMap fun x => match x with | .core k => some k | _ => none
def sparesSlices (xs : List Spare) : List Nat := xs.filterMap fun x => match x with | .slice n => some n | _ => none
def sparesChannels (xs : List Spare) : List Nat := xs.filterMap fun x => match x with | .channel k c => some (32 * k + c) | _ => none
def sparesPorts (xs : List Spare) : List Nat := xs.filterMap fun x => match x with | .port n => some n | _ => none
/-- Mapped-out elements as bit numbers 1024 × core + 32 × y + x. -/
def sparesElems (xs : List Spare) : List Nat :=
  xs.filterMap fun x => match x with | .elem k x y => some (1024 * k + 32 * y + x) | _ => none

/-- How many different numbers a list holds. -/
def distinct (xs : List Nat) : Nat := (insertAll xs []).length

/-! ## Entries (R31, R32) -/

def capHeader (len id : Nat) : Word := BitVec.ofNat 32 (len * 2 ^ 16 + id)
def capPair (hi lo : Nat) : Word := BitVec.ofNat 32 (hi * 2 ^ 16 + lo)

/-- The health word (R33). -/
def State.health (s : State) : Nat :=
  let b := s.board
  b.mode * 2 ^ 8 + b2n b.eccwarn * 8 + b2n b.throttled * 4 + b2n (!b.spares.isEmpty) * 2 + b2n b.ready

/-- The main clock in MHz (R26, R27). -/
def State.mhz (s : State) : Nat := Config.nominalMhz - 100 * s.board.bins

def State.capResources (s : State) (fn : Nat) : List Word :=
  let units := (s.viewUnits fn).length
  let xs := s.viewSpares fn
  let lost := insertAll (sparesCores xs) []
  let cores := 8 * units - lost.length
  let clusters := ((s.viewUnits fn).flatMap fun u => [2 * u, 2 * u + 1]).filter fun c =>
    [0, 1, 2, 3].any fun j => !lost.contains (4 * c + j)
  let elems := 1024 * cores - distinct ((sparesElems xs).filter fun b => !lost.contains (b / 1024))
  [capHeader 8 2, capPair cores clusters.length, capPair (8 * cores) (4 * cores), capPair (2 * cores) (16 * cores),
   capPair (32 * units - distinct (sparesSlices xs)) (2 * units), capPair (12 * units - distinct (sparesPorts xs)) (if fn == 0 then 8 else 1),
   BitVec.ofNat 32 (if fn == 0 then Config.queueCount else Config.qcount fn), BitVec.ofNat 32 elems]

/-- The reference timer rate in MHz that CLOCK reports: the spec gives no value (assumption log 5). -/
def timerMhz : Nat := (Config.freeWord 32 0).toNat % 2 ^ 16

def State.capClock (s : State) : List Word :=
  let (rate, width) := s.board.trained.getD (0, 0)
  [capHeader 4 3, capPair s.mhz Config.nominalMhz, BitVec.ofNat 32 Config.grade,
   BitVec.ofNat 32 (rate % 2 ^ 8 * 2 ^ 24 + width % 2 ^ 8 * 2 ^ 16 + timerMhz)]

def State.capSpares (s : State) (fn : Nat) : List Word :=
  let xs := s.viewSpares fn
  capHeader 2078 4 :: bitmap 2 (sparesCores xs) ++ bitmap 8 (sparesSlices xs) ++ bitmap 16 (sparesChannels xs) ++
    bitmap 3 (sparesPorts xs) ++ bitmap 2048 (sparesElems xs)

def State.capFunction (s : State) (fn : Nat) : List Word :=
  match s.vfPart fn with
  | some p =>
    let x := s.part p
    [capHeader 3 7, BitVec.ofNat 32 (2 ^ 19 + p * 2 ^ 16 + (x.units.foldl (fun a u => a + 2 ^ u) 0) * 2 ^ 8 + fn),
     capPair x.count x.first]
  | none => [capHeader 3 7, BitVec.ofNat 32 fn, 0]

/-- The capability list as a function reads it, with the word of ID 0 that ends it; before READY every word is zero (R29, R36). -/
def State.capWords (s : State) (fn : Nat) : List Word :=
  let body := [capHeader 3 1, capPair 1 0, capPair Config.implId 0] ++ s.capResources fn ++ s.capClock ++ s.capSpares fn ++
    [capHeader 2 5, BitVec.ofNat 32 s.health, capHeader 2 6, BitVec.ofNat 32 (s.board.mode * 2 ^ 8 + 15)] ++ s.capFunction fn ++ [0]
  let all := [BitVec.ofNat 32 0x50535843, capPair 1 (body.length + 4), s.board.gen, 0] ++ body
  if s.board.ready then all else all.map fun _ => 0

/-- The list changes: GEN is incremented before and after (R30). -/
def State.relist (s : State) : State := { s with board := { s.board with gen := s.board.gen + 2 } }

/-! ## CAP.READ, HEALTH.READ, MODE.SET -/

/-- Write the result of a command to its destination and complete it. -/
def State.answer (s : State) (q : Nat) (h : CmdHeader) (dst : Nat) (bs : List Byte) (d0 : Nat) : State :=
  match s.queueWrite (s.queue q).asid dst bs with
  | (.error _, s) => s.completeHead q h stBadAddr 0 dst
  | (.ok _, s) => s.completeHead q h stOk d0

/-- R138 CAP.READ. -/
def execCapRead (h : CmdHeader) (dst : DWord) (len : Word) (s : State) : Out :=
  onCommand s fun s q =>
    let bs := (bytesOfWords (s.capWords (Config.queueFn q))).take len.toNat
    s.answer q h dst.toNat bs bs.length

/-- R138 HEALTH.READ. -/
def execHealthRead (h : CmdHeader) (dst : DWord) (s : State) : Out :=
  onCommand s fun s q =>
    s.answer q h dst.toNat (leBytes s.health 4 ++ leBytes s.board.gen.toNat 4 ++ leBytes s.board.failed 4 ++ leBytes 0 4) s.board.failed

/-- R28 MODE.SET: PF only; the mode takes effect at the next power-management interval. -/
def execModeSet (h : CmdHeader) (mode : BitVec 2) (s : State) : Out :=
  onCommand s fun s q =>
    if Config.queueFn q != 0 then s.completeHead q h stDenied
    else ({ s with board := { s.board with pending := some mode.toNat } } : State).completeHead q h stOk

end Sys2Proof.Machine
end

