-- ==== Sys2Proof/Machine/Packets.lean ====
section
/-! DEFINITION. Packets of the scale-up fabric (R295): answers and fault replies (R301), window arithmetic (R304), and operands. -/

namespace Sys2Proof.Machine

open Sys2Proof

/-- The grid integer of an FP32 contribution and its flags: POS 1, NEG 2, NAN 4 (R304). -/
def gridOf (wexp b : Nat) : Int × Nat :=
  match fdecode fp32 b with
  | .nan _ _ => (0, 4)
  | .inf sg => (0, if sg then 2 else 1)
  | .fin sg m x =>
    let q := roundAt .rne sg m (x + 64 - ((wexp : Int) - 127)) 0 false
    if 2 ^ 111 ≤ q then (0, if sg then 2 else 1) else (if sg then -(q : Int) else (q : Int), 0)

end Sys2Proof.Machine

namespace Sys2Proof

open Machine

/-- The timeout T of a packet in microseconds (R289 TMO). -/
def Packet.timeout (p : Packet) : Nat := if p.tmo == 0 then 20 else p.tmo.toNat

/-- The requester's seal domain (R295). -/
def Packet.dom (p : Packet) : Option Nat := if p.sdv then some p.sdom.toNat else none

/-- The header of an answer to a packet: source and destination change places (R295). -/
def Packet.answer (p : Packet) (ptype : Nat) : Packet :=
  { p with ptype := BitVec.ofNat 8 ptype, d := false, f := false, len := 0, data := [], val := 0, seq := 0,
           spart := p.dpart, srank := p.drank, dpart := p.spart, drank := p.srank }

/-- An answer that carries a fault word (R295 F and VAL). -/
def Packet.refuse (p : Packet) (ptype : Nat) (word : Word) : Packet :=
  { p.answer ptype with f := true, val := word.setWidth 128 }

/-- Code and DETAIL of the fault word that a packet carries. -/
def Packet.fault (p : Packet) : Nat × Nat := (bits p.val.toNat 31 24, bits p.val.toNat 7 0)

/-- Records of 16 bytes that a write takes in the retransmit window: its header and its data (assumption log 20). -/
def Packet.records (p : Packet) : Nat := 4 + (p.data.length + 15) / 16

/-- Whether a contribution adds on the float grid. -/
def Packet.onGrid (p : Packet) : Bool := p.ty == 6 && p.op == 0

/-- The element type that a packet's TYPE names; window operations have an integer type or FP32. -/
def Packet.elemType (p : Packet) : ElemType :=
  if p.ty == 6 then .f32 else if p.ty == 0 then .s32 else .n32

/-- Two partial values of an FP32 minimum or maximum of which one is a NaN: a NaN prevails, quiet (R144, R304). Of two unlike ones no rule
says which prevails, only that no order decides it (R305): the outcome is a free NaN that absorbs both (assumption log 128). -/
def combineNan (a b : Nat) : Option Nat :=
  match firstNan fp32 [a], firstNan fp32 [b] with
  | none, none => none
  | some x, none => some x
  | none, some y => some y
  | some x, some y => some (if x == y then x else quietNan fp32 (bit Config.windowNan.toNat 31) (bits Config.windowNan.toNat 22 0))

/-- A 32-bit partial value combined with another (R304). -/
def Packet.combine (p : Packet) (a b : Int) : Int :=
  if p.onGrid then a + b
  else match if p.ty == 6 && (p.op == 1 || p.op == 2) then combineNan a.toNat b.toNat else none with
    | some n => (n : Int)
    | none => (atomicResult p.op.toNat p.elemType a.toNat b.toNat 0 : Nat)

/-- The partial value that a WCON carries (R295 VAL). -/
def Packet.partialSum (p : Packet) : Int := if p.onGrid then signExt p.val.toNat 128 else ((p.val.toNat % 2 ^ 32 : Nat) : Int)

/-- Data bytes of a packet. -/
def Packet.withData (p : Packet) (bs : List Byte) : Packet := { p with data := bs, len := BitVec.ofNat 9 bs.length }

/-- The operands of an atomic as a request carries them: b, and c for `cas` (assumption log 22). -/
def Packet.withOperands (p : Packet) (x : Access) : Packet :=
  p.withData (leBytes (x.opnds.val 1) 4 ++ (if x.args.cond == 7 then leBytes (x.opnds.val 2) 4 else []))

/-- A contribution to a reduction window (R303, R304). -/
def Packet.contribution (p : Packet) (b : Nat) : Packet :=
  if p.onGrid then
    let (v, f) := gridOf p.wexp.toNat b
    { p with cnt := 1, flg := BitVec.ofNat 3 f, val := BitVec.ofNat 128 (wrap v 128) }
  else { p with cnt := 1, val := BitVec.ofNat 128 b }

end Sys2Proof
end

