-- ==== Sys2Proof/Machine/Remote.lean ====
section
/-! DEFINITION. Packets of the scale-up fabric on their way: rank tables and pins (R286, R288), routes and links (R309, R310), sending
with fault injection (R319), counter ids and generations (R293), request ids (R301), and the arithmetic of reduction windows (R303 to
R305). -/

namespace Sys2Proof.Machine

open Sys2Proof

/-! ## Jobs and ranks -/

def State.job (s : State) (j : Nat) : Job := Tab.get {} s.jobs j
def State.onJob (s : State) (j : Nat) (f : Job → Job) : State := { s with jobs := Tab.set s.jobs j (f (s.job j)) }

/-- The rank entry that a job's table holds; none where it is unmapped (R286). -/
def State.rankOf (s : State) (j r : Nat) : Option RankEntry :=
  match Tab.find? (s.job j).ranks r with
  | some e => if e.package == 0xFFFF then none else some e
  | none => none

/-- Add to the pin count of a rank entry, or take from it (R288). -/
def State.pin (s : State) (p : Packet) (up : Bool) : State :=
  s.onJob p.job.toNat fun j =>
    { j with ranks := Tab.modify {} j.ranks p.drank.toNat fun e => { e with pins := if up then e.pins + 1 else e.pins - 1 } }

/-! ## Routes and sending (R307, R309, R310, R319) -/

/-- Whether a port may carry a packet: its link is up, and SECURE with this package's trust domain for a D packet (R310). -/
def State.portCarries (s : State) (d : Bool) (n : Nat) : Bool :=
  match (s.port n).link with
  | .down => false
  | .plain => !d
  | .secure dom => !d || dom == s.tdid

/-- The lowest port of a port set that may carry a packet. -/
def State.route (s : State) (ports : Nat) (d : Bool) : Option Nat := (List.range 96).find? fun n => bit ports n && s.portCarries d n

/-- Whether the armed fault-injection registers match a packet (R319). -/
def State.ftdMatches (s : State) (p : Packet) : Bool :=
  let f := s.fn 0
  let a := f.ftd0.toNat
  let b := f.ftd1.toNat
  bit a 31 && bits b 31 24 != 0 && bits b 31 24 ≤ 0x0C && bits b 31 24 == p.ptype.toNat && bits a 23 12 == p.job.toNat &&
  bits a 11 0 == p.drank.toNat && bits b 23 16 == p.cid.toNat && (bits b 31 24 != 1 || bits b 12 0 == p.seq.toNat)

/-- The port that carries traffic addressed to a port: in matrix-max, the upper six ports of a unit give theirs to the lower six where both
links lead to the same peer and are in the same state (R27). -/
def State.steer (s : State) (n : Nat) : Nat :=
  if s.board.mode == 1 && 6 ≤ n % 12 && (s.port (n - 6)).peer == (s.port n).peer && (s.port (n - 6)).link == (s.port n).link then n - 6
  else n

/-- A packet leaves the package on a port set: the fault injection drops it, a link takes it or holds it during a key update, or it is
lost (R307, R309, R310, R319). -/
def State.transmit (s : State) (ports : Nat) (p : Packet) : State :=
  if s.ftdMatches p then
    s.onFn 0 fun f => { f with ftd0 := BitVec.ofNat 32 (setBits (setBits f.ftd0.toNat 31 31 0) 30 30 1) }
  else match s.route ports p.d with
    | none => if p.d then s.countPart p.spart.toNat cntDmarkDrop else s
    | some m =>
      let n := s.steer m
      if (s.port n).hold then s.onPort n fun x => { x with out := x.out ++ [(s.board.micros, p)] }
      else { s with sent := s.sent ++ [{ port := n, packet := p, time := s.board.micros }] }

/-- Send a packet to the rank that it names. -/
def State.sendPacket (s : State) (p : Packet) : State :=
  match s.rankOf p.job.toNat p.drank.toNat with
  | some e => s.transmit e.ports p
  | none => s

/-- The fault word of a fault that no element raises: no rule gives its coordinates, which are a free value (assumption log 24). -/
def State.wireFault (s : State) (code detail : Nat) : Word × State :=
  let (w, s) := s.freeWord 297
  (faultWord code (bits w.toNat 5 0) (bits w.toNat 10 6) (bits w.toNat 15 11) detail, s)

/-- Answer a packet with a fault word. -/
def State.refuse (s : State) (p : Packet) (ptype code detail : Nat) : Packet × State :=
  let (w, s) := s.wireFault code detail
  (p.refuse ptype w, s)

/-- Send a reply; a D reply that cannot return is replaced by an F reply of code DMARK (R310). -/
def State.reply (s : State) (p : Packet) : State :=
  match s.rankOf p.job.toNat p.drank.toNat with
  | none => s
  | some e =>
    if p.d && (s.route e.ports true).isNone then
      let (w, s) := s.wireFault fcDmark 0
      s.transmit e.ports { p with d := false, f := true, val := w.setWidth 128 }
    else s.transmit e.ports p

/-- Send a packet again, and note when its timer expires. -/
def State.later (s : State) (n : Nat) : Nat := s.board.micros + n

/-! ## Records of the SPILL pool (R294, R297, R326) -/

/-- Records that a receiver's record takes: a bitmap of 4096 bits and a header (assumption log 20). -/
def recvRecords : Nat := 36

def State.poolTake (s : State) (p n : Nat) : Option State :=
  if (s.part p).spillUsed + n ≤ (s.part p).spillRecords then some (s.onPart p fun q => { q with spillUsed := q.spillUsed + n }) else none

def State.poolGive (s : State) (p n : Nat) : State := s.onPart p fun q => { q with spillUsed := q.spillUsed - n }

/-! ## Epochs of the sender (R293, R294, R296) -/

/-- Place in `gens` of a counter id of a partition and destination rank (R293). -/
def genKey (part drank cid : Nat) : Nat := (part * 4096 + drank) * 256 + cid

/-- The lowest counter id of a partition and destination rank that is free (R293). -/
def State.freeCid (s : State) (part drank : Nat) : Option Nat :=
  (List.range 256).find? fun c => !s.epochs.any fun e =>
    e.st != .failed && e.part == part && e.hdr.drank.toNat == drank && e.hdr.cid.toNat == c

/-- Place of the epoch that is bound to a core's segment; one in RELEASING is bound no more (R294, R296). -/
def State.boundEpoch (s : State) (k seg : Nat) : Option Nat :=
  s.epochs.findIdx? fun e => e.core == k && e.seg == seg && e.st != .releasing

def State.onEpoch (s : State) (i : Nat) (f : Epoch → Epoch) : State := { s with epochs := s.epochs.modify i f }

/-- The records of an epoch's window go back to the pool. -/
def Epoch.records (e : Epoch) : Nat := (e.window.map fun w => w.2.records).sum

/-- Free an epoch's window, counter id and pin; it leaves its segment FAILED or is FREE (R288, R296). -/
def State.freeEpoch (s : State) (i : Nat) (failed : Bool) : State :=
  match s.epochs[i]? with
  | none => s
  | some e =>
    let s := (s.poolGive e.part e.records).pin e.hdr false
    if failed then s.onEpoch i fun e => { e with st := .failed, window := [], held := [], openAcc := none, relAcc := none }
    else { s with epochs := s.epochs.eraseIdx i }

/-- Put a write's packet on its way and give its result, a (R290). -/
def State.sendWrite (s : State) (k : Nat) (p : Packet) (acc : Nat) : State :=
  let s := s.sendPacket p
  match (s.core k).access? acc with
  | some x => s.finish k x (x.opnds.val 0) x.opnds.dAll
  | none => s

/-- An access of a core that waits for the fabric ends in an F token. -/
def State.failAcc (s : State) (k acc code detail : Nat) : State :=
  match (s.core k).access? acc with
  | some x => s.fail k x { code := code, detail := detail }
  | none => s

/-- The D bit of the REL of an epoch: that of its `rrel` and of every write (R300). -/
def State.releaseD (s : State) (e : Epoch) (acc : Nat) : Bool :=
  e.d || match (s.core e.core).access? acc with | some x => x.opnds.dAll | none => false

/-- Whether no link carries a D packet to the rank that a packet names (R310). -/
def State.noSecure (s : State) (p : Packet) : Bool :=
  match s.rankOf p.job.toNat p.drank.toNat with
  | some r => (s.route r.ports true).isNone
  | none => true

/-- The release of an open epoch: REL leaves with the count and D, and the segment is bound no more (R296, R300). Where REL carries D = 1
and no link may carry it, the `rrel` ends in DMARK and the epoch stays open (R292, R310). -/
def State.startRelease (s : State) (i acc : Nat) : State :=
  match s.epochs[i]? with
  | none => s
  | some e =>
    let d := s.releaseD e acc
    if d && s.noSecure e.hdr then (s.onEpoch i fun e => { e with relAcc := none }).failAcc e.core acc fcDmark 0
    else
      let p := { e.hdr with ptype := 0x04, d := d, seq := BitVec.ofNat 13 e.writes }
      (s.sendPacket p).onEpoch i fun e =>
        { e with st := .releasing, relAcc := some acc, d := d, rounds := 0, due := s.later (2 * e.hdr.timeout) }

/-- The failure of an OPENING epoch: `rcopen`, every held write and a held `rrel` give F tokens (R296). -/
def State.failOpening (s : State) (i codeO detailO : Nat) : State :=
  match s.epochs[i]? with
  | none => s
  | some e =>
    let s := match e.openAcc with | some a => s.failAcc e.core a codeO detailO | none => s
    let s := e.held.foldl (fun s h => s.failAcc e.core h.2 fcFabric 0x01) s
    let s := match e.relAcc with | some a => s.failAcc e.core a fcFabric 0x01 | none => s
    s.freeEpoch i e.relAcc.isNone

/-! ## Reduction windows (R303 to R305) -/

/-- The word that a complete round writes (R305). -/
def Round.result (r : Round) (old : Nat) : Nat :=
  if r.poison then (if r.hdr.ty == 6 then 0x7FC00000 else 0x80000000)
  else if r.hdr.onGrid then
    if bit r.flags 2 || (bit r.flags 0 && bit r.flags 1) then canonicalNan fp32 false
    else if bit r.flags 0 then infPattern fp32 false
    else if bit r.flags 1 then infPattern fp32 true
    else
      let e : Int := (r.hdr.wexp.toNat : Int) - 127 - 64
      match fdecode fp32 old with
      | .nan s f => quietNan fp32 s f
      | .inf s => infPattern fp32 s
      | .fin s m x =>
        let (sg, n, y) := exactSum s m x (decide (r.sum < 0)) r.sum.natAbs e
        fround fp32 .rne sg n y false
  else atomicResult r.hdr.op.toNat r.hdr.elemType old r.sum.toNat 0

end Sys2Proof.Machine
end

