-- ==== Sys2Proof/Machine/ElemFabric.lean ====
section
/-! DEFINITION. The remote instructions of the elements (R289 to R294, R301, R303): the checks at firing, and what the remote unit does
with an access. -/

namespace Sys2Proof.Machine

open Sys2Proof

/-! ## The remote segment table (R289) -/

/-- An entry of the remote segment table, decoded. -/
structure RemoteSeg where
  v : Bool
  win : Bool
  base : Nat
  job : Nat
  rank : Nat
  wexp : Nat
  ncon : Nat
  tmo : Nat
  deriving DecidableEq, Repr

/-- The entry that a remote address selects. -/
def State.remoteSeg (s : State) (k a : Nat) : RemoteSeg :=
  let ws := match s.coreLaunch k with | some (_, l) => l.remote.getD (bits a 31 28) [] | none => []
  let b := dwordAt ws 0
  { v := bit b 63, win := bit b 62, base := bits b 56 16 * 2 ^ 16, job := bits (wordAt ws 2) 27 16, rank := bits (wordAt ws 2) 11 0,
    wexp := bits (wordAt ws 3) 31 24, ncon := bits (wordAt ws 3) 23 12, tmo := bits (wordAt ws 3) 9 0 }

/-! ## Firing (R290, R292) -/

/-- Bytes of a remote access: the row form of `rst` sends 256. -/
def remoteWidth (opc cond : Nat) : Nat := if opc == 0x180 && bit cond 2 then 256 else if opc ≤ 0x181 then accessWidth cond else 4

/-- The checks at firing that stand before that of a row's tile: a fault, or none (R292). -/
def State.remoteForm (s : State) (k opc : Nat) (a : ElemArgs) (o : Opnds) : Option Bad :=
  let g := s.remoteSeg k (o.val 0)
  let off := bits (o.val 0) 27 0
  let n := if opc == 0x185 then 0 else remoteWidth opc a.cond.toNat
  let row := opc == 0x180 && bit a.cond.toNat 2
  if !g.v || (if g.win then 0x10000 else 0x10000000) < off + n then some { code := fcTrans, detail := 0x63 }
  else if (n != 0 && o.val 0 % n != 0) || (row && o.val 1 % 256 != 0) then some { code := fcMisalign, detail := 0 }
  else if row && (bits (o.val 1) 31 28 != 15 || (s.core k).scrBytes < bits (o.val 1) 27 0 + 256) then some { code := fcProt, detail := 0x62 }
  else none

/-- The checks at firing that stand behind that of a row's tile: the operand of `rrel`, and the accesses that a window refuses (R292). -/
def State.remoteRest (s : State) (k opc : Nat) (o : Opnds) : Option Bad :=
  if opc == 0x185 && bits (o.val 0) 27 0 != 0 then some { code := fcProt, detail := 0x6F }
  else if (s.remoteSeg k (o.val 0)).win && (opc == 0x180 || opc == 0x181 || opc == 0x184 || opc == 0x185) then
    some { code := fcProt, detail := 0x76 }
  else none

/-- The checks at firing of an access that reads no row: a fault, or none (R292). -/
def State.remoteBad (s : State) (k opc : Nat) (a : ElemArgs) (o : Opnds) : Option Bad :=
  match s.remoteForm k opc a o with
  | some b => some b
  | none => s.remoteRest k opc o

/-- Fire a remote access that reads no row. -/
def fireRemote (i : Instr) (s : State) (hold : Bool) : Out :=
  issueAccess i s fun s sh o =>
    match s.remoteBad sh.k (match elemParts i with | some (n, _) => n | none => 0) sh.args o with
    | some b => s.raiseBad sh o b
    | none =>
      let (id, s) := s.newId
      s.putAccess sh (sh.access id i o) hold

/-- Note whether an element of the release set has fired for its instance (R318). -/
def State.markFired (s : State) (k f slot : Nat) (t : Tag) (on : Bool) : State :=
  s.onCore k (·.onInst f t fun x => { x with rels := if on then insertSorted slot x.rels else removeSorted slot x.rels })

/-- The row form of `rst` at firing: it waits while a tile of its row is being filled or copied (R261, R292). -/
def State.fireRow (s : State) (sh : Shot) (o : Opnds) (x : Access) : State :=
  let off := bits (o.val 1) 27 0
  match (s.core sh.k).tileGate x { loc := true, va := windowBase + off, off := off } 256 false with
  | .bad d => s.raiseBad sh o { code := fcProt, detail := d, va := some (windowBase + off) }
  | .wait t => (s.markFired sh.k sh.frame sh.slot sh.inst false).onCore sh.k fun c =>
      { c with accesses := c.accesses.filter (fun y => y.id != x.id) ++ [{ x with stage := .firing, tileAt := .tile t }] }
  | .go =>
    match s.remoteRest sh.k 0x180 o with
    | some b => s.raiseBad sh o b
    | none => s.putAccess sh { x with tileAt := .none } true

/-- R290 `rst`: held to commit. -/
def execRst (a : ElemArgs) (s : State) : Out :=
  issueAccess (.rst a) s fun s sh o =>
    match if bit a.cond.toNat 2 then s.remoteForm sh.k 0x180 a o else s.remoteBad sh.k 0x180 a o with
    | some b => s.raiseBad sh o b
    | none =>
      let (id, s) := s.newId
      let x := sh.access id (.rst a) o
      if bit a.cond.toNat 2 then s.fireRow sh o x else s.putAccess sh x true
/-- R301 `rld`: sent when it fires. -/
def execRld (a : ElemArgs) (s : State) : Out := fireRemote (.rld a) s false
/-- R301 `rat`: held to commit. -/
def execRat (a : ElemArgs) (s : State) : Out := fireRemote (.rat a) s true
/-- R290 `rred`: held to commit. -/
def execRred (a : ElemArgs) (s : State) : Out := fireRemote (.rred a) s true
/-- R296 `rcopen`: held to commit. -/
def execRcopen (a : ElemArgs) (s : State) : Out := fireRemote (.rcopen a) s true
/-- R296 `rrel`: held to commit. -/
def execRrel (a : ElemArgs) (s : State) : Out := fireRemote (.rrel a) s true

/-- A row whose tile is no longer filled or copied fires (R261, R292). -/
def State.doFiring (s : State) (k : Nat) (x : Access) : State :=
  let sh := x.shot k s.now
  let off := bits (x.opnds.val 1) 27 0
  match (s.core k).tileGate x { loc := true, va := windowBase + off, off := off } 256 false with
  | .wait _ => s
  | _ => ((s.onCore k (·.dropAccess x.id)).markFired k x.frame x.slot x.inst true).fireRow sh x.opnds x

/-! ## The remote unit (R291 to R294, R301 to R303) -/

/-- The fields that every packet of an access takes from its core's launch and its segment entry (R289, R295); a package without a rank
of its own in the job leaves SRANK free (assumption log 21). -/
def State.packetOf (s : State) (l : Launch) (x : Access) (g : RemoteSeg) (e : RankEntry) (ptype : Nat) : Packet × State :=
  let (w, s) : Nat × State := match (s.job g.job).own with
    | some o => (o.1, s)
    | none => let (w, s) := s.freeWord 286; (w.toNat, s)
  ({ ptype := BitVec.ofNat 8 ptype, d := x.opnds.dAll, job := BitVec.ofNat 12 g.job, spart := BitVec.ofNat 3 (l.part.getD 0),
     srank := BitVec.ofNat 12 w, dpart := BitVec.ofNat 3 e.part, drank := BitVec.ofNat 12 g.rank,
     ty := match x.args.ty with | .f32 => 6 | .n32 => 1 | _ => 0,
     op := BitVec.ofNat 4 x.args.cond.toNat, wexp := BitVec.ofNat 8 g.wexp, ncon := BitVec.ofNat 12 g.ncon, sdv := l.sdom?.isSome,
     tmo := BitVec.ofNat 10 g.tmo, sdom := BitVec.ofNat 10 (l.sdom?.getD 0),
     va := BitVec.ofNat 57 (g.base + bits (x.opnds.val 0) 27 0), tag := x.tag }, s)

/-- `rcopen` at the remote unit (R293, R296): it waits while the pair uses every counter id. -/
def State.unitOpen (s : State) (k : Nat) (x : Access) (part : Nat) (p : Packet) : State :=
  match s.freeCid part p.drank.toNat with
  | none => s
  | some c =>
    let key := genKey part p.drank.toNat c
    let gen := Tab.get 0 s.gens key + 1
    let p := { p with cid := BitVec.ofNat 8 c, gen := gen }
    let e : Epoch := { core := k, seg := bits (x.opnds.val 0) 31 28, part := part, hdr := p, due := s.later (2 * p.timeout),
                       openAcc := some x.id }
    let s := { s with gens := Tab.set s.gens key gen, epochs := s.epochs ++ [e] }
    ((s.pin p true).sendPacket p).onCore k (·.onAccess x.id fun y => { y with stage := .waiting })

/-- The 256 bytes of a row and the OR of their D bits; ECCU where a word is poisoned (R290, R444). -/
def Core.rowBytes (c : Core) (b : Nat) : Option (List Byte × Bool) :=
  let off := bits b 27 0
  if c.scrPoisoned off 256 then none else some (c.scrRead off 256, c.scrDs off 256)

/-- A write of an epoch at the remote unit (R294, R296). A reduction is marked by bit [27] of OP (assumption log 22). -/
def State.unitWrite (s : State) (k : Nat) (x : Access) (i : Nat) (e : Epoch) (p : Packet) : State :=
  let body : Option (List Byte × Bool) :=
    if x.opc == 0x183 then some (leBytes (x.opnds.val 1) 4, false)
    else if bit x.args.cond.toNat 2 then (s.core k).rowBytes (x.opnds.val 1)
    else some (leBytes (x.opnds.val 1) (accessWidth x.args.cond.toNat), false)
  if 4096 ≤ e.writes then s.fail k x { code := fcProt, detail := 0x72 }
  else match body with
    | none => s.fail k x { code := fcEccu, detail := 0 }
    | some (bs, d) =>
      let p := { p.withData bs with
        d := p.d || d, cid := e.hdr.cid, gen := e.hdr.gen, seq := BitVec.ofNat 13 e.writes,
        op := if x.opc == 0x183 then BitVec.ofNat 4 (8 + x.args.cond.toNat) else p.op }
      match s.poolTake e.part p.records with
      | none => s.fail k x { code := fcOvfl, detail := 0 }
      | some s =>
        let s := s.onEpoch i fun e => { e with writes := e.writes + 1, window := e.window ++ [(e.writes, p)], d := e.d || p.d }
        if e.st == .opening then
          (s.onEpoch i fun e => { e with held := e.held ++ [(p.seq.toNat, x.id)] }).onCore k
            (·.onAccess x.id fun y => { y with stage := .waiting })
        else s.sendWrite k p x.id

/-- `rrel` at the remote unit (R296). -/
def State.unitRelease (s : State) (k : Nat) (x : Access) (i : Nat) (e : Epoch) : State :=
  let s := s.onCore k (·.onAccess x.id fun y => { y with stage := .waiting })
  if e.st == .opening then s.onEpoch i fun e => { e with relAcc := some x.id } else s.startRelease i x.id

/-- An access to a segment whose epoch has FAILED: an `rrel` unbinds it (R296). -/
def State.unitFailed (s : State) (k : Nat) (x : Access) (i : Nat) : State :=
  let s := if x.opc == 0x185 then { s with epochs := s.epochs.eraseIdx i } else s
  s.fail k x { code := fcFabric, detail := 0x01 }

/-- The D bit of the packet that an access sends: that of its operands, of the row that it reads, and for a release that of the epoch's
writes (R290, R300). -/
def State.remoteD (s : State) (k : Nat) (x : Access) (e : Option Epoch) : Bool :=
  x.opnds.dAll || (x.opc == 0x180 && bit x.args.cond.toNat 2 && (s.core k).scrDs (bits (x.opnds.val 1) 27 0) 256) ||
  (x.opc == 0x185 && e.any (·.d))

/-- A request id that no request to a rank uses, counted per destination rank (R301, assumption log 23). -/
def State.freshReq (s : State) (drank : Nat) : BitVec 16 × State :=
  let base := Tab.get 0 s.reqids drank
  let used (r : BitVec 16) : Bool := s.requests.any fun q => q.packet.drank.toNat == drank && q.packet.reqid == r
  let n := ((List.range (s.requests.length + 1)).find? fun i => !used (base + BitVec.ofNat 16 i)).getD 0
  let r := base + BitVec.ofNat 16 n
  (r, { s with reqids := Tab.set s.reqids drank (r + 1) })

/-- A remote load or atomic leaves the remote unit: its entry is pinned until the reply (R288, R301, R302). -/
def State.unitRequest (s : State) (k : Nat) (x : Access) (p : Packet) : State :=
  let (r, s) := s.freshReq p.drank.toNat
  let p := { p with reqid := r }
  let s := { s with requests := s.requests ++ [({ core := k, access := x.id, packet := p, due := s.later (2 * p.timeout) } : Request)] }
  ((s.pin p true).sendPacket p).onCore k (·.onAccess x.id fun y => { y with stage := .waiting })

/-- Requests of `rat` that a core has in flight (R302). -/
def State.ratsOf (s : State) (k : Nat) : Nat := (s.requests.filter fun r => r.core == k && r.packet.ptype == 0x0A).length

/-- The packet type that an access sends (R295). -/
def remotePtype (opc : Nat) (win : Bool) : Nat :=
  if opc == 0x181 then 0x08 else if opc == 0x182 then 0x0A else if opc == 0x184 then 0x02 else if opc == 0x185 then 0x04
  else if win then 0x0C else 0x01

/-- A remote access at the remote unit: the rank entry, the route of a D packet, and the epoch conditions (R292). R426 requires that a
D packet without a route ends in DMARK where no epoch is open, so that the route stands before the conditions of R294 (assumption
log 131). -/
def State.doRemote (s : State) (k : Nat) (x : Access) : State :=
  match s.coreLaunch k with
  | none => s
  | some (_, l) =>
    let g := s.remoteSeg k (x.opnds.val 0)
    match s.rankOf g.job g.rank with
    | none => s.fail k x { code := fcTrans, detail := 0x73 }
    | some r =>
      let (p, s) := s.packetOf l x g r (remotePtype x.opc g.win)
      let bound := (s.boundEpoch k (bits (x.opnds.val 0) 31 28)).bind fun i => s.epochs[i]?.map fun e => (i, e)
      let noRoute := s.remoteD k x (bound.map (·.2)) && (s.route r.ports true).isNone
      if x.opc == 0x181 || x.opc == 0x182 then
        if noRoute then s.fail k x { code := fcDmark, detail := 0 }
        else if x.opc == 0x182 && 256 ≤ s.ratsOf k then s
        else s.unitRequest k x (if x.opc == 0x182 then p.withOperands x else p)
      else if x.opc == 0x183 && g.win then
        if noRoute then s.fail k x { code := fcDmark, detail := 0 }
        else s.sendWrite k (p.contribution (x.opnds.val 1)) x.id
      else match bound with
        | none =>
          if noRoute then s.fail k x { code := fcDmark, detail := 0 }
          else if x.opc != 0x184 then s.fail k x { code := fcProt, detail := 0x70 }
          else s.unitOpen k x (l.part.getD 0) p
        | some (i, e) =>
          if e.relAcc.isSome then s
          else if x.opc != 0x184 && e.st == .failed then s.unitFailed k x i
          else if noRoute then s.fail k x { code := fcDmark, detail := 0 }
          else if x.opc == 0x184 then s.fail k x { code := fcProt, detail := 0x71 }
          else if x.opc == 0x185 then s.unitRelease k x i e
          else s.unitWrite k x i e p

end Sys2Proof.Machine
end

