-- ==== Sys2Proof/Machine/Commit.lean ====
section
/-! DEFINITION. The commit of a block instance: when it is complete, what it releases and in which order, and the commit token that it
forwards (R60, R61, R241, R244, R318, R347). -/

namespace Sys2Proof.Machine

open Sys2Proof

/-- Whether an instance is complete (R60, R318): its wave is closed if its block holds an ordered access, every output of the commit set
has emitted, and its whole release set has fired. -/
def Core.complete (c : Core) (i : Instance) : Bool :=
  let ops := c.frameOpcs i.frame
  !i.committed && !i.faulted && !i.broken &&
  (!ops.any (fun x => isOrderedOpc x.2) || c.waveClosed i) &&
  ((List.range 32).all fun n => !bit (c.frame i.frame).cset n || i.outs.contains n) &&
  ops.all fun x => !isRemoteOpc x.2 || i.rels.contains x.1

/-- Whether an access is one of an instance. -/
def Access.isOf (x : Access) (f : Nat) (t : Tag) : Bool := x.frame == f && x.inst == t

/-- The released accesses of a core that an access of the same region, remote unit or slot order stands behind. -/
def Core.released (c : Core) (p : Access → Bool) : List Nat :=
  (c.accesses.filter fun y => y.stage != .held && !y.over && p y).map (·.id)

/-- Place of a remote access in its instance's order (R291): `rcopen`, then the others by slot, then `rrel`. -/
def Access.remotePlace (x : Access) : Nat := (if x.opc == 0x184 then 0 else if x.opc == 0x185 then 2 else 1) * 128 + x.slot

/-- What a held or pending access of an instance that commits in cycle `now` waits for from its release on (R241, R244, R284, R291, R347,
R437). -/
def Core.releaseAfter (c : Core) (now : Nat) (x : Access) : List Nat :=
  let own := c.accesses.filter fun y => y.isOf x.frame x.inst && y.id != x.id
  if isOrderedOpc x.opc then
    waitsFor x ((c.beforeOf x).getD []) (c.looseOf x) ++
    (if isStoreOpc x.opc then c.released fun y => isStoreOpc y.opc && y.region == x.region else [])
  else if x.opc == 0x150 then (own.filter fun y => isOrderedOpc y.opc).map (·.id)
  else if isUnitOpc x.opc then
    (own.filter fun y => isUnitOpc y.opc && y.slot < x.slot).map (·.id) ++
    c.released fun y => isUnitOpc y.opc && ctxOf y.inst == ctxOf x.inst
  else if isRemoteOpc x.opc then
    (own.filter fun y => isRemoteOpc y.opc && y.remotePlace < x.remotePlace).map (·.id) ++
    c.released fun y => isRemoteOpc y.opc && y.stage == .ready && !(y.rel == some now && ctxOf x.inst < ctxOf y.inst)
  else []

/-- Release the accesses of an instance that commits in cycle `now`. Remote accesses of higher contexts that were released in the same
cycle go behind its own (R291). -/
def Core.releaseInst (c : Core) (now f : Nat) (t : Tag) (joined : Nat) : Core :=
  let mine := (c.accesses.filter fun x => x.isOf f t && x.stage == .held && isRemoteOpc x.opc).map (·.id)
  { c with accesses := c.accesses.map fun x =>
      if x.isOf f t && (x.stage == .held || isOrderedOpc x.opc) then
        { x with stage := if x.stage == .held then .ready else x.stage, after := c.releaseAfter now x, joined := joined, rel := some now }
      else if isRemoteOpc x.opc && x.stage == .ready && x.rel == some now && ctxOf t < ctxOf x.inst then { x with after := mine ++ x.after }
      else x }

/-- The frame and tag of the commit token that an instance forwards, or the DETAIL of its ARITH fault (R60, R75). -/
def commitTarget (fr : Frame) (f : Nat) (t : Tag) : Option (Except Nat (Nat × Tag)) :=
  let go (g : Nat) (op : TagOp) : Option (Except Nat (Nat × Tag)) :=
    some (match tagApply op t with | .ok t' => .ok (g, t') | .error d => .error d)
  match fr.cnext with
  | some (.frame g op) => go g op
  | some (.here op) => go f op
  | some .last | some .entry | none => none

/-- R60 COMMIT_INSTANCE: an instance that is complete and holds its commit token releases its accesses and forwards the token. The fault word
of an ARITH fault of the commit output carries the instance's core with X = 0 and Y = 0, which no rule gives (assumption log 122). -/
def execCommitInstance (s : State) : Out :=
  atInst s fun k f t =>
    let c := s.core k
    match c.inst? f t with
    | none => s
    | some i =>
      if !(c.complete i && c.commits.contains (f, t) && s.ctxRuns k (ctxOf t)) then s
      else
        let (n, s) := s.newId
        let s := s.onCore k fun c =>
          let c := c.releaseInst s.now f t n
          { c.onInst f t (fun i => { i with committed := true, order := n }) with commits := c.commits.erase (f, t) }
        match commitTarget (c.frame f) f t with
        | none => s
        | some (.ok (g, t')) => s.onCore k fun c => { c with commits := c.commits ++ [(g, t')] }
        | some (.error d) => s.onCore k fun c => c.addPrecise
            { word := faultWord fcArith k 0 0 d, otag := t, itag := t, d := false, place := { node := 60, frame := f }, ctx := ctxOf t } none

end Sys2Proof.Machine
end

