-- ==== Sys2Proof/Machine/Crypto.lean ====
section
/-! DEFINITION. The cryptographic functions that the spec names and that need no secret of the device: SHAKE256 and KMAC256 (R399: FIPS 202,
SP 800-185), AES-256-GCM (R401, R409: FIPS 197, SP 800-38D), the verification of XMSSMT-SHAKE256_60/12_256 (R414: SP 800-208) and the
equation of the curve P-384 (R401, R408: SP 800-186). The spec
names the standards and does not repeat them (assumption log 135). -/

namespace Sys2Proof.Machine.Crypto

open Sys2Proof

/-! ## Bytes and numbers -/

/-- A number as `n` bytes, the most significant first. -/
def beBytes (n v : Nat) : List Byte := (List.range n).map fun i => BitVec.ofNat 8 (v / 256 ^ (n - 1 - i))

/-- The number of some bytes, the most significant first. -/
def ofBe (bs : List Byte) : Nat := bs.foldl (fun a b => 256 * a + b.toNat) 0

/-- The number of some bytes, the least significant first. -/
def ofLe : List Byte → Nat
  | [] => 0
  | b :: bs => b.toNat + 256 * ofLe bs

/-- A number as `n` bytes, the least significant first. -/
def leBytesOf : Nat → Nat → List Byte
  | 0, _ => []
  | n + 1, v => BitVec.ofNat 8 v :: leBytesOf n (v / 256)

/-- Bytewise XOR. -/
def xorBytes (a b : List Byte) : List Byte := List.zipWith (· ^^^ ·) a b

/-- Blocks of `n` elements, the last one shorter; `fuel` bounds their number. -/
def blocks {α : Type} (n : Nat) : Nat → List α → List (List α)
  | 0, _ => []
  | fuel + 1, xs => if xs.isEmpty then [] else xs.take n :: blocks n fuel (xs.drop n)

/-! ## Keccak (FIPS 202) -/

/-- Rotation of a 64-bit lane to the left. -/
def rotl64 (x n : Nat) : Nat := (x <<< n ||| x >>> (64 - n)) % 2 ^ 64

/-- Rotation offsets of ρ, lane x + 5y. -/
def rhoOffsets : List Nat := [0, 1, 62, 28, 27, 36, 44, 6, 55, 20, 3, 10, 43, 25, 39, 41, 45, 15, 21, 8, 18, 2, 61, 56, 14]

/-- Round constants of ι. -/
def iotaConsts : List Nat :=
  [0x0000000000000001, 0x0000000000008082, 0x800000000000808A, 0x8000000080008000, 0x000000000000808B, 0x0000000080000001,
   0x8000000080008081, 0x8000000000008009, 0x000000000000008A, 0x0000000000000088, 0x0000000080008009, 0x000000008000000A] ++
  [0x000000008000808B, 0x800000000000008B, 0x8000000000008089, 0x8000000000008003, 0x8000000000008002, 0x8000000000000080,
   0x000000000000800A, 0x800000008000000A, 0x8000000080008081, 0x8000000000008080, 0x0000000080000001, 0x8000000080008008]

/-- θ: each lane takes the parity of two columns. -/
def theta (a : List Nat) : List Nat :=
  let g (i : Nat) : Nat := a.getD i 0
  let c := (List.range 5).map fun x => g x ^^^ g (x + 5) ^^^ g (x + 10) ^^^ g (x + 15) ^^^ g (x + 20)
  let d := (List.range 5).map fun x => c.getD ((x + 4) % 5) 0 ^^^ rotl64 (c.getD ((x + 1) % 5) 0) 1
  (List.range 25).map fun i => g i ^^^ d.getD (i % 5) 0

/-- ρ and π: lanes are rotated and moved. -/
def rhoPi (a : List Nat) : List Nat :=
  (List.range 25).map fun j =>
    let i := (j % 5 + 3 * (j / 5)) % 5 + 5 * (j % 5)
    rotl64 (a.getD i 0) (rhoOffsets.getD i 0)

/-- χ: each lane takes a nonlinear combination of its row. -/
def chi (a : List Nat) : List Nat :=
  (List.range 25).map fun j =>
    let g (x : Nat) : Nat := a.getD ((j % 5 + x) % 5 + j / 5 * 5) 0
    g 0 ^^^ ((2 ^ 64 - 1 - g 1) &&& g 2)

/-- ι: lane 0 takes the round constant. -/
def iota (rc : Nat) : List Nat → List Nat
  | [] => []
  | x :: xs => (x ^^^ rc) :: xs

/-- The permutation Keccak-f[1600]. -/
def keccakF (a : List Nat) : List Nat := iotaConsts.foldl (fun a rc => iota rc (chi (rhoPi (theta a)))) a

/-- Bytes of the rate of SHAKE256. -/
def rate : Nat := 136

/-- A block enters the state. -/
def absorb (a : List Nat) (block : List Byte) : List Nat :=
  keccakF ((List.range 25).map fun i => a.getD i 0 ^^^ ofLe ((block.drop (8 * i)).take 8))

/-- Blocks leave the state. -/
def squeeze : Nat → List Nat → List Byte
  | 0, _ => []
  | n + 1, a => (a.flatMap (leBytesOf 8)).take rate ++ squeeze n (keccakF a)

/-- The sponge: a message, the bits that its function appends before the padding, and the bytes of output. -/
def sponge (m : List Byte) (suffix : Nat) (n : Nat) : List Byte :=
  let zeros := rate - 1 - m.length % rate
  let tail : List Byte := if zeros == 0 then [BitVec.ofNat 8 (suffix ||| 0x80)]
    else BitVec.ofNat 8 suffix :: List.replicate (zeros - 1) 0#8 ++ [0x80#8]
  let a := (blocks rate (m.length / rate + 1) (m ++ tail)).foldl absorb (List.replicate 25 0)
  (squeeze ((n + rate - 1) / rate) a).take n

/-- SHAKE256 of a message, `n` bytes. -/
def shake256 (m : List Byte) (n : Nat) : List Byte := sponge m 0x1F n

/-! ## KMAC256 (SP 800-185) -/

/-- Bytes that a number needs, at least one. -/
def widthOf (v : Nat) : Nat := if v == 0 then 1 else v.log2 / 8 + 1

def leftEncode (v : Nat) : List Byte := BitVec.ofNat 8 (widthOf v) :: beBytes (widthOf v) v
def rightEncode (v : Nat) : List Byte := beBytes (widthOf v) v ++ [BitVec.ofNat 8 (widthOf v)]
def encodeString (bs : List Byte) : List Byte := leftEncode (8 * bs.length) ++ bs

/-- Bytes padded to whole blocks of the rate. -/
def bytepad (bs : List Byte) : List Byte :=
  let x := leftEncode rate ++ bs
  x ++ List.replicate ((rate - x.length % rate) % rate) 0#8

/-- The function name of KMAC. -/
def kmacName : List Byte := [0x4B#8, 0x4D#8, 0x41#8, 0x43#8]

/-- KMAC256 without customisation: key, message, bytes of output. -/
def kmac256 (key m : List Byte) (n : Nat) : List Byte :=
  sponge (bytepad (encodeString kmacName ++ encodeString []) ++ bytepad (encodeString key) ++ m ++ rightEncode (8 * n)) 0x04 n

/-! ## AES-256 (FIPS 197) -/

/-- Product by x in GF(2^8). -/
def xtime (a : Nat) : Nat := if a < 128 then 2 * a else (2 * a) ^^^ 0x11B

/-- Product in GF(2^8). -/
def gmul (a b : Nat) : Nat :=
  ((List.range 8).foldl (fun (r : Nat × Nat) i => (if b.testBit i then r.1 ^^^ r.2 else r.1, xtime r.2)) (0, a)).1

/-- The inverse in GF(2^8), 0 for 0: the 254th power. -/
def ginv (a : Nat) : Nat := (List.range 6).foldl (fun r _ => gmul (gmul r r) a) a |> fun r => gmul r r

/-- The S-box. -/
def sbox (a : Nat) : Nat :=
  let b := ginv a
  let rot (n : Nat) : Nat := (b <<< n ||| b >>> (8 - n)) % 256
  b ^^^ rot 1 ^^^ rot 2 ^^^ rot 3 ^^^ rot 4 ^^^ 0x63

/-- The S-box applied to each byte of a word. -/
def subWord (w : List Nat) : List Nat := w.map sbox

/-- The next word of the key schedule; `ws` holds the words so far, the newest first. -/
def nextKeyWord (ws : List (List Nat)) : List Nat :=
  let i := ws.length
  let t := ws.headD []
  let u := if i % 8 == 0 then
      match subWord (t.drop 1 ++ t.take 1) with
      | b :: bs => (b ^^^ 2 ^ (i / 8 - 1)) :: bs
      | [] => []
    else if i % 8 == 4 then subWord t else t
  List.zipWith (· ^^^ ·) (ws.getD 7 []) u

/-- The 15 round keys of 16 bytes. -/
def roundKeys (key : List Byte) : List (List Nat) :=
  let start := (blocks 4 8 (key.map (·.toNat))).reverse
  let ws := ((List.range 52).foldl (fun ws _ => nextKeyWord ws :: ws) start).reverse
  (blocks 4 15 ws).map List.flatten

/-- Bytes moved along the rows of the state, which is listed by column. -/
def shiftRows (b : List Nat) : List Nat := (List.range 16).map fun i => b.getD ((i + 4 * (i % 4)) % 16) 0

/-- A column of the state mixed. -/
def mixColumn (c : List Nat) : List Nat :=
  (List.range 4).map fun i =>
    let g (j : Nat) : Nat := c.getD ((i + j) % 4) 0
    gmul (g 0) 2 ^^^ gmul (g 1) 3 ^^^ g 2 ^^^ g 3

/-- One round of AES; the last mixes no columns. -/
def aesRound (last : Bool) (b key : List Nat) : List Nat :=
  let b := shiftRows (b.map sbox)
  List.zipWith (· ^^^ ·) (if last then b else (blocks 4 4 b).flatMap mixColumn) key

/-- AES-256 of one block under expanded keys. -/
def aesBlock (keys : List (List Nat)) (block : List Byte) : List Byte :=
  let b := List.zipWith (· ^^^ ·) (block.map (·.toNat)) (keys.headD [])
  let b := (keys.tail.take 13).foldl (aesRound false) b
  (aesRound true b (keys.getD 14 [])).map (BitVec.ofNat 8)

/-! ## GCM (SP 800-38D) -/

/-- Product in GF(2^128), bit 0 the most significant. -/
def gmul128 (x y : Nat) : Nat :=
  ((List.range 128).foldl (fun (r : Nat × Nat) i =>
    (if x.testBit (127 - i) then r.1 ^^^ r.2 else r.1, if r.2.testBit 0 then r.2 / 2 ^^^ (0xE1 <<< 120) else r.2 / 2)) (0, y)).1

/-- Bytes padded with zeros to whole blocks of 16. -/
def pad16 (bs : List Byte) : List Byte := bs ++ List.replicate ((16 - bs.length % 16) % 16) 0#8

/-- GHASH of whole blocks. -/
def ghash (h : Nat) (bs : List Byte) : Nat := (blocks 16 (bs.length / 16) bs).foldl (fun y b => gmul128 (y ^^^ ofBe b) h) 0

/-- Counter mode from the counter block's 12 bytes and a first counter. -/
def counterMode (keys : List (List Nat)) (iv : List Byte) (bs : List Byte) : List Byte :=
  ((blocks 16 (bs.length / 16 + 1) bs).zipIdx.map fun (b, i) => xorBytes b (aesBlock keys (iv ++ beBytes 4 (i + 2)))).flatten

/-- The tag of a ciphertext. -/
def gcmTag (keys : List (List Nat)) (iv aad ct : List Byte) : List Byte :=
  let h := ofBe (aesBlock keys (List.replicate 16 0#8))
  let s := ghash h (pad16 aad ++ pad16 ct ++ beBytes 8 (8 * aad.length) ++ beBytes 8 (8 * ct.length))
  xorBytes (beBytes 16 s) (aesBlock keys (iv ++ beBytes 4 1))

/-- AES-256-GCM encryption with an IV of 12 bytes: ciphertext and tag. -/
def gcmEncrypt (key iv aad pt : List Byte) : List Byte × List Byte :=
  let keys := roundKeys key
  let ct := counterMode keys iv pt
  (ct, gcmTag keys iv aad ct)

/-- AES-256-GCM decryption; none where the tag fails. -/
def gcmDecrypt (key iv aad ct tag : List Byte) : Option (List Byte) :=
  let keys := roundKeys key
  if gcmTag keys iv aad ct == tag then some (counterMode keys iv ct) else none

/-! ## XMSSMT-SHAKE256_60/12_256: verification (SP 800-208, RFC 8391) -/

/-- A hash address: layer, tree, type, and three words. -/
structure Adrs where
  layer : Nat
  tree : Nat
  type : Nat
  w4 : Nat
  w5 : Nat
  w6 : Nat

/-- The 32 bytes of an address with its keyAndMask word. -/
def Adrs.bytes (a : Adrs) (keyAndMask : Nat) : List Byte :=
  beBytes 4 a.layer ++ beBytes 8 a.tree ++ beBytes 4 a.type ++ beBytes 4 a.w4 ++ beBytes 4 a.w5 ++ beBytes 4 a.w6 ++ beBytes 4 keyAndMask

/-- A keyed hash by its number: 0 F, 1 H, 2 H_msg, 3 PRF. -/
def keyed (i : Nat) (key m : List Byte) : List Byte := shake256 (beBytes 32 i ++ key ++ m) 32
def prf (seed : List Byte) (a : Adrs) (i : Nat) : List Byte := keyed 3 seed (a.bytes i)

/-- Two nodes hashed under an address. -/
def randHash (seed : List Byte) (a : Adrs) (l r : List Byte) : List Byte :=
  keyed 1 (prf seed a 0) (xorBytes l (prf seed a 1) ++ xorBytes r (prf seed a 2))

/-- A chain from step `i`, `n` steps on. -/
def chain (seed : List Byte) (a : Adrs) : Nat → Nat → List Byte → List Byte
  | 0, _, x => x
  | n + 1, i, x =>
    let a := { a with w6 := i }
    chain seed a n (i + 1) (keyed 0 (prf seed a 0) (xorBytes x (prf seed a 1)))

/-- The base-16 digits of some bytes, the high half first. -/
def nibbles (bs : List Byte) : List Nat := bs.flatMap fun b => [b.toNat / 16, b.toNat % 16]

/-- The 67 digits of a message of 32 bytes: its own and its checksum's. -/
def wotsDigits (m : List Byte) : List Nat :=
  let d := nibbles m
  let sum := d.foldl (fun a x => a + (15 - x)) 0
  d ++ (nibbles (beBytes 2 (16 * sum))).take 3

/-- The public key of a WOTS+ signature. -/
def wotsPk (seed : List Byte) (a : Adrs) (sig : List (List Byte)) (m : List Byte) : List (List Byte) :=
  (List.zip sig (wotsDigits m)).zipIdx.map fun ((x, d), i) => chain seed { a with w5 := i } (15 - d) d x

/-- One level of an L-tree: nodes hashed in pairs, a last single one kept. -/
def ltreeLevel (seed : List Byte) (a : Adrs) : Nat → List (List Byte) → List (List Byte)
  | i, l :: r :: rest => randHash seed { a with w6 := i } l r :: ltreeLevel seed a (i + 1) rest
  | _, xs => xs

/-- The root of an L-tree, whose height is at most `fuel`. -/
def ltree (seed : List Byte) (a : Adrs) : Nat → Nat → List (List Byte) → List Byte
  | 0, _, xs => xs.headD []
  | fuel + 1, h, xs => if xs.length ≤ 1 then xs.headD [] else ltree seed a fuel (h + 1) (ltreeLevel seed { a with w5 := h } 0 xs)

/-- Up a tree from a leaf along its authentication path. -/
def climb (seed : List Byte) (a : Adrs) (leaf : Nat) : Nat → List (List Byte) → List Byte → List Byte
  | _, [], node => node
  | h, p :: path, node =>
    let a := { a with w5 := h, w6 := leaf / 2 ^ (h + 1) }
    climb seed a leaf (h + 1) path (if leaf / 2 ^ h % 2 == 0 then randHash seed a node p else randHash seed a p node)

/-- The root that one layer's signature of a message leads to: 67 chain values and a path of 5 nodes. -/
def layerRoot (seed : List Byte) (layer tree leaf : Nat) (sig : List (List Byte)) (m : List Byte) : List Byte :=
  let a (type w4 : Nat) : Adrs := { layer := layer, tree := tree, type := type, w4 := w4, w5 := 0, w6 := 0 }
  let node := ltree seed (a 1 leaf) 7 0 (wotsPk seed (a 0 leaf) (sig.take 67) m)
  climb seed (a 2 0) leaf 0 ((sig.drop 67).take 5) node

/-- The root that the layers from `layer` up lead to; `idx` is what is left of the index. -/
def layersRoot (seed : List Byte) : Nat → Nat → List (List (List Byte)) → List Byte → List Byte
  | _, _, [], m => m
  | layer, idx, sig :: sigs, m => layersRoot seed (layer + 1) (idx / 32) sigs (layerRoot seed layer (idx / 32) (idx % 32) sig m)

/-- Whether a signature of 27,688 bytes is one of a message under a public key of root and seed (R401, R414). -/
def xmssVerify (key m sig : List Byte) : Bool :=
  let root := key.take 32
  let seed := (key.drop 32).take 32
  let idx := sig.take 8
  let digest := keyed 2 ((sig.drop 8).take 32 ++ root ++ List.replicate 24 0#8 ++ idx) m
  let layers := blocks 72 12 (blocks 32 864 (sig.drop 40))
  sig.length == 27688 && layersRoot seed 0 (ofBe idx) layers digest == root

/-! ## The curve P-384 (SP 800-186) -/

/-- The prime of the field of P-384. -/
def p384Prime : Nat := 2 ^ 384 - 2 ^ 128 - 2 ^ 96 + 2 ^ 32 - 1

/-- The constant term of the curve's equation. -/
def p384B : Nat := 0xb3312fa7e23ee7e4988e056be3f82d19181d9c6efe8141120314088f5013875ac656398d8a2ed19d2a85c8edd3ec2aef

/-- Whether 96 bytes, x then y, big-endian, are a point of the curve: y^2 = x^3 - 3 x + b (R401, R407, R408). -/
def onP384 (bs : List Byte) : Bool :=
  let x := ofBe (bs.take 48)
  let y := ofBe ((bs.drop 48).take 48)
  let p := p384Prime
  x < p && y < p && y * y % p == (x * x * x + (p - 3) * x + p384B) % p

end Sys2Proof.Machine.Crypto
end

