-- ==== Sys2Proof/Machine/ElemSys.lean ====
section
/-! DEFINITION. The system instructions of the elements: `sdec` and `senc` at the session engine (R409, R410), software faults (R437) and
special registers (R438). -/

namespace Sys2Proof.Machine

open Sys2Proof

/-! ## sdec and senc: firing (R257, R410) -/

/-- The class rule of the record that `sdec` reads: REQUEST of the launch's domain (R393, R410). -/
def ruleRequest (dom : Option Nat) (t : Trans) : Option Nat := if t.cls == 4 && dom == some t.sdom then none else some fcClass

/-- The check of a request record: the local window has no class and holds none. -/
def State.checkRequest (s : State) (k a n : Nat) : Except Bad Spot × State :=
  match s.checkSpotBy k a n true false (ruleRequest (s.coreSdom k)) with
  | (.ok p, s) => if p.loc then (.error { code := fcClass, detail := 0, va := some p.va }, s) else (.ok p, s)
  | r => r

def protBad (detail : Nat) : Bad := { code := fcProt, detail := detail }
def misaligned : Bad := { code := fcMisalign, detail := 0 }

/-- The checks of `sdec` at firing. -/
def State.checkSdec (s : State) (k a b : Nat) : Except Bad (Nat × Nat) × State :=
  if a % 64 != 0 || b % 4 != 0 then (.error misaligned, s)
  else match s.checkRequest k a 1 with
    | (.error e, s) => (.error e, s)
    | (.ok p, s) =>
      match s.checkSpot k b 1 false true true with
      | (.error e, s) => (.error e, s)
      | (.ok _, s) => (.ok (p.va, 0), s)

/-- The checks of `senc` at firing; a control word that breaks its form is malformed as in R257 step 1. -/
def State.checkSenc (s : State) (k a b : Nat) : Except Bad (Nat × Nat) × State :=
  if bits b 23 17 != 0 || bits b 16 0 == 0 || 65536 < bits b 16 0 then (.error badControl, s)
  else if a % 4 != 0 then (.error misaligned, s)
  else match s.checkSpot k a 1 true false false with
    | (.error e, s) => (.error e, s)
    | (.ok p, s) => (.ok (p.va, 0), s)

/-- Fire `sdec` or `senc`: a launch without a seal domain faults (R410). -/
def fireSession (i : Instr) (s : State) (check : State → Nat → Nat → Nat → Except Bad (Nat × Nat) × State) : Out :=
  fireControl i s true fun s sh o =>
    if (s.coreSdom sh.k).isNone then (.error (protBad 0xB0), s) else check s sh.k (o.val 0) (o.val 1)

/-- R410 `sdec`. -/
def execSdec (a : ElemArgs) (s : State) : Out := fireSession (.sdec a) s State.checkSdec
/-- R410 `senc`. -/
def execSenc (a : ElemArgs) (s : State) : Out := fireSession (.senc a) s State.checkSenc

/-! ## sdec and senc: at the session engine (R409, R410) -/

/-- The session that a SID names, if it is open (R408). -/
def State.session? (s : State) (sid : Word) : Option Session :=
  match Tab.find? s.sessions (sid.toNat % 4096) with
  | some x => if x.isOpen && x.gen == sid.toNat / 4096 then some x else none
  | none => none

/-- The session of a launch's own partition and domain that a SID names. -/
def State.ownSession (s : State) (k : Nat) (sid : Word) : Option Session :=
  match s.session? sid with
  | some x => if some x.part == s.corePart k && some x.sdom == s.coreSdom k then some x else none
  | none => none

def State.onSession (s : State) (sid : Word) (f : Session → Session) : State :=
  { s with sessions := Tab.modify {} s.sessions (sid.toNat % 4096) f }

/-- KRQ and KRP of a session secret (R408). -/
def Session.krq (x : Session) : List Byte := x.secret.take 32
def Session.krp (x : Session) : List Byte := (x.secret.drop 32).take 32

/-- The IV of a record (R409). -/
def recordIv (seq : Nat) : List Byte := leBytes seq 8 ++ leBytes 0 4

/-- Exactly `n` bytes: cut, or padded with zeros. -/
def fitBytes (n : Nat) (bs : List Byte) : List Byte := (bs ++ List.replicate n 0#8).take n

/-- Whether a record header breaks R409. -/
def headerBad (ws : List Word) : Bool :=
  bits (wordAt ws 1) 31 17 != 0 || bits (wordAt ws 1) 16 0 == 0 || 65536 < bits (wordAt ws 1) 16 0 || (ws.drop 8).any (· != 0)

/-- Words of `n` bytes. -/
def wordCount (n : Nat) : Nat := (n + 3) / 4

/-- Data bytes of the request record at an element address; none where it cannot be read as one (R409, R410). -/
def State.requestLen (s : State) (k a : Nat) : Option Nat :=
  match s.checkRequest k a 64 with
  | (.ok p, s) =>
    match (s.readSpot k p 64).1 with
    | .ok h => some (bits (wordAt (wordsOfBytes h) 1) 16 0)
    | .error _ => none
  | (.error _, _) => none

/-- The end of an `sdec` whose header `h` and session have passed their checks. -/
def State.decrypt (s : State) (k : Nat) (x : Access) (h : List Word) (se : Session) : State :=
  let a := x.opnds.val 0
  let len := bits (wordAt h 1) 16 0
  let seq := dwordAt h 2
  match s.checkRequest k (a + 64) len with
  | (.error e, s) => s.fail k x e
  | (.ok src, s) =>
    match s.checkSpot k (x.opnds.val 1) (4 * wordCount len) false true true with
    | (.error e, s) => s.fail k x e
    | (.ok dst, s) =>
      match s.readSpot k src len with
      | (.error e, s) => s.fail k x e
      | (.ok data, s) =>
        let hb := bytesOfWords h
        match Crypto.gcmDecrypt se.krq (recordIv seq) (hb.take 16) data ((hb.drop 16).take 16) with
        | none => s.fail k x (protBad 0xB4)
        | some p =>
          match s.engineSpot k dst (fitBytes (4 * wordCount len) (fitBytes len p)) fun _ => true with
          | (.error e, s) => s.fail k x e
          | (.ok _, s) =>
            let s := s.onSession (h.headD 0) fun y =>
              { y with rqseq := BitVec.ofNat 64 seq, reqs := y.reqs + 1, prompt := y.prompt + BitVec.ofNat 64 (wordCount len) }
            (s.finish k x len true).settle

/-- `sdec` is performed (R410). -/
def State.doSdec (s : State) (k : Nat) (x : Access) : State :=
  match s.checkRequest k (x.opnds.val 0) 64 with
  | (.error e, s) => s.fail k x e
  | (.ok p, s) =>
    match s.readSpot k p 64 with
    | (.error e, s) => s.fail k x e
    | (.ok hb, s) =>
      let h := wordsOfBytes hb
      if headerBad h then s.fail k x (protBad 0xB2)
      else match s.ownSession k (h.headD 0) with
        | none => s.fail k x (protBad 0xB1)
        | some se => if dwordAt h 2 ≤ se.rqseq.toNat then s.fail k x (protBad 0xB3) else s.decrypt k x h se

/-- A reply binding of a core's partition that its launch may use. -/
def State.ownBinding (s : State) (k b : Nat) : Option (Nat × Binding) :=
  match s.corePart k with
  | none => none
  | some p =>
    match Tab.find? (s.part p).bindings b with
    | some g => if some g.sdom == s.coreSdom k then some (p, g) else none
    | none => none

/-- The pages that a reply record goes to: REPLY of the binding's domain (R411). -/
def State.replyPieces (s : State) (g : Binding) (n : Nat) : Except Bad (List Piece) × State :=
  let va := g.base + g.woff
  let bad (c : Nat) (s : State) : Except Bad (List Piece) × State := (.error { code := c, detail := 0, va := some va }, s)
  match s.translateAll none none g.asid (pageParts va n) with
  | (none, s) => bad fcTrans s
  | (some ps, s) =>
    if ps.any fun p => !p.t.w then bad fcProt s
    else if ps.any fun p => p.t.cls != 3 || p.t.sdom != g.sdom then bad fcClass s
    else match s.piecesFault ps true with
      | some (c, _) => bad c s
      | none => (.ok ps, s)

/-- A reply record: the header with its tag, the ciphertext and its pad (R409). -/
def replyRecord (krp : List Byte) (sid : Word) (seq n : Nat) (data : List Byte) : List Byte :=
  let aad := leBytes sid.toNat 4 ++ leBytes data.length 4 ++ leBytes seq 8
  let (c, t) := Crypto.gcmEncrypt krp (recordIv seq) aad data
  fitBytes n (aad ++ fitBytes 16 t ++ List.replicate 32 0#8 ++ fitBytes data.length c)

/-- The pages of a reply record without its first word, and the place of that word: a record is 64-byte aligned, so that the word lies in
its first piece. -/
def splitWord0 : List Piece → List Piece × List Piece
  | [] => ([], [])
  | p :: ps => ([{ p with n := 4 }], { t := { p.t with pa := p.t.pa + 4 }, n := p.n - 4 } :: ps)

/-- A reply record is written: word 0 last, and performed at `.sys` scope (R236, R410). -/
def State.writeReply (s : State) (ps : List Piece) (bs : List Byte) : State :=
  let (w0, rest) := splitWord0 ps
  ((s.putPieces rest (bs.drop 4)).putPieces w0 (bs.take 4)).postAll

/-- `senc` is performed (R410). -/
def State.doSenc (s : State) (k : Nat) (x : Access) : State :=
  let a := x.opnds.val 0
  let b := x.opnds.val 1
  let len := bits b 16 0
  match s.ownBinding k (bits b 31 24) with
  | none => s.fail k x (protBad 0xB5)
  | some (p, g) =>
    let n := 64 + 64 * ((len + 63) / 64)
    if g.size < g.woff + n then s.fail k x (protBad 0xB6)
    else match s.checkSpot k a len true false false with
      | (.error e, s) => s.fail k x e
      | (.ok src, s) =>
        match s.session? g.sid with
        | none => s.fail k x (protBad 0xB1)
        | some se =>
          match s.readSpot k src len with
          | (.error e, s) => s.fail k x e
          | (.ok data, s) =>
            match s.replyPieces g n with
            | (.error e, s) => s.fail k x e
            | (.ok ps, s) =>
              let s := s.writeReply ps (replyRecord se.krp g.sid se.rpseq.toNat n data)
              let s := s.onSession g.sid fun y => { y with rpseq := y.rpseq + 1 }
              let s := s.onPart p fun q => { q with bindings := Tab.set q.bindings (bits b 31 24) { g with woff := g.woff + n } }
              (s.finish k x a x.opnds.dAll).settle

/-! ## trap and fault (R437) -/

/-- Whether an operand of `trap` or `fault` is no software code. -/
def softBad (a : Nat) : Bool := bits a 31 16 != 0 || bits a 7 0 < 0x80

/-- R437 `trap`: the record is written as it issues. -/
def execTrap (a : ElemArgs) (s : State) : Out :=
  issueOp s a false 1 fun s sh o =>
    let v := o.val 0
    if softBad v then s.raise sh fcArith 0xC0 o.tag o.dAll
    else
      let s := match s.coreLaunch sh.k with
        | some (_, l) =>
          match l.part with
          | some p => s.postCore sh.k p
              { kind := 1, queue := l.q, word := faultWord (bits v 7 0) sh.k (colOf sh.e) (rowOf sh.e) (bits v 15 8), otag := o.tag,
                itag := o.tag, score := sh.k, x := colOf sh.e, y := rowOf sh.e, node := 63, frame := sh.frame, slot := sh.slot,
                cid := l.cid, ctx := ctxOf sh.inst, d := o.d 0 }
          | none => s
        | none => s
      s.yield sh o (yieldAll a o v (o.d 0))

/-- R437 `fault`: it travels as an F token of the element's own. -/
def execFault (a : ElemArgs) (s : State) : Out :=
  issueOp s a false 1 fun s sh o =>
    let v := o.val 0
    if softBad v then s.raise sh fcArith 0xC0 o.tag o.dAll else s.raise sh (bits v 7 0) (bits v 15 8) o.tag o.dAll

/-! ## Special registers (R438) -/

/-- The value of a special register for an element of a launch; none for a reserved number. -/
def State.sregValue (s : State) (k e : Nat) (l : Launch) (n : Nat) : Option Nat :=
  let cycle := s.now - (s.seq (k / 4)).start
  let c := s.core k
  let part := match l.part with | some p => s.part p | none => {}
  if n == 0x000 then some k
  else if n == 0x001 then some e
  else if n == 0x002 then some (cycle % 2 ^ 32)
  else if n == 0x003 then some (cycle / 2 ^ 32)
  else if n == 0x004 then some c.partw
  else if n == 0x005 then some l.cid
  else if n == 0x006 then some (match l.sdom? with | some d => 2 ^ 31 + d | none => 0)
  else if 0x010 ≤ n && n ≤ 0x01F then some (Tab.get 0 c.user (n - 0x010)).toNat
  else if 0x100 ≤ n && n ≤ 0x109 then some (Tab.get 0 c.counters (n - 0x100)).toNat
  else if 0x180 ≤ n && n ≤ 0x189 then some (Tab.get 0 part.counters (n - 0x180)).toNat
  else none

/-- Whether a special register may be written. -/
def sregWritable (n : Nat) : Bool := (0x010 ≤ n && n ≤ 0x01F) || (0x100 ≤ n && n ≤ 0x109)

/-- R438 `sreg.rd`. -/
def execSregRd (a : ElemArgs) (s : State) : Out :=
  issueOp s a false 1 fun s sh o =>
    match s.coreLaunch sh.k with
    | none => s
    | some (_, l) =>
      match s.sregValue sh.k sh.e l (o.val 0) with
      | none => s.raise sh fcProt 0xC1 o.tag o.dAll
      | some v => s.yield sh o (yieldAll a o v (o.d 0))

/-- R438 `sreg.wr`: checked at firing and written at release. -/
def execSregWr (a : ElemArgs) (s : State) : Out :=
  fireControl (.sregWr a) s true fun s sh o =>
    let n := o.val 0
    let known := match s.coreLaunch sh.k with | some (_, l) => (s.sregValue sh.k sh.e l n).isSome | none => false
    (if !known then .error (protBad 0xC1)
     else if !sregWritable n then .error (protBad 0xC2)
     else if o.dAll then .error { code := fcDmark, detail := 0 }
     else .ok (0, 0), s)

/-- `sreg.wr` is performed. -/
def State.doSregWr (s : State) (k : Nat) (x : Access) : State :=
  let n := x.opnds.val 0
  let v : Word := BitVec.ofNat 32 (x.opnds.val 1)
  (s.onCore k fun c =>
    if n < 0x100 then { c with user := Tab.set c.user (n - 0x010) v }
    else { c with counters := Tab.set c.counters (n - 0x100) v }).finish k x n x.opnds.dAll

end Sys2Proof.Machine
end

