-- ==== Sys2Proof/Machine/Serpent.lean ====
section
/-! DEFINITION. The Serpent units: grammar images (R363), contexts (R364) and the `g.*` instructions (R365, R366), as they are performed. -/

namespace Sys2Proof.Machine

open Sys2Proof

/-- A context by its number, cluster × 64 + context. -/
def State.serpent? (s : State) (c : Nat) : Option Serpent := Tab.find? s.serpents c
def State.setSerpent (s : State) (c : Nat) (x : Serpent) : State := { s with serpents := Tab.set s.serpents c x }

/-- The lowest free context of a cluster's unit. -/
def State.freeSerpent (s : State) (cluster : Nat) : Option Nat :=
  ((List.range 64).find? fun i => (s.serpent? (64 * cluster + i)).isNone).map (64 * cluster + ·)

/-- Read `n` bytes at a virtual address of a core's launch under R258, with the D bit of the pages. -/
def State.readVa (s : State) (k va n : Nat) : Except Bad (List Byte × Bool) × State :=
  match s.checkVa k va n true false false with
  | (.error b, s) => (.error b, s)
  | (.ok p, s) =>
    match s.readSpot k p n with
    | (.error b, s) => (.error b, s)
    | (.ok bs, s) => (.ok (bs, p.pieces.any fun x => x.t.cls == 2), s)

/-! ## Grammar images (R363) -/

/-- A grammar header, decoded. -/
structure Grammar where
  base : Nat
  nsym : Nat
  nst : Nat
  vocab : Nat
  nclass : Nat
  nmask : Nat
  bottom : Nat
  start : Nat
  modeOfs : Nat
  clsOfs : Nat
  actOfs : Nat
  maskOfs : Nat
  d : Bool
  deriving DecidableEq, Repr

/-- The fault of an invalid image. -/
def badGrammar : Bad := { code := fcProt, detail := 0x99 }

/-- The header in 16 words; none where R363 calls it invalid. -/
def grammarOf (base : Nat) (d : Bool) (w : List Word) : Option Grammar :=
  let x := wordAt w
  let g : Grammar := {
    base := base, nsym := bits (x 1) 23 16, nst := bits (x 1) 11 0, vocab := x 2, nclass := bits (x 3) 31 16, nmask := bits (x 3) 15 0,
    bottom := bits (x 4) 23 16, start := bits (x 4) 11 0, modeOfs := x 5, clsOfs := x 6, actOfs := x 7, maskOfs := x 8, d := d }
  if x 0 != 0x47524D52 || bits (x 1) 31 24 != 0 || bits (x 1) 15 12 != 0 || g.vocab % 2048 != 0 || 262144 < g.vocab ||
    [5, 6, 7, 8].any (fun i => x i % 256 != 0) || [9, 10, 11, 12, 13, 14, 15].any (fun i => x i != 0) ||
    g.nst < g.start || g.nsym < g.bottom then none
  else some g

/-- Read and check the grammar header at a virtual address. -/
def State.grammar (s : State) (k va : Nat) : Except Bad Grammar × State :=
  if va % 256 != 0 then (.error badGrammar, s)
  else match s.readVa k va 64 with
    | (.error b, s) => (.error b, s)
    | (.ok (bs, d), s) =>
      match grammarOf va d (wordsOfBytes bs) with
      | none => (.error badGrammar, s)
      | some g => (.ok g, s)

/-- A little-endian value of a grammar table, with the D bit of its pages (R347). -/
def State.grammarEntry (s : State) (k va n : Nat) : Except Bad (Nat × Bool) × State :=
  match s.readVa k va n with
  | (.error b, s) => (.error b, s)
  | (.ok (bs, d), s) => (.ok (ofLeBytes bs, d), s)

/-- The entry of the mode table for a context's state and stack top. -/
def State.modeEntry (s : State) (k : Nat) (g : Grammar) (c : Serpent) : Except Bad (Nat × Bool) × State :=
  s.grammarEntry k (g.base + g.modeOfs + 8 * (c.st * (g.nsym + 1) + c.stack.headD 0)) 8

/-- The class of a token. -/
def State.tokenClass (s : State) (k : Nat) (g : Grammar) (token : Nat) : Except Bad (Nat × Bool) × State :=
  match s.grammarEntry k (g.base + g.clsOfs + 2 * token) 2 with
  | (.error b, s) => (.error b, s)
  | (.ok (c, d), s) => (if g.nclass < c then .error badGrammar else .ok (c, d), s)

/-- The first action of a class among `n` from an index, with the OR of `d` and the D bits of the entries read. -/
def State.findAction (s : State) (k : Nat) (g : Grammar) (cls : Nat) (d : Bool) : Nat → Nat → Except Bad (Option Nat × Bool) × State
  | 0, _ => (.ok (none, d), s)
  | n + 1, i =>
    match s.grammarEntry k (g.base + g.actOfs + 8 * i) 8 with
    | (.error b, s) => (.error b, s)
    | (.ok (a, e), s) => if bits a 63 48 == cls then (.ok (some a, d || e), s) else s.findAction k g cls (d || e) n (i + 1)

/-- The stack after an action, its top first; none where it would pass 256 symbols or its bottom (R365). -/
def stackAfter (a : Nat) (stack : List Nat) : Option (List Nat) :=
  let op := bits a 35 34
  let popped := if 2 ≤ op then (if stack.length ≤ 1 then none else some stack.tail) else some stack
  match popped with
  | none => none
  | some st => if op == 1 || op == 3 then (if 256 ≤ st.length then none else some (bits a 31 24 :: st)) else some st

/-- A context after a step: its journal keeps the last 64 (R364). -/
def Serpent.step (c : Serpent) (iter st : Nat) (stack : List Nat) (d : Bool) : Serpent :=
  let j := c.journal ++ [{ iter := iter, st := c.st, stack := c.stack }]
  let dropped := if 64 < j.length then (match j with | x :: _ => some x.iter | [] => c.dropped) else c.dropped
  { c with st := st, stack := stack, d := c.d || d, journal := j.drop (j.length - 64), dropped := dropped }

/-- Undo, newest first, the steps newer than an iteration (R366). -/
def Serpent.undo (c : Serpent) (j : Nat) : Nat → Serpent
  | 0 => c
  | fuel + 1 =>
    match c.journal.getLast? with
    | some x => if iterNewer x.iter j then ({ c with st := x.st, stack := x.stack, journal := c.journal.dropLast } : Serpent).undo j fuel else c
    | none => c

/-- Roll a context to an iteration; none where the journal no longer keeps it (R366). -/
def Serpent.roll (c : Serpent) (j : Nat) : Option Serpent :=
  if c.dropped.any fun d => iterNewer d j then none else some (c.undo j c.journal.length)

/-! ## The instructions (R365, R366) -/

/-- A context that an instruction of a core names. -/
def State.ownSerpent (s : State) (k c : Nat) : Option Serpent := if c / 64 == k / 4 then s.serpent? c else none

def noContext : Bad := { code := fcProt, detail := 0x93 }
def badWord : Bad := { code := fcProt, detail := 0x9A }

/-- The step word (R365). -/
def stepWord (status st depth : Nat) : Nat := status + 4 * st + 2 ^ 14 * depth

/-- `g.step` is performed. -/
def State.doGStep (s : State) (k : Nat) (x : Access) : State :=
  let a := x.opnds.val 0
  let b := x.opnds.val 1
  if bits b 31 10 != 0 then s.fail k x badWord
  else match s.ownSerpent k b with
    | none => s.fail k x noContext
    | some c =>
      match s.grammar k c.gaddr with
      | (.error e, s) => s.fail k x e
      | (.ok g, s) =>
        let d := x.opnds.dAll || c.d || g.d
        let noMatch (s : State) (d : Bool) : State := s.finish k x (stepWord 2 c.st c.stack.length) d
        if g.vocab ≤ a then noMatch s d
        else match s.modeEntry k g c with
          | (.error e, s) => s.fail k x e
          | (.ok (m, md), s) =>
            match s.tokenClass k g a with
            | (.error e, s) => s.fail k x e
            | (.ok (cls, cd), s) =>
              match s.findAction k g cls (d || md || cd) (bits m 47 32) (bits m 31 0) with
              | (.error e, s) => s.fail k x e
              | (.ok (none, d), s) => noMatch s d
              | (.ok (some act, d), s) =>
                match stackAfter act c.stack with
                | none => s.fail k x { code := fcArith, detail := 0x92 }
                | some stack =>
                  let c := c.step (iterOf x.tag) (bits act 47 36) stack (x.opnds.d 0)
                  (s.setSerpent b c).finish k x (stepWord (b2n (bit act 0)) c.st c.stack.length) d

/-- `g.mask` is performed: the mask row of the mode goes to the rows of a tile as an engine write. -/
def State.doGMask (s : State) (k : Nat) (x : Access) : State :=
  let a := x.opnds.val 0
  if bits a 23 10 != 0 then s.fail k x badWord
  else match s.ownSerpent k (bits a 9 0) with
    | none => s.fail k x noContext
    | some c =>
      match s.grammar k c.gaddr with
      | (.error e, s) => s.fail k x e
      | (.ok g, s) =>
        match (s.core k).tileAccess (bits a 31 24) 0 (g.vocab / 2048) false with
        | .bad code detail => s.fail k x { code := code, detail := detail }
        | .wait => s
        | .go =>
          match s.modeEntry k g c with
          | (.error e, s) => s.fail k x e
          | (.ok (m, md), s) =>
            if g.nmask < bits m 63 48 then s.fail k x badGrammar
            else match s.readVa k (g.base + g.maskOfs + bits m 63 48 * (g.vocab / 8)) (g.vocab / 8) with
              | (.error e, s) => s.fail k x e
              | (.ok (bs, pd), s) =>
                let d := c.d || x.opnds.d 0
                let off := ((s.core k).tile (bits a 31 24)).firstByte
                ((s.onCore k (·.engineWrite off bs d)).finish k x a (d || g.d || md || pd)).settle

/-- `g.fork` is performed. -/
def State.doGFork (s : State) (k : Nat) (x : Access) : State :=
  match s.ownSerpent k (bits (x.opnds.val 0) 9 0) with
  | none => s.fail k x noContext
  | some c =>
    match s.freeSerpent (k / 4) with
    | none => s.finish k x 0xFFFFFFFF (x.opnds.dAll || c.d)
    | some n => (s.setSerpent n c).finish k x n (x.opnds.dAll || c.d)

/-- `g.roll` is performed. -/
def State.doGRoll (s : State) (k : Nat) (x : Access) : State :=
  let b := x.opnds.val 1
  let n := bits (x.opnds.val 0) 9 0
  match s.ownSerpent k n with
  | none => s.fail k x noContext
  | some c =>
    let d := x.opnds.dAll || c.d
    if b == 2 ^ 31 then ({ s with serpents := Tab.del s.serpents n } : State).finish k x (x.opnds.val 0) d
    else if bits b 30 16 != 0 then s.fail k x badWord
    else match c.roll (bits b 15 0) with
      | none => s.fail k x { code := fcArith, detail := 0xA1 }
      | some c => (s.setSerpent n c).finish k x (x.opnds.val 0) d

/-- The 512-byte image of a context (R366). -/
def Serpent.image (c : Serpent) (newest : Nat) : List Byte :=
  let head := leBytes 0x47534156 4 ++ leBytes (c.st + c.stack.length * 2 ^ 16) 4 ++ leBytes newest 4 ++ leBytes 0 4 ++ leBytes c.gaddr 8 ++
    List.replicate 40 0#8
  let syms := c.stack.reverse.map fun x => BitVec.ofNat 8 x
  head ++ syms ++ List.replicate (448 - syms.length) 0#8

/-- `g.save` is performed with context `n`; it is none of the agents of R245, so that the words keep their full/empty state. The newest
iteration of an empty journal is a free value (assumption log 27). -/
def State.doGSave (s : State) (k : Nat) (x : Access) (n : Nat) : State :=
  let a := x.opnds.val 0
  match s.serpent? n with
  | none => s.fail k x noContext
  | some c =>
    let d := c.d || x.opnds.d 0
    let (newest, s) : Nat × State := match c.journal.getLast? with
      | some j => (j.iter, s)
      | none => let (w, s) := s.freeWord 366; (w.toNat % 2 ^ 16, s)
    if a % 256 != 0 then s.fail k x { code := fcMisalign, detail := 0 }
    else match s.checkSpot k a 512 false true d with
      | (.error e, s) => s.fail k x e
      | (.ok p, s) =>
        match s.putSpot false k p (c.image newest) d with
        | (.error e, s) => s.fail k x e
        | (.ok _, s) => (s.finish k x a d).settle

/-- `g.load` is performed into context `n`. -/
def State.doGLoad (s : State) (k : Nat) (x : Access) (n : Nat) : State :=
  let a := x.opnds.val 0
  match s.serpent? n with
  | none => s.fail k x noContext
  | some c =>
    if a % 256 != 0 then s.fail k x { code := fcMisalign, detail := 0 }
    else match s.checkSpot k a 512 true false false with
      | (.error e, s) => s.fail k x e
      | (.ok p, s) =>
        let md := s.spotD k p 512
        match s.readSpot k p 512 with
        | (.error e, s) => s.fail k x e
        | (.ok bs, s) =>
          let w := wordAt (wordsOfBytes bs)
          let depth := bits (w 1) 24 16
          if w 0 != 0x47534156 || depth == 0 || 256 < depth then s.fail k x badGrammar
          else
            let gaddr := w 4 + 2 ^ 32 * w 5
            match s.grammar k gaddr with
            | (.error e, s) => s.fail k x e
            | (.ok g, s) =>
              let d := c.d || x.opnds.d 0 || md
              let stack := ((List.range depth).map fun i => (bs.getD (64 + i) 0).toNat).reverse
              let c : Serpent := { gaddr := gaddr, st := bits (w 1) 11 0, stack := stack, d := d, journal := [],
                                   dropped := some (bits (w 2) 15 0) }
              (s.setSerpent n c).finish k x a (d || g.d)

end Sys2Proof.Machine
end

