-- ==== Sys2Proof/Machine/ElemGen.lean ====
section
/-! DEFINITION. The sequence unit (R347 to R362): sequence slots, the KV page pool and its drains, the prefix cache, and the commit node. -/

namespace Sys2Proof.Machine

open Sys2Proof

/-- Fire an instruction of a unit: it is held to commit, and its checks are made when it is performed (R347). -/
def fireUnit (i : Instr) (s : State) : Out := fireControl i s true fun s _ _ => (.ok (0, 0), s)

/-- R351 `seq.open`. -/
def execSeqOpen (a : ElemArgs) (s : State) : Out := fireUnit (.seqOpen a) s
/-- R352 `seq.close`. -/
def execSeqClose (a : ElemArgs) (s : State) : Out := fireUnit (.seqClose a) s
/-- R355 `commit`. -/
def execCommit (a : ElemArgs) (s : State) : Out := fireUnit (.commit a) s
/-- R358 `kv.alloc`. -/
def execKvAlloc (a : ElemArgs) (s : State) : Out := fireUnit (.kvAlloc a) s
/-- R358 `kv.attach`. -/
def execKvAttach (a : ElemArgs) (s : State) : Out := fireUnit (.kvAttach a) s
/-- R358 `kv.free`. -/
def execKvFree (a : ElemArgs) (s : State) : Out := fireUnit (.kvFree a) s
/-- R360 `pfx.attach`. -/
def execPfxAttach (a : ElemArgs) (s : State) : Out := fireUnit (.pfxAttach a) s
/-- R361 `pfx.evict`. -/
def execPfxEvict (a : ElemArgs) (s : State) : Out := fireUnit (.pfxEvict a) s
/-- R365 `g.step`. -/
def execGStep (a : ElemArgs) (s : State) : Out := fireUnit (.gStep a) s
/-- R366 `g.mask`. -/
def execGMask (a : ElemArgs) (s : State) : Out := fireUnit (.gMask a) s
/-- R366 `g.fork`. -/
def execGFork (a : ElemArgs) (s : State) : Out := fireUnit (.gFork a) s
/-- R366 `g.roll`. -/
def execGRoll (a : ElemArgs) (s : State) : Out := fireUnit (.gRoll a) s
/-- R366 `g.save`. -/
def execGSave (a : ElemArgs) (s : State) : Out := fireUnit (.gSave a) s
/-- R366 `g.load`. -/
def execGLoad (a : ElemArgs) (s : State) : Out := fireUnit (.gLoad a) s

/-! ## Slots (R347, R349, R351) -/

/-- The slot that a tag names; none where its context is no sequence slot. -/
def slotOf (t : Tag) : Option Nat := if 0xC00 ≤ ctxOf t then some (ctxOf t - 0xC00) else none

def Partition.hasSlot (p : Partition) (q : Nat) : Bool := p.slot0 ≤ q && q < p.slot0 + p.nslot

def prot (d : Nat) : Bad := { code := fcProt, detail := d }
def arith (d : Nat) : Bad := { code := fcArith, detail := d }

/-- Whether a slot of a partition is OPEN, or, where `ended` admits it, ENDED; one that is being closed is neither. -/
def State.slotUsable (s : State) (p q : Nat) (ended : Bool) : Bool :=
  let r := s.slot q
  (s.part p).hasSlot q && !r.closing && (r.st == .opened || (ended && r.st == .ended))

/-- Run an instruction on the slot of its fired tag. -/
def State.onTagSlot (s : State) (k : Nat) (x : Access) (act : State → Nat → Nat → State) : State :=
  match slotOf x.tag, s.corePart k with
  | some q, some p => act s p q
  | _, _ => s.fail k x (prot 0x94)

/-- Pages of FREE in a partition's pool (R356). -/
def Partition.free (p : Partition) : Nat := p.kvFree.length

/-- RESV of a launch's generation header (R356). -/
def Launch.resv (l : Launch) : Nat := if bit (wordAt l.header 0) 31 then bits (wordAt l.header 0) 15 0 else 0

/-- The KV map entry of a page, 0 where it is not mapped. -/
def SeqRec.page (r : SeqRec) (p : Nat) : Nat := (Tab.get 0 r.pages p).toNat
def kvShared (e : Nat) : Bool := bit e 62
def kvFrame (e : Nat) : Nat := bits e 39 16

/-- A KV map entry (R357). -/
def kvEntry (shared : Bool) (queue frame : Nat) : DWord :=
  BitVec.ofNat 64 (2 ^ 63 + b2n shared * 2 ^ 62 + queue % 2 ^ 17 * 2 ^ 41 + frame % 2 ^ 24 * 2 ^ 16)

/-- `seq.open` is performed (R350, R351). -/
def State.doSeqOpen (s : State) (k : Nat) (x : Access) : State :=
  let a := x.opnds.val 0
  match s.coreLaunch k, s.corePart k with
  | some (_, l), some p =>
    if a % 32 != 0 then s.fail k x { code := fcMisalign, detail := 0 }
    else match s.checkSpot k a 32 true false false with
      | (.error e, s) => s.fail k x e
      | (.ok sp, s) =>
        let md := s.spotD k sp 32
        match s.readSpot k sp 32 with
        | (.error e, s) => s.fail k x e
        | (.ok bs, s) =>
          let ws := wordsOfBytes bs
          let w := wordAt ws
          let need := bits (w 4) 15 0
          let gtab := dwordAt ws 6
          let d := x.opnds.dAll || md
          if bits (w 4) 31 16 != 0 || bits (w 5) 31 16 != 0 || w 2 == 0 || need == 0 || 4096 < need || gtab % 256 != 0 then
            s.fail k x badWord
          else
            let (g, s) : Except Bad (Option Grammar) × State :=
              if gtab == 0 then (.ok none, s)
              else match s.grammar k gtab with
                | (.ok g, s) => (.ok (some g), s)
                | (.error e, s) => (.error e, s)
            match g with
            | .error e => s.fail k x e
            | .ok g =>
              let gd := g.any (·.d)
              let pt := s.part p
              match (List.range pt.nslot).find? fun i => (s.slot (pt.slot0 + i)).st == .free with
              | none => s.finish k x 0xFFFFFFFE (d || gd)
              | some i =>
                let ctx := s.freeSerpent (k / 4)
                if pt.free < l.resv + pt.unclaimed + need then s.finish k x 0xFFFFFFFF (d || gd)
                else if g.isSome && ctx.isNone then s.finish k x 0xFFFFFFFD (d || gd)
                else
                  let q := pt.slot0 + i
                  let r : SeqRec := { st := .opened, next := bits (w 5) 15 0, limit := BitVec.ofNat 32 (w 2), eos := BitVec.ofNat 32 (w 3),
                                      seed := BitVec.ofNat 64 (dwordAt ws 0), need := need, gv := g.isSome, gctx := if g.isSome then ctx.getD 0 else 0,
                                      sdv := l.sdom?.isSome, sdom := l.sdom?.getD 0 }
                  let s := (s.onSlot q fun _ => r).onPart p fun y => { y with unclaimed := y.unclaimed + need }
                  let s := match g, ctx with
                    | some g, some c => s.setSerpent c { gaddr := gtab, st := g.start, stack := [g.bottom], d := d }
                    | _, _ => s
                  s.finish k x q (d || gd)
  | _, _ => s.fail k x (prot 0x90)

/-! ## KV pages (R357 to R359) -/

/-- Whether a running drain unmaps a page of a slot: the cores still see its old mapping (R359). -/
def State.kvDraining (s : State) (q a : Nat) : Bool := s.drains.any fun d => d.slot == q && (Tab.find? d.freed a).isSome

/-- `kv.alloc` is performed: the frame is zeroed, with every word full (R358). A page whose freeing still drains is mapped once the drain
has ended. -/
def State.doKvAlloc (s : State) (k : Nat) (x : Access) : State :=
  let a := x.opnds.val 0
  s.onTagSlot k x fun s p q =>
    let r := s.slot q
    if !s.slotUsable p q false then s.fail k x (prot 0x90)
    else if 4096 ≤ a then s.fail k x badWord
    else if r.page a != 0 then s.fail k x (prot 0x9B)
    else if r.need ≤ r.held then s.fail k x (prot 0x9C)
    else if s.kvDraining q a then s
    else match (s.part p).kvFree, s.coreLaunch k with
      | f :: rest, some (_, l) =>
        let s := s.onPart p fun y => { y with kvFree := rest, unclaimed := y.unclaimed - 1 }
        let s := s.onSlot q fun r => { r with held := r.held + 1, pages := Tab.set r.pages a (kvEntry false l.q f) }
        let s := match s.kvTrans p (kvBase + q * 2 ^ 28 + a * 2 ^ 16) with
          | some t => s.physWrite t (List.replicate 65536 0#8)
          | none => s
        s.finish k x a x.opnds.dAll
      | _, _ => s

/-- Return frames to a partition's pool. -/
def State.freeFrames (s : State) (p : Nat) (fs : List Nat) : State :=
  s.onPart p fun y => { y with kvFree := y.kvFree ++ fs.filter fun f => !s.frameDead f }

/-- Drop the prefix reference of a slot: at count 0 the entry records its release time (R360). -/
def State.dropPrefix (s : State) (p q : Nat) : State :=
  let r := s.slot q
  if !r.pv then s
  else
    let time := s.now
    (s.onPart p fun y =>
      { y with prefixes := y.prefixes.map fun (e : Nat × PrefixEntry) =>
          if e.1 == r.pfxe then (e.1, { e.2 with count := e.2.count - 1, released := if e.2.count == 1 then time else e.2.released }) else e }).onSlot q
      fun r => { r with pv := false, pfxe := 0 }

/-- The private frames among map entries. -/
def privateFrames (m : Tab DWord) : List Nat := (m.filter fun e => !kvShared e.2.toNat).map fun e => kvFrame e.2.toNat

/-- The frames of unmapped pages return to FREE: HELD falls and UNCLAIMED rises with each (R358). -/
def State.returnFrames (s : State) (p q : Nat) (freed : Tab DWord) : State :=
  let fs := privateFrames freed
  ((s.onSlot q fun r => { r with held := r.held - fs.length }).freeFrames p fs).onPart p fun y => { y with unclaimed := y.unclaimed + fs.length }

/-- The bytes that an access stores to by the translation of its element address: first virtual address and length. A KV page has no
full/empty state (R357), so that no ring, `iput` or remote store reaches it. -/
def State.storeSpan (s : State) (k : Nat) (y : Access) : Option (Nat × Nat) :=
  let seg (a n : Nat) : Option (Nat × Nat) := match s.segment k a n with | .ok (false, va) => some (va, n) | _ => none
  if isStoreOpc y.opc || y.opc == 0x143 then some (y.va, y.width)
  else if y.opc == 0x14D then
    let c := sendCtl k (y.opnds.val 0) (y.opnds.val 1)
    if c.dk == 2 && !y.over then seg c.dest c.bytes else none
  else if y.opc == 0x1CC then seg (y.opnds.val 0) 512
  else if y.opc == 0x1E0 then (s.requestLen k (y.opnds.val 0)).bind fun n => seg (y.opnds.val 1) (4 * wordCount n)
  else none

/-- Whether a released store to a page of a slot has still to be performed on some core (R359). -/
def State.pageStores (s : State) (q a : Nat) : Bool :=
  let lo := kvBase + q * 2 ^ 28 + a * 2 ^ 16
  s.cores.any fun c => c.2.accesses.any fun y =>
    c.2.isReleased y && (s.storeSpan c.1 y).any fun r => r.1 < lo + 65536 && lo < r.1 + r.2

/-- Begin a drain: its access waits for the stores that were released before (R359). -/
def State.startDrain (s : State) (k : Nat) (x : Access) (q : Nat) (pages : List Nat) (freed : Tab DWord := []) : State :=
  let d : KvDrain := { slot := q, pages := pages, freed := freed, core := k, access := x.id }
  ({ s with drains := s.drains ++ [d] } : State).onCore k (·.onAccess x.id fun y => { y with stage := .waiting })

/-- Unmap pages of a slot, and drain them: the cores see the old mappings until the drain ends (R358, R359). -/
def State.unmapDrain (s : State) (k : Nat) (x : Access) (q : Nat) (pages : List Nat) : State :=
  let freed := (s.slot q).pages.filter fun e => pages.contains e.1
  (s.onSlot q fun r => { r with pages := pages.foldl (fun (m : Tab DWord) a => Tab.del m a) r.pages }).startDrain k x q pages freed

/-- Every mapped page of a slot. -/
def SeqRec.mapped (r : SeqRec) : List Nat := r.pages.map (·.1)

/-- `kv.free` with ALL: every page is unmapped and drained, and the prefix reference is dropped at once (R358, R360). -/
def State.freeAll (s : State) (k : Nat) (x : Access) (p q : Nat) : State := (s.unmapDrain k x q (s.slot q).mapped).dropPrefix p q

/-- `kv.free` is performed (R358). -/
def State.doKvFree (s : State) (k : Nat) (x : Access) : State :=
  let a := x.opnds.val 0
  s.onTagSlot k x fun s p q =>
    let e := (s.slot q).page (bits a 11 0)
    if !s.slotUsable p q true then s.fail k x (prot 0x90)
    else if bits a 30 12 != 0 then s.fail k x badWord
    else if bit a 31 then s.freeAll k x p q
    else if e == 0 then s.fail k x (prot 0x9F)
    else if kvShared e then s.fail k x (prot 0x9E)
    else s.unmapDrain k x q [bits a 11 0]

/-- `kv.attach` is performed (R358). -/
def State.doKvAttach (s : State) (k : Nat) (x : Access) : State :=
  let a := x.opnds.val 0
  let b := x.opnds.val 1
  s.onTagSlot k x fun s p q =>
    match s.coreLaunch k with
    | none => s
    | some (_, l) =>
      let r := s.slot q
      let pages := span a b
      if !l.cmd.role then s.fail k x (prot 0xA2)
      else if !s.slotUsable p q true then s.fail k x (prot 0x90)
      else if b == 0 || 4096 < a + b then s.fail k x badWord
      else if pages.any fun a => r.page a == 0 then s.fail k x (prot 0x9F)
      else s.startDrain k x q (pages.filter fun a => bits (r.page a) 57 41 != l.q % 2 ^ 17)

/-- `seq.close` is performed (R352): it frees every page of the slot, and waits for the drain. -/
def State.doSeqClose (s : State) (k : Nat) (x : Access) : State :=
  let a := x.opnds.val 0
  match s.corePart k with
  | none => s.fail k x (prot 0x90)
  | some p =>
    if bits a 31 10 != 0 then s.fail k x badWord
    else if !s.slotUsable p a true then s.fail k x (prot 0x90)
    else
      let s := s.onSlot a fun r => { r with ending := if r.ending == 0 then 5 else r.ending, closing := true }
      s.freeAll k x p a

/-- Take a result off a commit node, returning a record that its overflow drew. -/
def State.dropResult (s : State) (k : Nat) (r : CommitResult) : State :=
  let s := if 1024 < (s.core k).results.length then s.spillGive k 1 else s
  s.onCore k fun c => { c with results := c.results.erase r }

/-- Whether both tokens of a result have arrived. -/
def CommitResult.whole (r : CommitResult) : Bool := r.index.isSome && r.status.isSome

/-- The results that commit nodes hold for a slot that has become FREE are discarded and counted (R352, R354). -/
def State.strayResults (s : State) (p q : Nat) : State :=
  s.cores.foldl (fun s (c : Nat × Core) =>
    if s.corePart c.1 != some p then s
    else (c.2.results.filter fun r => r.slot == q && r.whole).foldl (fun s r => (s.dropResult c.1 r).countPart p cntCommitStray) s) s

/-- What a drain's end does for the instruction that it held up (R352, R358). -/
def State.endDrainOf (s : State) (dr : KvDrain) (x : Access) : State :=
  let k := dr.core
  match s.corePart k, s.coreLaunch k with
  | some p, some (_, l) =>
    if x.opc == 0x1C4 then
      let own (m : Tab DWord) (a : Nat) : Tab DWord :=
        match Tab.find? m a with
        | some e => Tab.set m a (kvEntry (kvShared e.toNat) l.q (kvFrame e.toNat))
        | none => m
      (s.onSlot dr.slot fun r => { r with pages := dr.pages.foldl own r.pages }).finish k x (x.opnds.val 1) x.opnds.dAll
    else if x.opc == 0x1C5 then
      (s.returnFrames p dr.slot dr.freed).finish k x (privateFrames dr.freed).length x.opnds.dAll
    else
      let s := s.returnFrames p dr.slot dr.freed
      let r := s.slot dr.slot
      let s := if r.gv then { s with serpents := Tab.del s.serpents r.gctx } else s
      let s := s.onPart p fun y => { y with unclaimed := y.unclaimed - (r.need - r.held) }
      ((s.onSlot dr.slot fun _ => {}).strayResults p dr.slot).finish k x r.pos.toNat x.opnds.dAll
  | _, _ => s

/-- Whether a drain may end: no released store is left to perform on its pages, and the drain of a `seq.close` ends only when every
private frame of the slot has returned, those of an earlier `kv.free` among them (R352, R359). -/
def State.drainEnds (s : State) (d : KvDrain) : Bool :=
  (!d.pages.any fun a => s.pageStores d.slot a) &&
  !(((s.core d.core).access? d.access).any (fun x => x.opc == 0x1C1) && s.drains.any fun e => e.slot == d.slot && e != d)

/-- R359 KV_DRAIN_DONE: the first drain that may end does so. -/
def execKvDrainDone (s : State) : Out :=
  atDevice s (
    match takeFirst s.drainEnds s.drains with
    | none => s
    | some (d, rest) =>
      let s := { s with drains := rest }
      match (s.core d.core).access? d.access with
      | some x => s.endDrainOf d x
      | none => s)

/-! ## The prefix cache (R360, R361) -/

/-- Entries that a partition's prefix table holds. -/
def prefixSlots : Nat := 65536

/-- The lowest index of a table that lists none of its keys. -/
def Tab.lowest {α : Type} : Tab α → Nat → Nat
  | [], n => n
  | (k, _) :: t, n => if k == n then Tab.lowest t (n + 1) else n

/-- `pfx.attach` is performed (R360). Pages whose freeing still drains are mapped once the drain has ended. -/
def State.doPfxAttach (s : State) (k : Nat) (x : Access) : State :=
  let a := x.opnds.val 0
  let b := x.opnds.val 1
  s.onTagSlot k x fun s p q =>
    if a % 8 != 0 then s.fail k x { code := fcMisalign, detail := 0 }
    else match s.checkSpot k a 8 true false false with
      | (.error e, s) => s.fail k x e
      | (.ok sp, s) =>
        let d := x.opnds.dAll || s.spotD k sp 8
        match s.readSpot k sp 8 with
        | (.error e, s) => s.fail k x e
        | (.ok bs, s) =>
          let key : DWord := BitVec.ofNat 64 (ofLeBytes bs)
          let pub := bit b 31
          let n := bits b 11 0
          let r := s.slot q
          let found := List.find? (fun e : Nat × PrefixEntry => e.2.key == key) (s.part p).prefixes
          let queue := match s.coreLaunch k with | some (_, l) => l.q | none => 0
          if (if pub then bits b 30 12 != 0 || n == 0 else b != 0) then s.fail k x badWord
          else if !s.slotUsable p q false then s.fail k x (prot 0x90)
          else if r.pv then s.fail k x (prot 0xA0)
          else if !pub then
            match found with
            | none => s.finish k x 0xFFFFFFFF d
            | some (i, e) =>
              if (upto e.frames.length).any fun a => r.page a != 0 then s.fail k x (prot 0x9B)
              else if (upto e.frames.length).any (s.kvDraining q) then s
              else
                let map (m : Tab DWord) (f : Nat × Nat) : Tab DWord := Tab.set m f.2 (kvEntry true queue f.1)
                let s := s.onPart p fun y => { y with prefixes := Tab.set y.prefixes i { e with count := e.count + 1 } }
                (s.onSlot q fun r => { r with pages := e.frames.zipIdx.foldl map r.pages, pv := true, pfxe := i }).finish k x
                  e.frames.length d
          else if (upto n).any fun a => r.page a == 0 then s.fail k x (prot 0x9F)
          else if (upto n).any fun a => kvShared (r.page a) then s.fail k x (prot 0x9E)
          else if found.isSome then s.finish k x 0xFFFFFFFE d
          else if prefixSlots ≤ (s.part p).prefixes.length then s.finish k x 0xFFFFFFFD d
          else
            let i := Tab.lowest (s.part p).prefixes 0
            let e : PrefixEntry := { key := key, frames := (upto n).map fun a => kvFrame (r.page a), count := 1 }
            let share (m : Tab DWord) (a : Nat) : Tab DWord := Tab.set m a (Tab.get 0 m a ||| BitVec.ofNat 64 (2 ^ 62))
            let s := s.onPart p fun y => { y with prefixes := Tab.set y.prefixes i e }
            (s.onSlot q fun r => { r with pages := (upto n).foldl share r.pages, pv := true, pfxe := i, held := r.held - n,
                                          need := r.need - n }).finish k x n d

/-- The entry with count 0 that was released first. -/
def oldestPrefix : Tab PrefixEntry → Option (Nat × PrefixEntry)
  | [] => none
  | e :: t => match oldestPrefix t with
    | none => if e.2.count == 0 then some e else none
    | some b => if e.2.count == 0 && e.2.released ≤ b.2.released then some e else some b

/-- Remove unused entries until enough pages are freed (R361). -/
def State.evict (s : State) (p want freed : Nat) : Nat → Nat × State
  | 0 => (freed, s)
  | fuel + 1 =>
    if want ≤ freed then (freed, s)
    else match oldestPrefix (s.part p).prefixes with
      | none => (freed, s)
      | some (i, e) =>
        ((s.onPart p fun y => { y with prefixes := Tab.del y.prefixes i }).freeFrames p e.frames).evict p want (freed + e.frames.length) fuel

/-- `pfx.evict` is performed (R361). -/
def State.doPfxEvict (s : State) (k : Nat) (x : Access) : State :=
  let a := x.opnds.val 0
  s.onTagSlot k x fun s p _ =>
    if a == 0 || 65536 < a then s.fail k x badWord
    else
      let (n, s) := s.evict p a 0 ((s.part p).prefixes.length + 1)
      s.finish k x n x.opnds.dAll

/-- `g.save` and `g.load` are performed on the context of the tag's slot (R366). -/
def State.withSlotCtx (s : State) (k : Nat) (x : Access) (act : State → Nat → State) : State :=
  s.onTagSlot k x fun s p q =>
    if !s.slotUsable p q true then s.fail k x (prot 0x90)
    else if !(s.slot q).gv || (s.slot q).gctx / 64 != k / 4 then s.fail k x noContext
    else act s (s.slot q).gctx

/-! ## The commit node (R353 to R355) -/

/-- Whether an iteration lies in a range of a verdict. -/
def inRange (i from_ n : Nat) : Bool := (i + 65536 - from_) % 65536 < n

/-- Emit a retirement packet on the binding of port a (R354). -/
def State.retirePacket (s : State) (k : Nat) (r : CommitResult) (index : Nat) (outcome : Nat) (pos : Word) : State :=
  let d := (match r.index with | some x => x.2 | none => false) || (match r.status with | some x => x.2 | none => false)
  (s.emitBinding k 136 (s.now + 1)
    { lanes := [BitVec.ofNat 32 index, BitVec.ofNat 32 r.iter, BitVec.ofNat 32 outcome, pos], tag := r.tag, d := d }).getD s

/-- The session that the most recent binding of a slot names (R411). -/
def Partition.slotSession (p : Partition) (q : Nat) : Option Word :=
  let bs := (p.bindings.map (·.2)).filter fun b => b.slot == some q
  (bs.find? fun b => bs.all fun c => c.order ≤ b.order).map (·.sid)

/-- A retirement of outcome 0, 2 or 3 counts for the slot's session (R411). -/
def State.countRetired (s : State) (k q outcome : Nat) : State :=
  if !(outcome == 0 || outcome == 2 || outcome == 3) then s
  else match (s.corePart k).bind fun p => (s.part p).slotSession q with
    | none => s
    | some sid =>
      { s with sessions := Tab.modify {} s.sessions (sid.toNat % 4096) fun (x : Session) => { x with gentok := x.gentok + 1 } }

/-- The retire loop of a slot (R354). -/
def State.retire (s : State) (k q : Nat) : Nat → State
  | 0 => s
  | fuel + 1 =>
    let r := s.slot q
    let held := (s.core k).results.find? fun x => x.slot == q && x.iter == r.next && x.whole
    match held with
    | none => s
    | some x =>
      let index := match x.index with | some (w, _) => w | none => 0
      let status := match x.status with | some (w, _) => w.toNat | none => 0
      let verdict := r.verdicts.find? fun v => inRange r.next v.iter v.span
      let rejected := verdict.any fun v => !inRange r.next v.iter v.accepted
      let next := (r.next + 1) % 65536
      let past (v : Verdict) : Bool := (v.iter + v.span) % 65536 == next
      let go (s : State) (f : SeqRec → SeqRec) (i outcome : Nat) : State :=
        let s := s.onSlot q fun r => { f r with next := next, verdicts := r.verdicts.filter fun v => !past v }
        (((s.retirePacket k x i outcome (s.slot q).pos).countRetired k q outcome).dropResult k x).retire k q fuel
      if r.st == .ended then go s id 0xFFFFFFFF 6
      else if rejected then go s id 0xFFFFFFFF 1
      else if bit status 2 && verdict.isNone then s
      else if status % 4 == 1 then go s (fun r => { r with st := .ended, ending := 3 }) 0xFFFFFFFF 4
      else if status % 4 == 2 then go s (fun r => { r with st := .ended, ending := 4 }) 0xFFFFFFFF 5
      else
        let pos := r.pos + 1
        if r.eos != 0xFFFFFFFF && index == r.eos then
          go s (fun r => { r with pos := pos, st := .ended, ending := 1 }) index.toNat 2
        else if pos == r.limit then go s (fun r => { r with pos := pos, st := .ended, ending := 2 }) index.toNat 3
        else go s (fun r => { r with pos := pos }) index.toNat 0

/-- Run the retire loop of a slot as far as it goes. -/
def State.retireAll (s : State) (k q : Nat) : State := s.retire k q ((s.core k).results.length + 1)

/-- The core whose commit node a slot is bound to in the launch of core `k` (R353). -/
def State.slotCore (s : State) (k q : Nat) : Option Nat := (s.coreLaunch k).bind fun l => Tab.find? l.2.bound q

/-- Bind a slot to a core's commit node in its launch; none where the launch has bound it to another core's (R353). -/
def State.bindSlot (s : State) (k q : Nat) : Option State :=
  match s.coreLaunch k with
  | none => none
  | some (l, x) =>
    match Tab.find? x.bound q with
    | some c => if c == k then some s else none
    | none => some (s.onLaunch l fun x => { x with bound := Tab.set x.bound q k })

/-- The first commit token of a slot's context in a launch, at the block that sent the index of the result that binds the slot, or at
frame 0 where no block sent it (R369). -/
def State.slotToken (s : State) (k q : Nat) (r : CommitResult) : State :=
  let f := r.src.getD 0
  let t : Tag := BitVec.ofNat 64 ((0xC00 + q) * 2 ^ 52 + 2 ^ 48 + (s.slot q).next)
  s.onCore k fun c => if (c.frame f).status == .closed then { c with commits := c.commits ++ [(f, t)] } else c

/-- `commit` is performed: the verdict on a range of iterations (R355). -/
def State.doCommit (s : State) (k : Nat) (x : Access) : State :=
  let a := x.opnds.val 0
  let span_ := bits a 15 0
  let n := bits a 31 16
  let i := iterOf x.tag
  s.onTagSlot k x fun s p q =>
    let r := s.slot q
    if !(s.part p).hasSlot q || r.st == .free || r.closing then s.fail k x (prot 0x90)
    else match s.bindSlot k q with
      | none => s.fail k x (prot 0x95)
      | some s =>
        if span_ == 0 || 64 < span_ || span_ < n then s.fail k x (arith 0x98)
        else if (upto span_).any fun d => iterNewer r.next ((i + d) % 65536) then s.fail k x (arith 0x97)
        else if r.verdicts.any fun v => (upto span_).any fun d => inRange ((i + d) % 65536) v.iter v.span then s.fail k x (arith 0x96)
        else
          let s := s.onSlot q fun r => { r with verdicts := r.verdicts ++ [{ iter := i, span := span_, accepted := n }] }
          let j := (i + n + 65535) % 65536
          match r.gv, s.serpent? r.gctx with
          | true, some c =>
            match c.roll j with
            | none => (s.retireAll k q).fail k x (arith 0xA1)
            | some c' => ((s.setSerpent r.gctx c').retireAll k q).finish k x a (x.opnds.dAll || c.d)
          | _, _ => (s.retireAll k q).finish k x a x.opnds.dAll

/-- A token half enters a commit node; none where the node and the SPILL pool have no room for it (R64, R353). -/
def State.holdResult (s : State) (k q port : Nat) (w : Wide) (src : Option Nat) : Option State :=
  let v := some (w.lane 0, w.d)
  let set (r : CommitResult) : CommitResult := if port == 0 then { r with index := v, src := src } else { r with status := v }
  if (s.core k).results.any fun r => r.tag == w.tag then
    some (s.onCore k fun c => { c with results := replaceFirst (fun r => r.tag == w.tag) set c.results })
  else
    let r := set { slot := q, iter := iterOf w.tag, tag := w.tag }
    let add (s : State) : State := s.onCore k fun c => { c with results := c.results ++ [r] }
    if (s.core k).results.length < 1024 then some (add s)
    else match s.spillTake k 1 with
      | some s => some (add (s.countCore k cntSpilled))
      | none => none

/-- What a token at port a or b of a commit node does (R352, R353). -/
def State.commitToken (s : State) (k port : Nat) (t : Transit) : State :=
  let w := t.msg.packet
  let frame := t.src.getD 0
  let bad (s : State) (code detail : Nat) : State :=
    s.preciseNode k 34 (nodeWord k 34 code detail) w.tag (t.msg.instOr w.tag) frame w.d (t.msg.ofInst frame)
  if w.f then s.preciseNode k 34 (w.lane 0) w.origin (t.msg.instOr w.origin) frame w.d (t.msg.ofInst frame)
  else if 2 ≤ port then bad s fcProt 0x95
  else match slotOf w.tag, s.corePart k with
    | some q, some p =>
      if !(s.part p).hasSlot q then bad s fcProt 0x90
      else if port == 1 && ((w.lane 0).toNat % 4 == 3 || 8 ≤ (w.lane 0).toNat) then bad s fcProt 0x9A
      else if (s.core k).results.any fun r => r.tag == w.tag && (if port == 0 then r.index.isSome else r.status.isSome) then
        bad s fcDuptag 0
      else match s.holdResult k q port w t.src with
        | none => bad s fcOvfl 0
        | some s =>
          match (s.core k).results.find? fun r => r.tag == w.tag && r.whole with
          | none => s
          | some r =>
            if (s.slot q).st == .free then (s.dropResult k r).countPart p cntCommitStray
            else match s.bindSlot k q with
              | none => bad (s.dropResult k r) fcProt 0x95
              | some s' => (if (s.slotCore k q).isNone then s'.slotToken k q r else s').retireAll k q
    | _, _ => bad s fcProt 0x94

/-- R354 COMMIT_NODE_RESULT: the next token of a core's commit node. -/
def execCommitNodeResult (s : State) : Out :=
  atNode s fun k n =>
    if n != 34 then s else
    match (s.core k).nextFor s.now 34 with
    | none => s
    | some (i, t) =>
      let s' := s.onCore k (·.dropTransit i)
      if s.vanishes k t.msg.tag then s'
      else match t.dest with
        | .node _ port => (s'.firstToken k (ctxOf t.msg.tag)).commitToken k port t
        | _ => s

/-- R347 SERPENT_PORT_STRAY: a token at the Serpent port is a precise fault there. -/
def execSerpentPortStray (s : State) : Out :=
  atNode s fun k n =>
    if n != 35 then s else
    match (s.core k).nextFor s.now 35 with
    | none => s
    | some (i, t) =>
      let s' := s.onCore k (·.dropTransit i)
      if s.vanishes k t.msg.tag then s'
      else
        let w := t.msg.packet
        let frame := t.src.getD 0
        (s'.firstToken k (ctxOf w.tag)).preciseNode k 35 (nodeWord k 35 fcProt 0x9D) w.tag (t.msg.instOr w.tag) frame w.d
          (t.msg.ofInst frame)

end Sys2Proof.Machine
end

