-- ==== Sys2Proof/Machine/Complete.lean ====
section
/-! DEFINITION. MEM_ACCESS_COMPLETE: an access that may be performed is performed at its point of order (R88, R237 to R244). -/

namespace Sys2Proof.Machine

open Sys2Proof

/-- Perform an access by its opcode. -/
def State.perform (s : State) (k : Nat) (x : Access) : State :=
  match x.opc with
  | 0x140 | 0x142 => s.doLoad k x
  | 0x144 | 0x146 => s.doSyncLoad k x
  | 0x141 | 0x143 => s.doStore k x
  | 0x145 => s.doIput k x
  | 0x147 | 0x148 => s.doAtomic k x
  | 0x149 => s.doFence k x
  | 0x14A => s.doTalloc k x
  | 0x14B => s.doTstate k x
  | 0x14C => s.doTfree k x
  | 0x14E => s.doRingInit k x
  | 0x14F => s.doAwaitf k x
  | 0x150 => s.doRelslot k x
  | 0x180 | 0x181 | 0x182 | 0x183 | 0x184 | 0x185 => s.doRemote k x
  | 0x1A0 => s.doBarArrive k x
  | 0x1A1 => s.doBarWait k x
  | 0x1A2 => s.doCensUp k x
  | 0x1A3 => s.doCensDn k x
  | 0x1A4 => s.doPhaseWait k x
  | 0x1C0 => s.doSeqOpen k x
  | 0x1C1 => s.doSeqClose k x
  | 0x1C2 => s.doCommit k x
  | 0x1C3 => s.doKvAlloc k x
  | 0x1C4 => s.doKvAttach k x
  | 0x1C5 => s.doKvFree k x
  | 0x1C6 => s.doPfxAttach k x
  | 0x1C7 => s.doPfxEvict k x
  | 0x1C8 => s.doGStep k x
  | 0x1C9 => s.doGMask k x
  | 0x1CA => s.doGFork k x
  | 0x1CB => s.doGRoll k x
  | 0x1CC => s.withSlotCtx k x fun s n => s.doGSave k x n
  | 0x1CD => s.withSlotCtx k x fun s n => s.doGLoad k x n
  | 0x1E0 => s.doSdec k x
  | 0x1E1 => s.doSenc k x
  | 0x1E5 => s.doSregWr k x
  | _ => s

/-- Whether a core's launch still lets an access be performed: while the launch fails, those of committed instances only (R343). A remote
access reaches its unit after the cycle of its release, so that those released in one cycle take the order of R291. -/
def State.accessRuns (s : State) (k : Nat) (x : Access) : Bool :=
  !(isRemoteOpc x.opc && x.rel == some s.now) &&
  match s.coreLaunch k with
  | some (_, l) => l.st == .running || l.st == .draining || (l.st == .failing && (s.core k).isReleased x)
  | none => false

/-- R88 MEM_ACCESS_COMPLETE: an access of a core is performed, if what it stands behind is performed; an `rst` row whose tile has been
filled fires. -/
def execMemAccessComplete (s : State) : Out :=
  atAccess s fun k id =>
    match (s.core k).access? id with
    | none => s
    | some x =>
      if !s.accessRuns k x then s
      else match x.stage with
        | .ready => if (s.core k).mayPerform x then s.perform k x else s
        | .firing => s.doFiring k x
        | _ => s

end Sys2Proof.Machine
end

