-- ==== Sys2Proof/Machine/Frames.lean ====
section
/-! DEFINITION. Configuration words at a core: FIELD and WIDE (R73, R74), FRAME commands (R75 to R78), and the load checks of a frame
(R19, R41, R57, R70, R86, R238). -/

namespace Sys2Proof.Machine

open Sys2Proof

/-! ## The configuration FIFO (R68, R70, R76) -/

/-- What the first configuration word of a launch clears on a core (R189, R205, R213, R271, R281). The format and group of a cleared bank
are the model's choice (assumption log 142). -/
def Core.firstWord (c : Core) : Core :=
  if c.configured then c
  else
    let fresh (nd : Node) : Node :=
      { nd with w := [], wReady := [], bank0 := {}, bank1 := {}, active := false, lb := false, e := 0, rc := 0, rows := [] }
    { c with configured := true, tiles := [], rings := [], nodes := c.nodes.map fun (x : Nat × Node) => (x.1, fresh x.2) }

/-- A core takes the word at the head of its configuration FIFO, if it has reached it and the pool is zeroed (R21, R68); a core of a
launch that fails applies none (R76, R343). `after` says whether the word may follow a WIDE word (R74). -/
def takeWord (s : State) (after : Bool) (act : State → Nat → State) : Out :=
  atConfig s fun k =>
    let c := s.core k
    match c.fifo with
    | [] => s
    | (ready, _) :: rest =>
      if s.now < ready || s.now < c.zeroUntil || !s.coreLive k then s
      else
        let s := s.onCore k fun c => { c.firstWord with fifo := rest, wordsFrom := s.now + 1 }
        if c.wideHalf.isSome && !after then s.failCore k { status := stBadCfg, detail0 := k * 2 ^ 24 } else act s k

/-- A word that breaks R74 or R76 fails the launch. -/
def State.badCfg (s : State) (k : Nat) : State := s.failCore k { status := stBadCfg, detail0 := k * 2 ^ 24 }

/-- Change the open frame of a core; without one the word breaks R76. -/
def State.onOpen (s : State) (k : Nat) (ok : Frame → Bool) (f : Frame → Frame) : State :=
  match (s.core k).openFrame with
  | none => s.badCfg k
  | some n => if ok ((s.core k).frame n) then s.onCore k (·.onFrame n f) else s.badCfg k

/-- The configuration of a slot. -/
def Frame.slotCfg (fr : Frame) (n : Nat) : SlotCfg := Tab.get {} fr.slots n

/-- R73 `FIELD`, and the immediate of R74 that a WIDE word before it forms. -/
def execField (slot : BitVec 7) (f : BitVec 3) (value : BitVec 20) (s : State) : Out :=
  takeWord s true fun s k =>
    let half := (s.core k).wideHalf
    let s := s.onCore k fun c => { c with wideHalf := none }
    s.onOpen k (fun _ => true) fun fr =>
      let g := fr.slotCfg slot.toNat
      let bad := match half with | some u => f != 4 || 2 ^ 16 ≤ u.toNat | none => false
      let wide := if f == 4 then half.map fun u => u.setWidth 16 else g.wide
      { fr with fieldSeen := true,
                slots := Tab.set fr.slots slot.toNat
                  { f := g.f.set f.toNat (some value.toNat), wide := wide, bad := g.bad || bad } }

/-- R74 `WIDE`. -/
def execWide (upper : BitVec 20) (s : State) : Out :=
  takeWord s false fun s k => s.onCore k fun c => { c with wideHalf := some upper }

/-! ## OPEN and the words of an open frame (R75 to R77) -/

/-- Whether the elements of a frame hold tokens (R77). -/
def Core.frameBusy (c : Core) (f : Nat) : Bool :=
  (c.elems.any fun x => frameOf x.1 == f && !(x.2.queue.isEmpty && x.2.tier1.isEmpty && x.2.fired.isEmpty)) ||
  c.tier2.any (fun t => frameOf t.elem == f) || c.tier3.any fun t => frameOf t.elem == f

/-- Begin the configuration of a frame: what it held before is gone, but for instances that still have accesses to perform. -/
def Core.openFrameAt (c : Core) (f nin nout : Nat) : Core :=
  { c with
    openFrame := some f
    frames := Tab.set c.frames f { status := .opened, nin := nin, nout := nout }
    elems := c.elems.filter fun x => frameOf x.1 != f
    insts := c.insts.filter fun i => i.frame != f || c.accesses.any fun a => a.frame == f && a.inst == i.tag }

/-- R75 `OPEN`. -/
def execFrameOpen (frame : BitVec 3) (nin nout : BitVec 6) (s : State) : Out :=
  takeWord s false fun s k =>
    let c := s.core k
    if 32 < nin.toNat || 32 < nout.toNat || c.openFrame.isSome then s.badCfg k
    else if c.frameBusy frame.toNat then s.failCore k { status := stFrameBusy, detail0 := k * 2 ^ 24 + frame.toNat }
    else s.onCore k (·.openFrameAt frame.toNat nin.toNat nout.toNat)

/-- R75 `PLACE`. -/
def execFramePlace (p : Bool) (s : State) : Out :=
  takeWord s false fun s k => s.onOpen k (fun fr => !fr.fieldSeen) fun fr => { fr with place := p }

/-- R75 `BIN`. -/
def execFrameBin (input : BitVec 5) (slot : BitVec 7) (os : BitVec 2) (s : State) : Out :=
  takeWord s false fun s k =>
    s.onOpen k (fun fr => input.toNat < fr.nin) fun fr => { fr with bins := Tab.set fr.bins input.toNat (slot.toNat, os.toNat) }

/-- R75 `BOUT` to a block input of a frame. -/
def execBoutFrameInput (out : BitVec 5) (frame : BitVec 3) (input : BitVec 5) (s : State) : Out :=
  takeWord s false fun s k =>
    s.onOpen k (fun fr => out.toNat < fr.nout) fun fr =>
      { fr with bouts := Tab.set fr.bouts out.toNat (.frame frame.toNat input.toNat) }

/-- R75 `BOUT` to a block input of this frame. -/
def execBoutThisInput (out : BitVec 5) (input : BitVec 5) (s : State) : Out :=
  takeWord s false fun s k =>
    s.onOpen k (fun fr => out.toNat < fr.nout && input.toNat < fr.nin) fun fr =>
      { fr with bouts := Tab.set fr.bouts out.toNat (.here input.toNat) }

/-- R75 `BOUT` to a node port; a node of a mapped-out core is none (R19). -/
def execBoutNodePort (out : BitVec 5) (node : BitVec 7) (os : BitVec 2) (s : State) : Out :=
  takeWord s false fun s k =>
    s.onOpen k (fun fr => out.toNat < fr.nout && node.toNat ≤ 35 && !s.coreLost k) fun fr =>
      { fr with bouts := Tab.set fr.bouts out.toNat (.node node.toNat os.toNat) }

/-- R75 `CNEXT`. A tag operation of kind 2 is dropped, so its level stands in no level table: the model's choice (assumption log 35). -/
def execCnext (kind : BitVec 2) (frame : BitVec 3) (op : TagOp) (s : State) : Out :=
  takeWord s false fun s k =>
    let next : CommitNext := match kind.toNat with
      | 0 => .frame frame.toNat op
      | 1 => .here op
      | 2 => .last
      | _ => .entry
    s.onOpen k (fun _ => true) fun fr => { fr with cnext := some next }

/-- R75 `CSET`. -/
def execCset (half : Bool) (bitmap : BitVec 16) (s : State) : Out :=
  takeWord s false fun s k =>
    let lo := if half then 16 else 0
    s.onOpen k (fun fr => (List.range 16).all fun i => !bit bitmap.toNat i || lo + i < fr.nout) fun fr =>
      { fr with cset := setBits fr.cset (lo + 15) lo bitmap.toNat }

/-! ## The load checks (R19, R41, R57, R70, R73, R86, R238) -/

/-- A slot of a frame at CLOSE: its number, its element, its decoded instruction, and the arity that its F0 gives. -/
structure Placed where
  slot : Nat
  elem : Nat
  used : Bool
  arity : Nat
  instr : Option Instr
  deriving DecidableEq, Repr

/-- Place and decode a slot. -/
def Frame.placed (fr : Frame) (f n : Nat) (g : SlotCfg) : Placed :=
  let v (i : Nat) : Nat := (g.f.getD i none).getD 0
  let pofs := bits (v 7) 6 0
  let used := (g.f.getD 0 none).isSome
  let instr := if !used || g.bad || (!fr.place && pofs != 0) then none
    else (decodeElem { f := (List.range 8).map v, wide := g.wide }).toOption
  { slot := n, used := used, arity := bits (v 0) 6 5 + 1, instr := instr,
    elem := if fr.place then frameElem f (bits pofs 6 3) (bits pofs 2 0) else frameElem f (n % 16) (n / 16) }

def Placed.args (p : Placed) : Option (Nat × ElemArgs) := p.instr.bind elemParts

/-- Whether a target names what R57 forbids. -/
def targetBad (ps : List Placed) (nout : Nat) (t : Target) : Bool :=
  match t.dest with
  | .slot n os => !ps.any fun p => p.slot == n.toNat && p.used && os.toNat < p.arity
  | .out n => nout ≤ n.toNat
  | _ => false

/-- The levels that an element names: offset and width in bits (R41). -/
def Placed.levels (p : Placed) : List (Nat × Nat) :=
  match p.args with
  | none => []
  | some (opc, a) =>
    let f5 := match tagOpLevel a.tagOp with | some (o, w) => [(4 * o, widthOf w)] | none => []
    let (o, w) := levelSelector a.imm.toNat
    let f4 := if (opc == 0x10A || opc == 0x10B) && a.imm.toNat != 0xC0 && a.imm.toNat != 0xD0 then [(4 * o, widthOf w)] else []
    f5 ++ f4

/-- Whether two levels overlap without coinciding. -/
def levelsClash (a b : Nat × Nat) : Bool := a != b && a.1 < b.1 + b.2 && b.1 < a.1 + a.2

/-- The level that a CNEXT operation names. -/
def cnextLevel : Option CommitNext → List (Nat × Nat)
  | some (.frame _ op) | some (.here op) => match tagOpLevel op with | some (o, w) => [(4 * o, widthOf w)] | none => []
  | _ => []

/-- Insert a level by its offset. -/
def insertLevel (x : Nat × Nat) : List (Nat × Nat) → List (Nat × Nat)
  | [] => [x]
  | y :: t => if x.1 < y.1 then x :: y :: t else if x == y then y :: t else y :: insertLevel x t

/-- The elements of highest slot in the conflicts of the level table (R41). -/
def clashSlots (ps : List Placed) : List Nat :=
  let ls := ps.flatMap Placed.levels
  let names (m : Nat × Nat) : List Nat := (ps.filter fun p => p.levels.contains m).map (·.slot)
  ls.flatMap fun m => (ls.filter (levelsClash m)).map fun x => (names m ++ names x).foldl max 0

/-- The wave numbers of an element, if it is an ordered access. -/
def Placed.wave (p : Placed) : Option (Nat × Nat × Nat) :=
  match p.args with
  | some (_, a) => match a.f6 with | .wave x o y => some (x.toNat, o.toNat, y.toNat) | .pred _ _ => none
  | none => none

/-- The slots that break the chain rules of R238. Of two accesses that share an OWN it is the later slot, of several starts the second,
and of a chain without a start the first access. -/
def waveSlots (ps : List Placed) : List Nat :=
  let ws := ps.filterMap fun p => p.wave.map fun w => (p.slot, w)
  let own (o : Nat) : Bool := ws.any fun x => x.2.2.1 == o
  let shared := (ws.filter fun x => ws.any fun y => y.1 < x.1 && y.2.2.1 == x.2.2.1).map (·.1)
  let named (x : Nat × Nat × Nat) (v : Nat) : Bool := v == 0x3F || v == x.2.1 || own v
  let lost := (ws.filter fun x => !named x.2 x.2.1 || !named x.2 x.2.2.2).map (·.1)
  let starts := (ws.filter fun x => x.2.1 == x.2.2.1).map (·.1)
  let count := match ws, starts with
    | [], _ => []
    | x :: _, [] => [x.1]
    | _, [_] => []
    | _, _ :: b :: _ => [b]
  shared ++ lost ++ count

/-- The elements that a frame's CLOSE finds BLOCKED, in slot order; a BIN to an empty slot under a placement table concerns the element at
offset (0, 0) (assumption log 123). -/
def Frame.blockedElems (fr : Frame) (f : Nat) (ps : List Placed) : List Nat :=
  let waves := waveSlots ps
  let clash := clashSlots ps
  let bad (p : Placed) : Bool :=
    match p.args with
    | none => true
    | some (_, a) =>
      [a.t1, a.t2, a.t3].any (targetBad ps fr.nout) || (ps.any fun q => q.slot != p.slot && q.elem == p.elem) ||
      waves.contains p.slot || clash.contains p.slot || fr.bins.any fun b => b.2.1 == p.slot && p.arity ≤ b.2.2
  let loose := (fr.bins.filter fun b => !ps.any fun p => p.slot == b.2.1 && p.used).map fun b =>
    match ps.find? fun p => p.slot == b.2.1 with
    | some p => p.elem
    | none => if fr.place then frameElem f 0 0 else frameElem f (b.2.1 % 16) (b.2.1 / 16)
  (ps.filter bad).map (·.elem) ++ loose

/-- Configure the elements of a frame at its CLOSE (R68, R70, R76). Mapped-out elements are BLOCKED behind those of the load checks: the
order is the model's choice (assumption log 77). -/
def State.closeFrame (s : State) (k f : Nat) : State :=
  let fr := (s.core k).frame f
  let ps := fr.slots.map fun (x : Nat × SlotCfg) => fr.placed f x.1 x.2
  let elemLevels := ps.flatMap Placed.levels
  let cn := cnextLevel fr.cnext
  if fr.cnext.isNone || !((List.range fr.nout).all fun o => (Tab.find? fr.bouts o).isSome) then s.badCfg k
  else if cn.any fun m => !elemLevels.contains m && elemLevels.any fun x => levelsClash m x then s.badCfg k
  else
    let blocked := fr.blockedElems f ps ++ (ps.filter fun p => s.elemLost k p.elem).map (·.elem)
    let levels := (elemLevels ++ cn).foldl (fun t x => insertLevel x t) []
    let closed : Frame := { fr with status := .closed, levels := levels, acceptFrom := some (s.now + 1),
                                    map := ps.foldl (fun (m : Tab Nat) p => Tab.set m p.slot p.elem) [] }
    let s := s.onCore k fun c =>
      let put (c : Core) (p : Placed) : Core := c.onElem p.elem fun _ =>
        { instr := p.instr, frame := f, slot := p.slot, blocked := blocked.contains p.elem }
      let c := ps.foldl put c
      { c with openFrame := none, frames := Tab.set c.frames f closed }
    match blocked with
    | [] => s
    | e :: _ => s.failCore k
        { status := stBlocked, detail0 := k * 2 ^ 24 + colOf e * 2 ^ 16 + rowOf e * 2 ^ 8, code := fcBlocked, score := k,
          sx := colOf e, sy := rowOf e }

/-- R76 `CLOSE`. -/
def execFrameClose (frame : BitVec 3) (s : State) : Out :=
  takeWord s false fun s k =>
    if (s.core k).openFrame == some frame.toNat then s.closeFrame k frame.toNat else s.badCfg k

/-- R76 RESERVED_FRAME_WORD: a reserved command, or a reserved bit that is set. -/
def execReservedFrameWord (s : State) : Out := takeWord s false fun s k => s.badCfg k

/-! ## Handler tables (R78, R95, R101, R199, R222) -/

/-- The source ports that a vector command names (R190). -/
def vecSources (i : Instr) : List Nat :=
  match vecParts i with
  | none => []
  | some (op, v) =>
    let useB := if op == 0x11 then vcvtNarrow v else match vecRow op with | some r => r.usesB | none => false
    let useC := match vecRow op with | some r => r.usesC | none => false
    let codes := [v.a.toNat] ++ (if useB then [v.b.toNat] else []) ++ (if useC then [v.c.toNat] else [])
    (codes.filter fun x => 16 ≤ x && x ≤ 19).map (· - 16)

/-- The read set of a handler, in port order (R190, R220). -/
def handlerReads (l : Launch) (k n : Nat) (kind : NodeKind) (cmds : List Instr) : List Nat :=
  match kind with
  | .vector => [0, 1, 2, 3].filter fun p => cmds.any fun c => (vecSources c).contains p
  | .conv => [0, 1, 2, 3].filter (l.inboundHere k n)
  | _ => []

/-- Whether a converter command's source length suits its groups (R222). -/
def convFits (ports : Nat) (i : Instr) : Bool :=
  match i with
  | .cvq c | .cvdq c => (2048 * ports / fmtBits c.s) % (32 * 2 ^ c.grp.toNat) == 0
  | _ => true

/-- The checked handler of an image; none where R95, R101, R199 or R222 refuses it. -/
def handlerOf (l : Launch) (k n : Nat) (kind : NodeKind) (va : Nat) (ws : List Word) : Option Handler :=
  let cmds := ws.filterMap fun w => (decodeNode kind w).toOption
  let reads := handlerReads l k n kind cmds
  if cmds.length != ws.length then none
  else if kind == .vector && !(reads.all (l.inbound k n) && (handlerDests (some kind) cmds).all (l.outbound k n)) then none
  else if kind == .conv && !cmds.all (convFits reads.length) then none
  else some { addr := va, cmds := cmds, reads := reads }

/-- The NODE code of an image header (R100). -/
def kindCode : NodeKind → Nat
  | .vector => 0
  | .matrix => 1
  | .acc => 2
  | .conv => 3

/-- Whether a node takes HBIND and HFREE (R78); matrix and accumulator nodes need ACC storage. -/
def State.bindable (s : State) (k n : Nat) : Option NodeKind :=
  match nodeKindOf n with
  | none => none
  | some kind =>
    if s.coreLost k || ((kind == .matrix || kind == .acc) && bits (s.core k).partw 23 16 == 0) then none else some kind

/-- BADNODE with its core and node-port index. -/
def State.badNode (s : State) (k n : Nat) : State := s.failCore k { status := stBadNode, detail0 := k * 2 ^ 24 + n }

/-- R78 `HBIND`: the image is checked before the entry is written. -/
def execHbind (node : BitVec 6) (task : BitVec 6) (handler : BitVec 14) (s : State) : Out :=
  takeWord s false fun s k =>
    let n := node.toNat
    match s.bindable k n, s.coreLaunch k with
    | some kind, some (li, l) =>
      let va := l.cmd.hbase.toNat + 256 * handler.toNat
      let unread (s : State) : State := s.failCore k (badImage va)
      match s.sysRead (some (k / 4)) l.asid va 16 clsImage with
      | (.error _, s) => unread s
      | (.ok h, s) =>
        let hdr := wordsOfBytes h
        let count := bits (wordAt hdr 2) 31 16
        if !(imageHeaderOk hdr && bit (wordAt hdr 2) 0 && 1 ≤ count && count ≤ 32 && bits (wordAt hdr 2) 4 2 == kindCode kind) then
          s.badNode k n
        else match s.sysRead (some (k / 4)) l.asid (va + 16) (4 * count) clsImage with
          | (.error _, s) => unread s
          | (.ok b, s) =>
            match s.imageLocked (some (k / 4)) li va (16 + 4 * count), handlerOf l k n kind va (wordsOfBytes b) with
            | (.error f, s), _ => s.failCore k f
            | (.ok _, s), none => s.badNode k n
            | (.ok _, s), some h => (s.onNode k n fun nd => { nd with handlers := Tab.set nd.handlers task.toNat h }).reform k n task.toNat
    | _, _ => s.badNode k n

/-- R78 `HFREE`. -/
def execHfree (node : BitVec 6) (task : BitVec 6) (s : State) : Out :=
  takeWord s false fun s k =>
    match s.bindable k node.toNat with
    | none => s.badNode k node.toNat
    | some _ => s.onNode k node.toNat fun nd => { nd with handlers := Tab.del nd.handlers task.toNat }

end Sys2Proof.Machine
end

