-- ==== Sys2Proof/Machine/Partition.lean ====
section
/-! DEFINITION. The commands on partitions, ranks, translations and rings: PARTITION.CFG and teardown (R374 to R377), RANK.SET (R287,
R390), INVAL.RANGE (R386 to R388) and RING.RESTART (R432, R442). -/

namespace Sys2Proof.Machine

open Sys2Proof

/-! ## The fault ring descriptor (R432) -/

/-- Whether a fault ring descriptor is well formed. -/
def ringDescOk (ws : List Word) : Bool :=
  let w2 := wordAt ws 2
  dwordAt ws 0 % 4096 == 0 && bits w2 29 27 == 0 && bits w2 15 4 == 0 && bits w2 3 0 ≤ 12 && (!bit w2 30 || bits w2 26 16 < 256) &&
  wordAt ws 3 == 0 && (ws.drop 5).all (· == 0)

/-- Read a partition's fault ring descriptor; the ring is disabled where it is missing, unreadable or malformed. -/
def State.readRing (s : State) (p : Nat) (wi : Word) : State :=
  let off (s : State) : State := s.onPart p fun x => { x with ring := { x.ring with enabled := false, wi := wi, error := false } }
  match s.sysRead none (s.part p).first ringDescVa 64 clsOpen with
  | (.error _, s) => off s
  | (.ok bs, s) =>
    let ws := wordsOfBytes bs
    if !ringDescOk ws then off s
    else
      let w2 := wordAt ws 2
      s.onPart p fun x => { x with ring := { enabled := true, base := dwordAt ws 0, en := bit w2 31, vfi := bit w2 30,
                                             vec := bits w2 26 16, size := bits w2 3 0, wi := wi, error := false, seq := x.ring.seq } }

/-! ## PARTITION.CFG (R374 to R376) -/

/-- The units of a mask. -/
def maskUnits (m : Nat) : List Nat := (List.range 8).filter fun u => bit m u

/-- Whether two ranges of numbers meet. -/
def rangesMeet (a n b m : Nat) : Bool := 0 < n && 0 < m && a < b + m && b < a + n

/-- The other partitions that are configured. -/
def State.others (s : State) (p : Nat) : List Partition := (s.parts.filter fun x => x.1 != p && !x.2.units.isEmpty).map (·.2)

/-- Case 3 of R376. -/
def State.cfgDenied (s : State) (c : PartCmd) : Bool :=
  let p := c.part.toNat
  let n := c.count.toNat
  !(s.part p).units.isEmpty || ((s.others p).any fun x => (maskUnits c.mask.toNat).any x.units.contains) ||
  (c.vf != 0 && (s.others p).any fun x => x.vf == c.vf.toNat) || n == 0 || 65536 < c.first.toNat + n ||
  (s.others p).any fun x => rangesMeet c.first.toNat n x.first x.count

/-- Words of a physical table in HBM or at a bus address; none where it cannot be read. -/
def State.physTable (s : State) (host : Bool) (a n : Nat) : Option (List Word) := (s.tableBytes host a n).map wordsOfBytes

/-- Whether the header of a partition root table passes R374. -/
def rootHeaderOk (ws : List Word) : Bool :=
  let w1 := wordAt ws 1
  wordAt ws 0 == 0x50415254 && bits w1 31 27 == 0 && bits w1 15 10 == 0 && bits w1 9 0 + bits w1 26 16 ≤ 1024 &&
  dwordAt ws 2 % 65536 == 0 && 16 ≤ wordAt ws 4 && dwordAt ws 6 % 65536 == 0 && (wordAt ws 5 != 0 || dwordAt ws 6 == 0) &&
  (ws.drop 8).all (· == 0)

/-- Whether an ASID entry sets no reserved bit (R375). -/
def asidEntryOk (e : Nat) : Bool := bits e 62 52 == 0 && bits e 11 1 == 0

/-- The partition that a root table describes, before its pools are recorded; none where R374 or R375 is broken. -/
def State.rootOf (s : State) (c : PartCmd) : Option Partition :=
  let root := c.root.toNat / 256 * 256
  let host := bit c.root.toNat 0
  if bits c.root.toNat 7 1 != 0 then none
  else match s.physTable host root 64, s.physTable host (root + 64) (8 * c.count.toNat) with
    | some ws, some es =>
      if !rootHeaderOk ws || !(List.range c.count.toNat).all fun j => asidEntryOk (dwordAt es (2 * j)) then none
      else some { units := maskUnits c.mask.toNat, vf := c.vf.toNat, sealing := c.isSealed, first := c.first.toNat,
                  count := c.count.toNat, root := root, rootHost := host, slot0 := bits (wordAt ws 1) 9 0,
                  nslot := bits (wordAt ws 1) 26 16, spillVa := dwordAt ws 2, spillPages := wordAt ws 4, kvVa := dwordAt ws 6,
                  kvFrames := List.replicate (wordAt ws 5) 0 }
    | _, _ => none

/-- The frames of a pool, or the address of the first page that case 6 of R376 refuses. -/
def State.poolFrames (s : State) (p asid va : Nat) : Nat → Except Nat (List Nat) × State
  | 0 => (.ok [], s)
  | n + 1 =>
    match s.walkVa p asid va with
    | (some (0, e), s) =>
      let f := ptePa e / 65536
      if pteHost e || pteClass e != 6 || s.frameDead f then (.error va, s)
      else match s.poolFrames p asid (va + 65536) n with
        | (.ok fs, s) => (.ok (f :: fs), s)
        | r => r
    | (_, s) => (.error va, s)

/-- Whether a line lies in the slices of some units (R16, R22). -/
def lineIn (units : List Nat) (line : Nat) : Bool := units.contains (128 * line / stackBytes / 2)

/-- The cores of units, and their clusters. -/
def unitCores (units : List Nat) : List Nat := units.flatMap fun u => (List.range 8).map (8 * u + ·)

/-- Drop what the units of a partition hold: SRAM, slice lines, translation caches and Serpent contexts (R376, R377). -/
def State.dropUnits (s : State) (units : List Nat) (first count : Nat) : State :=
  { s.dropLines (lineIn units) with
           cores := s.cores.filter fun x => !(unitCores units).contains x.1
           clusterTlb := s.clusterTlb.filter fun x => !units.contains (x.1 / 2)
           walkers := s.walkers.filter fun x => !(first ≤ x.asid && x.asid < first + count)
           serpents := s.serpents.filter fun x => !units.contains (x.1 / 64 / 2) }

/-- Every frame of some units' stacks is fresh: no word of it is full (R231). -/
def State.freshen (s : State) (units : List Nat) : State :=
  { s with fullWords := s.fullWords.filter fun w => !units.contains (4 * w / stackBytes / 2) }

/-- Sequence slots become FREE. -/
def State.freeSlots (s : State) (slot0 n : Nat) : State :=
  { s with slots := s.slots.filter fun x => !(slot0 ≤ x.1 && x.1 < slot0 + n) }

/-- The capability list of a VF changes with its partition (R30, R31). -/
def State.relistFor (s : State) (vf : Nat) : State := if vf == 0 then s else s.relist

/-- Case 7 of R376: the pools are recorded and the partition exists; fresh image and spill keys are drawn (R399). -/
def State.configure (s : State) (p : Nat) (x : Partition) (spill kv : List Nat) : State :=
  let s := ((s.dropUnits x.units x.first x.count).freshen x.units).freeSlots x.slot0 x.nslot
  let s := { s with draws := s.draws + 1 }
  ((s.onPart p fun _ => { x with spillFrames := spill, kvFrames := kv, kvFree := kv, imageKey := s.draws }).readRing p 0).relistFor x.vf

/-- R376 PARTITION.CFG. A command that case 6 refuses leaves no partition and no pointer entry behind (R383). -/
def execPartitionCfg (h : CmdHeader) (c : PartCmd) (s : State) : Out :=
  onCommand s fun s q =>
    let p := c.part.toNat
    if Config.queueFn q != 0 || s.cfgDenied c then s.completeHead q h stDenied
    else match s.rootOf c with
      | none => s.completeHead q h stBadAddr 0 c.root.toNat
      | some x =>
        if (s.others p).any fun y => rangesMeet x.slot0 x.nslot y.slot0 y.nslot then s.completeHead q h stDenied
        else
          let forget (s : State) : State :=
            { s with parts := Tab.del s.parts p, walkers := s.walkers.filter fun t => !(x.first ≤ t.asid && t.asid < x.first + x.count) }
          let back (s : State) (va : Nat) : State := (forget s).completeHead q h stBadAddr 0 va
          let s := s.onPart p fun _ => x
          match s.poolFrames p x.first x.spillVa x.spillPages with
          | (.error va, s) => back s va
          | (.ok spill, s) =>
            match s.poolFrames p x.first x.kvVa x.kvFrames.length with
            | (.error va, s) => back s va
            | (.ok kv, s) =>
              if rangesMeet x.spillVa (65536 * x.spillPages) x.kvVa (65536 * x.kvFrames.length) then back s (max x.spillVa x.kvVa)
              else (s.configure p x spill kv).completeHead q h stOk

/-! ## Teardown (R377, R392) -/

/-- Whether a LAUNCH or RESUME of a partition waits for its cores: its wait object has been met and it is not dispatched yet. -/
def State.launchWaits (s : State) (p : Nat) : Bool :=
  s.queues.any fun x => s.asidPart x.2.asid == some p &&
    match x.2.head with | .ready (.launch _ _) | .ready (.resume _ _ _) => true | _ => false

/-- Whether R377 denies a teardown. -/
def State.teardownDenied (s : State) (p : Nat) : Bool :=
  let x := s.part p
  (s.launches.any fun l => l.2.part == some p) || s.launchWaits p ||
  (s.slots.any fun r => x.slot0 ≤ r.1 && r.1 < x.slot0 + x.nslot && r.2.st != .free) ||
  s.jobs.any fun j => j.2.owner == p && j.2.ranks.any fun r => 0 < r.2.pins

/-- Queues whose ASID lay in a range are left in place, and their next command is denied (R377). -/
def State.leaveQueues (s : State) (first count : Nat) : State :=
  let mark (w : WorkQueue) : WorkQueue := if w.known && first ≤ w.asid && w.asid < first + count then { w with left := true } else w
  { s with queues := s.queues.map fun (w : Nat × WorkQueue) => (w.1, mark w.2) }

/-- Packets for a partition that have arrived and are not taken yet go with it: no later partition receives them (R392). -/
def FabricPort.forgetPart (x : FabricPort) (p : Nat) : FabricPort :=
  { x with arrived := x.arrived.filter fun e => e.2.dpart.toNat != p }

/-- A partition ends: its jobs, locks, sessions and checkpoints with it, and the results that it keeps for its peers (R377, R392). -/
def State.teardown (s : State) (p : Nat) : State :=
  let x := s.part p
  let s := ((((s.dropUnits x.units x.first x.count).freeSlots x.slot0 x.nslot).leaveQueues x.first x.count)).relistFor x.vf
  let shut (y : Session) : Session := if y.part == p then { gen := y.gen } else y
  { s with parts := Tab.del s.parts p
           jobs := s.jobs.filter fun j => j.2.owner != p
           records := s.records.filter fun r => r.hdr.dpart.toNat != p
           epochs := s.epochs.filter fun e => e.part != p
           answers := s.answers.filter fun a => a.2.spart.toNat != p
           rounds := s.rounds.filter fun r => !(x.first ≤ r.asid && r.asid < x.first + x.count)
           locks := s.locks.filter fun l => l.2.1 != p
           ports := s.ports.map fun (y : Nat × FabricPort) => (y.1, y.2.forgetPart p)
           sessions := s.sessions.map fun (y : Nat × Session) => (y.1, shut y.2)
           checkpoints := s.checkpoints.filter fun c => c.part != p }

/-- R377 PARTITION_TEARDOWN. -/
def execPartitionTeardown (h : CmdHeader) (c : PartCmd) (s : State) : Out :=
  onCommand s fun s q =>
    if Config.queueFn q != 0 || s.teardownDenied c.part.toNat then s.completeHead q h stDenied
    else (s.teardown c.part.toNat).completeHead q h stOk

/-! ## RANK.SET (R287, R288, R390) -/

/-- The partition for which a RANK.SET acts; none where R287 denies it. -/
def State.rankActor (s : State) (fn p job : Nat) : Option Nat :=
  match Tab.find? s.jobs job with
  | some j => if j.owner == p || fn == 0 then some j.owner else none
  | none => if (s.jobs.filter fun j => j.2.owner == p).length < 64 then some p else none

/-- Whether R287 or R390 denies an entry for the partition that owns the job. -/
def State.rankDenied (s : State) (owner : Nat) (j : Job) (c : RankCmd) : Bool :=
  let pkg := c.package.toNat
  let isLocal := pkg == s.board.package
  (0x1000 ≤ pkg && pkg != 0xFFFF) || (pkg != 0xFFFF && c.ports == 0) ||
  ((List.range 96).any fun n => bit c.ports.toNat n && !(s.part owner).units.contains (n / 12)) ||
  (isLocal && (c.part.toNat != owner || j.ranks.any fun r => r.1 != c.rank.toNat && r.2.package == s.board.package))

/-- The job with the entry replaced. -/
def Job.withRank (j : Job) (own : Nat) (asid : Nat) (c : RankCmd) : Job :=
  let r := c.rank.toNat
  let e : RankEntry := { package := c.package.toNat, part := c.part.toNat, ports := c.ports.toNat }
  { j with ranks := Tab.set j.ranks r e
           own := if c.package.toNat == own then some (r, asid) else if j.own.any fun o => o.1 == r then none else j.own }

/-- R287 RANK_SET. -/
def execRankSet (h : CmdHeader) (c : RankCmd) (s : State) : Out :=
  onCommand s fun s q =>
    let w := s.queue q
    match (s.asidPart w.asid).bind fun p => s.rankActor (Config.queueFn q) p c.job.toNat with
    | none => s.completeHead q h stDenied
    | some owner =>
      let j := (Tab.find? s.jobs c.job.toNat).getD { owner := owner }
      if s.rankDenied owner j c then s.completeHead q h stDenied
      else if 0 < (Tab.get {} j.ranks c.rank.toNat).pins then s.completeHead q h stReBusy
      else ({ s with jobs := Tab.set s.jobs c.job.toNat (j.withRank s.board.package w.asid c) } : State).completeHead q h stOk

/-! ## INVAL.RANGE (R386 to R388) -/

/-- Whether a cached entry is dropped: a leaf of a size in the mask whose page overlaps the range, or a pointer entry that covers part of
it. -/
def tlbDropped (a start len mask : Nat) (x : Tlb) : Bool :=
  x.asid == a && rangesMeet x.va (2 ^ lvShift x.level) start len &&
  (!pteLeaf x.entry || mask == 0 || bit mask x.level)

/-- Drop matching entries from every cache; waiting accesses are translated again (R388). -/
def State.dropRange (s : State) (a start len mask : Nat) : State :=
  let keep (ts : List Tlb) : List Tlb := ts.filter fun x => !tlbDropped a start len mask x
  let core (c : Core) : Core := { c with tlb := keep c.tlb }
  ({ s with cores := s.cores.map fun (x : Nat × Core) => (x.1, core x.2)
            clusterTlb := s.clusterTlb.map fun (x : Nat × List Tlb) => (x.1, keep x.2)
            walkers := keep s.walkers } : State).settle

/-- The status of cases 1 to 4 of R386, with DETAIL1. -/
def State.invalStatus (s : State) (q : Nat) (c : InvalCmd) : Option (Nat × Nat) :=
  let start := c.start.toNat
  let len := c.length.toNat
  match s.asidPart c.asid.toNat with
  | none => some (stDenied, 0)
  | some p =>
    let x := s.part p
    if Config.queueFn q != 0 && s.asidPart (s.queue q).asid != some p then some (stDenied, 0)
    else if c.asid.toNat == x.first && (rangesMeet start len x.spillVa (65536 * x.spillPages) ||
        rangesMeet start len x.kvVa (65536 * x.kvFrames.length)) then some (stDenied, 0)
    else if 2 ^ 57 < start + len then some (stBadAddr, start)
    else if start % 65536 != 0 || len % 65536 != 0 then some (stBadAddr, start)
    else if len == 0 then some (stOk, 0)
    else none

/-- R386 INVAL_RANGE: the caches drop their entries; the completion follows the drain. -/
def execInvalRange (h : CmdHeader) (c : InvalCmd) (s : State) : Out :=
  onCommand s fun s q =>
    if (s.queue q).drain then s
    else match s.invalStatus q c with
      | some (st, d1) => s.completeHead q h st 0 d1
      | none =>
        (s.dropRange c.asid.toNat c.start.toNat c.length.toNat c.sizes.toNat).onQueue q fun x => { x with drain := true }

/-- R387 INVAL_RANGE_DRAIN_DONE: an access of this machine is performed in one step, so none that was sent is left to drain. -/
def execInvalRangeDrainDone (s : State) : Out :=
  onCommand s fun s q =>
    match s.runningCmd q with
    | some i => if (s.queue q).drain then s.completeHead q (headerOf i) stOk else s
    | none => s

/-! ## RING.RESTART (R442) -/

/-- The command at the head of a queue is abandoned: a PREEMPT that has stopped its launch gets no completion record (R442). -/
def State.abandon (s : State) (t : Nat) : State :=
  let drop (x : Launch) : Launch :=
    match x.preempt with
    | some (some q, h, a) => if q == t then { x with preempt := some (none, h, a) } else x
    | _ => x
  { s with launches := s.launches.map fun (l : Nat × Launch) => (l.1, drop l.2) }

/-- R442 RING_RESTART of a queue of the function. A command that runs at its head lies between the old R and the new one: it is abandoned. -/
def execRingRestart (h : CmdHeader) (ofs : BitVec 17) (idx : Word) (s : State) : Out :=
  onCommand s fun s q =>
    let fn := Config.queueFn q
    if Config.qcount fn ≤ ofs.toNat then s.completeHead q h stDenied
    else
      let t := Config.qbase fn + ofs.toNat
      let s := ((s.completeHead q h stOk).onQueue t fun x => { x with error := false }).abandon t
      (s.readDescriptor t).onQueue t fun x => { x with r := idx, w := idx, next := idx, head := .idle, drain := false }

/-- R442 RING_RESTART with FR = 1: the fault ring of the issuing partition. -/
def execRingRestartFaultRing (h : CmdHeader) (idx : Word) (s : State) : Out :=
  onCommand s fun s q =>
    match s.asidPart (s.queue q).asid with
    | none => s.completeHead q h stDenied
    | some p => (s.readRing p idx).completeHead q h stOk

end Sys2Proof.Machine
end

