-- ==== Sys2Proof/Machine/Preempt.lean ====
section
/-! DEFINITION. Pre-emption (R436, R439 to R441), the completion of a failed launch (R343, R431) and the reset of a function (R443). -/

namespace Sys2Proof.Machine

open Sys2Proof

/-! ## What a stopped launch still has to finish (R343, R439) -/

/-- Whether a copy that has not started would start: its tiles let it, and where it has claimed a ring slot there is room (R279, R283). -/
def State.copyStarts (s : State) (k : Nat) (x : Access) : Bool :=
  let c := sendCtl k (x.opnds.val 0) (x.opnds.val 1)
  !(s.core k).copyBehind x && s.tileStart k c != .wait &&
  (x.ringAt.isNone || match (s.ringViewAt c.core x.ringEl).1 with
    | .ok r => r.hasRoom x.slotNo
    | .error _ => true)

/-- Whether a tile keeps an access waiting: a `tstate` for another state, a `tfree`, a `g.mask` or an access of the scratchpad for a tile
that is FILLING or DRAINING (R233, R273, R274, R366). -/
def State.tileKeeps (s : State) (k : Nat) (x : Access) : Bool :=
  let busy (no : Nat) : Bool := let st := ((s.core k).tile no).st; st == .filling || st == .draining
  match x.opc with
  | 0x14B => x.args.arity.toNat == 1 && ((s.core k).tile (x.opnds.val 0)).st.code != x.opnds.val 1
  | 0x14C => busy (x.opnds.val 0)
  | 0x1C9 => busy (bits (x.opnds.val 0) 31 24)
  | _ => match x.tileAt with | .tile no => busy no | .none | .freed => false

/-- Whether an access has begun, or may begin, and will end of itself. One that waits for the program, a `lds` on an empty word, an
`awaitf` on an empty slot or a `tstate`, say, is at rest, as is a copy of a suspended context that has not started. -/
def State.moves (s : State) (k : Nat) (x : Access) : Bool :=
  match x.stage with
  | .ready =>
    (s.core k).mayPerform x && !(x.opc == 0x14F || x.opc == 0x150 || x.opc == 0x184) &&
    !s.tileKeeps k x && (x.opc != 0x14D || (s.copyStarts k x && !(s.coreLaunch k).any fun l => l.2.ctxSuspended (ctxOf x.inst)))
  | .copying => true
  | .waiting => isRemoteOpc x.opc || x.opc == 0x181 || s.drains.any fun d => d.core == k && d.access == x.id
  | .held | .parked | .firing | .done | .lost => false

/-- Whether an epoch of a launch is in OPENING or RELEASING. -/
def State.epochsMove (s : State) (x : Launch) : Bool :=
  s.epochs.any fun e => x.cores.contains e.core && (e.st == .opening || e.st == .releasing)

/-- Whether a core has drained (R439): handlers, passes, messages, configuration words, accesses and requests have come to rest. -/
def State.coreRests (s : State) (k : Nat) : Bool :=
  let c := s.core k
  (c.nodes.all fun n => n.2.running.isNone && n.2.passes.isEmpty) && c.transit.isEmpty && c.fifo.isEmpty &&
  !(c.accesses.any fun x => s.moves k x) && !s.requests.any fun r => r.core == k

/-- Records of the SPILL pool that the tokens of a core hold (R48, R69, R247, R353). -/
def Core.spillAll (c : Core) : Nat :=
  recordsOf c.tier3 + recordsOf ((c.arrival.filter (·.spilled)).map (·.tok)) + (c.results.length - 1024) +
  (c.accesses.filter fun x => x.opc == 0x146 && x.stage == .waiting).length + (c.nodes.map fun n => n.2.pending.length - 16).sum

/-- The records that a launch's tokens hold go back to the pool. -/
def State.giveSpill (s : State) (x : Launch) : State := x.cores.foldl (fun s k => s.spillGive k (s.core k).spillAll) s

/-- The epochs of a launch are FREE: windows, counter ids and pins are given back. -/
def State.dropEpochs (s : State) (x : Launch) : State :=
  let s := (List.range s.epochs.length).reverse.foldl (fun s i =>
    if s.epochs[i]?.any fun e => x.cores.contains e.core && e.st != .failed then s.freeEpoch i false else s) s
  { s with epochs := s.epochs.filter fun e => !x.cores.contains e.core }

/-! ## A launch that has failed (R343, R431) -/

/-- The trap record of a launch failure (R431): BLOCKED and a lost resource have a precise point. -/
def Failure.trap (f : Failure) (x : Launch) : Trap :=
  let code := if f.code != 0 then f.code else if f.status == stBlocked then fcBlocked else if f.status == stSig then fcSig else 0
  { kind := 3, action := 3, queue := x.q, cid := x.cid, va := f.va, score := f.score, x := f.sx, y := f.sy,
    node := if f.status == stBlocked then 63 else 0,
    word := faultWord code f.score f.sx f.sy (if code != 0 then 0 else if f.byReset then 0x14 else f.status) }

/-- A PREEMPT completes, unless its queue has abandoned it (R442). -/
def State.endPreempt (s : State) (q : Option Nat) (h : CmdHeader) (status : Nat) (d0 d1 : Nat := 0) : State :=
  match q with
  | some q => s.completeHead q h status d0 d1
  | none => s

/-- R343 LAUNCH_FAIL_COMPLETE: once released accesses and epochs have finished, everything of the launch is discarded, its cores are freed
and its completion record is written. -/
def execLaunchFailComplete (s : State) : Out :=
  atLaunch s fun l =>
    match Tab.find? s.launches l with
    | none => s
    | some x =>
      match x.st, x.failure with
      | .failing, some f =>
        if s.epochsMove x || x.cores.any fun k => (s.core k).accesses.any fun a => (s.core k).isReleased a && s.moves k a then s
        else
          let s := (s.giveSpill x).dropEpochs x
          let s := match x.part with | some p => s.post p (f.trap x) | none => s
          if f.byReset then s.freeLaunch l
          else
            let s := s.endLaunch l f.status f.detail0 f.detail1
            match x.preempt with
            | some (q, h, _) => s.endPreempt q h stNoLaunch
            | none => s
      | _, _ => s

/-! ## PREEMPT (R439, R440) -/

/-- A sequencer stops: a waiting instruction is interrupted, and its own address is kept (R128, R439). -/
def Seq.stop (q : Seq) : Seq := { q with mode := match q.mode with | .wait => .run | m => m, waitFor := .none }

/-- R439 PREEMPT: the launch of the named queue stops, and drains. -/
def execPreempt (h : CmdHeader) (ofs : BitVec 17) (area : DWord) (s : State) : Out :=
  onCommand s fun s q =>
    let fn := Config.queueFn q
    if Config.qcount fn ≤ ofs.toNat then s.completeHead q h stDenied
    else match (s.queue (Config.qbase fn + ofs.toNat)).launch with
      | none => s.completeHead q h stNoLaunch
      | some l =>
        let x := s.launch l
        match x.st with
        | .failing => s.completeHead q h stNoLaunch
        | .draining => s
        | .running | .stopped =>
          let s := x.clusters.foldl (fun s c => s.onSeq c Seq.stop) s
          s.onLaunch l fun x => { x with st := .draining, preempt := some (some q, h, area.toNat), stopAt := some (x.stopAt.getD s.now) }

/-- The first page of a checkpoint area that is not a writable page of class SPILL. -/
def State.badPage (s : State) (asid : Nat) : List (Nat × Nat) → Option Nat × State
  | [] => (none, s)
  | (va, _) :: rest =>
    match s.translate none none asid va with
    | (none, s) => (some va, s)
    | (some t, s) => if t.cls == 6 && t.w then s.badPage asid rest else (some va, s)

/-- The header of a checkpoint (R440). -/
def checkpointHeader (s : State) (x : Launch) (p len : Nat) : List Word :=
  let w (n : Nat) : Word := BitVec.ofNat 32 n
  let held (f : CtxFate) : Bool := match f with | .suspended _ => true | .killed => false
  [w 0x434B5054, w (Config.implId * 2 ^ 16 + Config.grade),
   w (x.cmd.cmask.toNat * 2 ^ 16 + b2n x.cmd.sdv * 2 ^ 10 + x.cmd.sdom.toNat), w (p * 2 ^ 29 + x.q % 2 ^ 17),
   w (x.cid * 2 ^ 16 + b2n (x.fates.any fun f => held f.2) * 2 + b2n (s.epochs.any fun e => x.cores.contains e.core && e.st == .opened))] ++
  splitWords len 2 ++ List.replicate 9 0

/-- A core as a checkpoint holds it: its tokens are their records, without the fabricated flag (R38, R331). -/
def Core.recorded (c : Core) : Core :=
  let queued (q : Queued) : Queued := { q with tok := q.tok.recorded }
  let held (h : Held) : Held := { h with tok := h.tok.recorded }
  let elem (e : Nat × Elem) : Nat × Elem :=
    (e.1, { e.2 with queue := e.2.queue.map queued, tier1 := e.2.tier1.map Token.recorded,
                     fired := e.2.fired.map fun x => { x with toks := x.toks.map (·.map Token.recorded) } })
  { c with elems := c.elems.map elem, arrival := c.arrival.map held }

/-- What a checkpoint keeps of a drained launch. -/
def State.snapshot (s : State) (l : Nat) (x : Launch) (p area frame : Nat) : Checkpoint :=
  { part := p, area := area, frame := frame, id := l, launch := { x with st := .running, preempt := none, stopAt := none },
    stop := x.stopAt.getD s.now, cores := x.cores.map fun k => (k, (s.core k).recorded), seqs := x.clusters.map fun c => (c, s.seq c),
    routes := x.routes.map fun (r : Nat × Nat) => (r.1, Tab.get {} (s.part p).routes r.1),
    time := s.now }

/-- Core number under which the open epochs of a saved launch stand. -/
def savedCore (l k : Nat) : Nat := 64 * (l + 1) + k

/-- The epochs of some cores stand under other numbers. -/
def State.moveEpochs (s : State) (mine : Nat → Bool) (place : Nat → Nat) : State :=
  { s with epochs := s.epochs.map fun e => if mine e.core then { e with core := place e.core } else e }

/-- Bytes of the whole lines that a checkpoint of a length fills. -/
def wholeLen (len : Nat) : Nat := (len + 127) / 128 * 128

/-- Part 3 of R439: the checkpoint is written and the launch completes with PREEMPTED; the length of a checkpoint and the words of its body
are free values. An area of 0 discards the launch. -/
def State.saveLaunch (s : State) (l : Nat) (x : Launch) (p : Nat) (q : Option Nat) (h : CmdHeader) (area : Nat) : State :=
  let stay (s : State) (va : Nat) : State :=
    (s.onLaunch l fun x => { x with st := .stopped, preempt := none }).endPreempt q h stBadAddr 0 va
  if area == 0 then (((s.giveSpill x).dropEpochs x).endLaunch l stPreempted 0 0).endPreempt q h stOk
  else
    let (w, s) := s.freeWord 440
    let len := 64 + w.toNat
    let (body, s) := s.freeWords 4400 ((wholeLen len - 64) / 4)
    match s.badPage x.asid (pageParts area (wholeLen len)) with
    | (some va, s) => stay s va
    | (none, s) =>
      match s.areaFrame x.asid area, s.sysWrite none x.asid area (bytesOfWords (checkpointHeader s x p len ++ body)) clsSpill with
      | some f, (.ok _, s) =>
        let s := { s with checkpoints := s.checkpoints.filter (fun (y : Checkpoint) => y.frame != f) ++ [s.snapshot l x p area f] }
        let s := s.moveEpochs x.cores.contains (savedCore l)
        (s.endLaunch l stPreempted 0 area).endPreempt q h stOk (len % 2 ^ 32)
      | _, (_, s) => stay s area

/-- R439 PREEMPT_DRAIN_DONE: every token has come to rest, and the checkpoint is saved. -/
def execPreemptDrainDone (s : State) : Out :=
  atLaunch s fun l =>
    match Tab.find? s.launches l with
    | none => s
    | some x =>
      match x.st, x.preempt, x.part with
      | .draining, some (q, h, area), some p =>
        if s.epochsMove x || !x.cores.all s.coreRests then s else s.saveLaunch l x p q h area
      | _, _, _ => s

/-! ## RESUME (R436, R441) -/

/-- Whether the header of a checkpoint names this device, a partition and a queue. -/
def headerNames (ws : List Word) (p q : Nat) : Bool :=
  wordAt ws 0 == 0x434B5054 && wordAt ws 1 == Config.implId * 2 ^ 16 + Config.grade && bits (wordAt ws 3) 31 29 == p &&
  bits (wordAt ws 3) 16 0 == q % 2 ^ 17

/-- A core as it is restored `gap` cycles after its launch was stopped: timers go on with the time that they had left; cached translations and the fault address
table are no part of a checkpoint (R440). -/
def Core.restore (c : Core) (gap : Nat) : Core :=
  let late (t : Timer) : Timer := { t with expiry := t.expiry + gap }
  { c with elems := c.elems.map fun (e : Nat × Elem) => (e.1, { e.2 with timers := e.2.timers.map late }), tlb := [], vas := [], streamFaults := [] }

/-- A bank takes its codes from its record again; one that cannot be loaded is poisoned (R202, R207, R441). -/
def State.reloadBank (s : State) (k n : Nat) (b : Bool) : State :=
  let old := (s.node k n).bank b
  if !old.cv then s
  else
    let fail (s : State) : State := s.onNode k n fun nd => nd.setBank b { old with codes := [], poison := true }
    match s.opRecord k old.record, s.coreLaunch k with
    | (some r, s), some (_, l) =>
      if (r.sv && l.sdom? != some r.sdom) || !r.wport then fail s
      else match s.loadBank k l old.record r with
        | (.error _, s) => fail s
        | (.ok x, s) =>
          let x := if old.zp then { x with entries := old.entries, ev := old.ev, zp := true } else x
          s.onNode k n fun nd => nd.setBank b { x with wd := old.wd || x.wd, poison := old.poison }
    | (_, s), _ => fail s

/-- Every bank of a launch's cores is reloaded. -/
def State.reloadBanks (s : State) (x : Launch) : State :=
  x.cores.foldl (fun s k => ((s.core k).nodes.map (·.1)).foldl (fun s n => (s.reloadBank k n false).reloadBank k n true) s) s

/-! ### Parked sources are tried again (R436) -/

/-- Why a parked access still fails: the pages that it reaches are walked afresh. -/
def State.stillBad (s : State) (k : Nat) (x : Access) : Option Bad × State :=
  let a := x.opnds.val 0
  let c := sendCtl k a (x.opnds.val 1)
  let found {α : Type} : Except Bad α × State → Option Bad × State
    | (.ok _, s) => (none, s)
    | (.error b, s) => (some b, s)
  if x.opc == 0x14D then found (s.checkSpot k c.dest c.bytes false true (s.copyD k x c))
  else if x.opc == 0x14E then found (s.checkRing k a (x.opnds.val 1) x.opnds.dAll)
  else if x.opc == 0x150 then
    match s.ringView k (bits a 31 28) with
    | (.error b, s) => (some b, s)
    | (.ok r, s) => found (s.checkSpot k (r.slotAddr (a % 2 ^ 28)) r.slotBytes false true false)
  else found (s.checkSpot k a x.width (x.opc == 0x147 || x.opc == 0x148) true x.opnds.dAll)

/-- Try a parked access again: it proceeds, or it fails as at its release (R435, R436). -/
def State.retryAccess (s : State) (k : Nat) (x : Access) : Bool × State :=
  match s.stillBad k x with
  | (none, s) => (true, s.onCore k (·.onAccess x.id fun y => { y with stage := .ready }))
  | (some b, s) => (false, s.failReleased k (if x.opc == 0x14D then 63 else 61) x b)

/-- Try a parked stream again: it goes on at element k, or that element fails as before (R435, R436). -/
def State.retryStream (s : State) (c ap : Nat) (l : Launch) : Bool × State :=
  let a := (s.seq c).ap ap
  match s.streamMem c l [] (a.descr.addr a.pos) a.descr.size with
  | ((.bad code detail, _), s) => (false, s.streamFault c ap (4 * c + a.port / 16) l a code detail)
  | (_, s) => (true, s.onSeq c (·.onAp ap fun a => { a with parked := false }))

/-- Try every parked source of a context again, in order of release; the answer says whether each proceeds. -/
def State.retryCtx (s : State) (l : Nat) (ctx : Nat) : Bool × State :=
  let x := s.launch l
  let mine (y : Access) : Bool := y.stage == .parked && ctxOf y.inst == ctx
  let ys := x.cores.flatMap fun k => ((s.core k).accesses.filter mine).map fun y => (k, y)
  let aps := x.clusters.flatMap fun c => ((s.seq c).aps.filter fun a => a.2.parked && ctxOf a.2.tag == ctx).map fun a => (c, a.1)
  let r := ys.foldl (fun (r : Bool × State) y => let (b, s) := r.2.retryAccess y.1 y.2; (r.1 && b, s)) (true, s)
  aps.foldl (fun (r : Bool × State) a => let (b, s) := r.2.retryStream a.1 a.2 x; (r.1 && b, s)) r

/-- The parked streams of a context that is killed go on (R434). -/
def State.wakeStreams (s : State) (x : Launch) (ctx : Nat) : State :=
  let go (a : Nat × Ap) : Nat × Ap := (a.1, if ctxOf a.2.tag == ctx then { a.2 with parked := false } else a.2)
  x.clusters.foldl (fun s c => s.onSeq c fun q => { q with aps := q.aps.map go }) s

/-- Suspended contexts at RESUME (R436): one whose every record was resolvable runs on once all its parked sources proceed, and is
suspended again where one fails; any other is killed. -/
def State.resumeCtxs (s : State) (l : Nat) (x : Launch) : State :=
  x.fates.foldl (fun s (f : Nat × CtxFate) =>
    match f.2 with
    | .killed => s
    | .suspended true =>
      let (ok, s) := s.retryCtx l f.1
      let s := s.onLaunch l fun x => { x with fates := Tab.del x.fates f.1 }
      if ok then s else s.suspendCtx l f.1 true
    | .suspended false => (s.killCtx l f.1).wakeStreams x f.1) s

/-! ### The images are pushed again (R122, R406, R441) -/

/-- A core applies a configuration word at once. -/
def State.applyWord (s : State) (k : Nat) (w : Word) : State :=
  let me := s.agent
  let s := ({ s with agent := .config k } : State).onCore k fun c => { c with fifo := [(0, w)] }
  let out : Out :=
    match decodeConfig w with
    | .error _ => execReservedFrameWord s
    | .ok i =>
      match i with
      | .field n f v => execField n f v s
      | .wide u => execWide u s
      | .frameOpen f i o => execFrameOpen f i o s
      | .frameClose f => execFrameClose f s
      | .framePlace p => execFramePlace p s
      | .frameBin i n o => execFrameBin i n o s
      | .boutFrameInput o f i => execBoutFrameInput o f i s
      | .boutThisInput o i => execBoutThisInput o i s
      | .boutNodePort o n p => execBoutNodePort o n p s
      | .cnext k f t => execCnext k f t s
      | .cset h b => execCset h b s
      | .hbind n t h => execHbind n t h s
      | .hfree n t => execHfree n t s
      | _ => .next s
  match out with
  | .next t => { t with agent := me }
  | .fault _ | .refused _ => { s with agent := me }

/-- Push an image again: its words go to the cores of its cluster, a sequencer image to its sequencer. -/
def State.pushAgain (s : State) (l : Nat) (i : Pushed) : Try Unit :=
  tryThen (s.readImage (some i.cluster) l i.va) fun (hdr, ws) s =>
    match i.frame with
    | none =>
      if !seqImageOk hdr then (.error (badImage i.va), s)
      else (.ok (), s.onSeq i.cluster fun q => { q with imem := ws.zipIdx.map fun (w : Word × Nat) => (w.2, w.1) })
    | some f =>
      if !elementImageOk hdr ws then (.error (badImage i.va), s)
      else if ws.any wordRefused then (.error { status := stBadCfg, detail0 := 4 * i.cluster * 2 ^ 24 }, s)
      else (.ok (), [0, 1, 2, 3].foldl (fun s j => (ws.map (wordPlaced f)).foldl (fun s w => s.applyWord (4 * i.cluster + j) w) s) s)

/-- A restored core with the configuration of a core that has been configured anew. -/
def Core.reconfigured (c fresh : Core) : Core :=
  let elem (e : Nat × Elem) : Nat × Elem :=
    (e.1, { c.elem e.1 with instr := e.2.instr, frame := e.2.frame, slot := e.2.slot, blocked := e.2.blocked })
  let nodes := c.nodes.map fun (n : Nat × Node) => (n.1, { n.2 with handlers := [] })
  { c with frames := fresh.frames, openFrame := fresh.openFrame, wideHalf := fresh.wideHalf, elems := fresh.elems.map elem,
           nodes := fresh.nodes.foldl (fun t (n : Nat × Node) => Tab.modify {} t n.1 fun y => { y with handlers := n.2.handlers }) nodes }

/-- The launch tables of a resumed launch are read again, and its images pushed again to cores that hold no configuration; the restored
cores take the configuration that results. -/
def State.reconfigure (s : State) (l : Nat) (x : Launch) : Try Unit :=
  let kept := x.cores.map fun k => (k, s.core k)
  tryThen (s.readTables x) fun y s =>
    let s := s.onLaunch l fun _ => { y with admission := none }
    let s := kept.foldl (fun s (k : Nat × Core) => s.setCore k.1 { launch := some l, partw := k.2.partw }) s
    let (r, s) := x.images.foldl (fun m i => tryThen m fun _ s => s.pushAgain l i) ((.ok (), s) : Except Failure Unit × State)
    (r, kept.foldl (fun s (k : Nat × Core) => s.setCore k.1 (k.2.reconfigured (s.core k.1))) s)

/-! ### The command -/

/-- Restore what a checkpoint keeps, under its launch's number. A stream reads its elements from memory as it stands (R436). -/
def State.restore (s : State) (c : Checkpoint) (x : Launch) : State :=
  let gap := s.now - c.time
  let s := { s with checkpoints := s.checkpoints.filter fun y => y.frame != c.frame, launches := Tab.set s.launches c.id x }
  let s := c.cores.foldl (fun s (k : Nat × Core) => s.setCore k.1 (k.2.restore (s.now - c.stop))) s
  let afresh (a : Nat × Ap) : Nat × Ap := (a.1, { a.2 with lines := [] })
  let s := c.seqs.foldl (fun s (q : Nat × Seq) => s.onSeq q.1 fun _ => { q.2 with aps := q.2.aps.map afresh }) s
  let claim (r : Route) : Route := { r with holder := some c.id, due := r.due.map (· + gap) }
  let s := s.onPart c.part fun p =>
    { p with routes := c.routes.foldl (fun t (r : Nat × Route) => Tab.set t r.1 (claim r.2)) p.routes }
  s.moveEpochs (fun k => k / 64 == c.id + 1) (· % 64)

/-- A checkpoint that may be resumed is resumed by queue `q` for queue `t`; RESUME completes with the launch. -/
def State.resumeFrom (s : State) (c : Checkpoint) (q t : Nat) (h : CmdHeader) : State :=
  let w := s.queue q
  let x := { c.launch with cq := q, idx := w.next, hdr := h }
  let asid := x.asid
  let s := (s.restore c x).onQueue t fun y => { y with launch := some c.id }
  let s := if q == t then s.onQueue q fun y => { y with next := w.next + 1, head := .idle } else s
  let s := (s.sysWrite none asid c.area (leBytes 0 4) clsSpill).2.dropRange asid 0 (2 ^ 57) 0
  match s.reconfigure c.id x with
  | (.error f, s) => s.failLaunch c.id f
  | (.ok _, s) => if (s.launch c.id).st == .running then (s.reloadBanks x).resumeCtxs c.id x else s

/-- R441 RESUME; it waits while the clusters of its launch are not free, or its queue runs a launch (R323). -/
def execResume (h : CmdHeader) (ofs : BitVec 17) (area : DWord) (s : State) : Out :=
  onCommand s fun s q =>
    let fn := Config.queueFn q
    let t := Config.qbase fn + ofs.toNat
    if Config.qcount fn ≤ ofs.toNat then s.completeHead q h stDenied
    else if !s.canBegin q (.resume h ofs area) then s
    else
      let asid := (s.queue t).asid
      match s.sysRead none asid area.toNat 64 clsSpill, s.asidPart asid with
      | (.ok bs, s), some p =>
        let ws := wordsOfBytes bs
        match s.checkpointAt asid area.toNat with
        | none => s.completeHead q h stBadImage 0 area.toNat
        | some c =>
          if !headerNames ws p t then s.completeHead q h stBadImage 0 area.toNat
          else match s.sysRead none asid area.toNat (dwordAt ws 5) clsSpill with
            | (.error _, s) => s.completeHead q h stBadImage 0 area.toNat
            | (.ok _, s) =>
              if bit (wordAt ws 2) 10 && !(Tab.get {} (s.part p).domains (bits (wordAt ws 2) 9 0)).live then s.completeHead q h stDenied
              else s.resumeFrom c q t h
      | (_, s), _ => s.completeHead q h stBadImage 0 area.toNat

/-! ## Function-level reset (R443) -/

/-- R443 FUNCTION_LEVEL_RESET: the launches of the function stop, its queues forget what they hold, and its registers are reset. -/
def execFunctionLevelReset (s : State) : Out :=
  atFn s fun n =>
    let stop (x : Launch) : Launch :=
      if x.fn == n then { x with st := .failing, failure := some { status := 0x14, byReset := true } } else x
    { s with launches := s.launches.map fun (l : Nat × Launch) => (l.1, stop l.2)
             queues := s.queues.filter fun (q : Nat × WorkQueue) => Config.queueFn q.1 != n
             fns := Tab.del s.fns n }

end Sys2Proof.Machine
end

