-- ==== Sys2Proof/Machine/Board.lean ====
section
/-! DEFINITION. The package itself: power-good and bring-up (R36), clock and modes (R9, R27, R28), spares (R34, R445), storage errors
(R444), the registers of BAR0 (R37, R319), and a host access that is not completed (R427). -/

namespace Sys2Proof.Machine

open Sys2Proof

/-! ## Bring-up (R36) -/

/-- R36 POWER_GOOD: power-good or a cold reset. The board's flash keeps the spare map and the signing record; the host's memory, the
wiring of the pod and the model's own schedule go on, and writes posted before have reached the host. -/
def execPowerGood (s : State) : Out :=
  atDevice s
    { (State.reset) with
      agenda := s.agenda, agent := s.agent, rota := s.rota, free := s.free, nextId := s.nextId, draws := s.draws, hostMem := s.hostMem,
      hostDead := s.hostDead, ports := s.ports.map fun (p : Nat × FabricPort) => (p.1, { peer := p.2.peer }),
      signing := { s.signing with index := s.signing.blockEnd },
      board := { package := s.board.package, spares := s.board.spares, powered := true, step := 1 } }

/-- R36 BRING_UP_STEP_DONE: the step in progress ends. A step that fails stops bring-up. -/
def execBringUpStepDone (ok : Bool) (s : State) : Out :=
  atDevice s
    (let b := s.board
     if !b.powered || b.ready || b.failed != 0 then s
     else if !ok then { s with board := { b with failed := b.step } }
     else
       let s := if b.step == 2 then { s with signing := { s.signing with refused := false } } else s
       if b.step == 5 then { s with board := { b with step := 6, mode := 0 } }
       else if b.step < 7 then { s with board := { b with step := b.step + 1 } }
       else ({ s with board := { b with ready := true } } : State).relist)

/-- A change of what the capability list shows, once there is one. -/
def State.showChange (s : State) : State := if s.board.ready then s.relist else s

/-- R36 PCIE_LINK_TRAINED: the endpoint serves the registers and the queue interface from now on. -/
def execPcieLinkTrained (rate width : Nat) (s : State) : Out :=
  atDevice s
    (if !s.board.powered then s else ({ s with board := { s.board with trained := some (rate, width) } } : State).showChange)

/-! ## Clock and modes (R9, R27, R28) -/

/-- R28 THERMAL_LIMIT: the main clock runs `bins` bins of 100 MHz below nominal. -/
def execThermalLimit (bins : Nat) (s : State) : Out :=
  atDevice s
    (let n := min bins (Config.nominalMhz / 100 - 1)
     if n == s.board.bins then s
     else ({ s with board := { s.board with bins := n, throttled := n != 0 } } : State).showChange)

/-- R28 PM_INTERVAL: a mode that was set takes effect. -/
def execPmInterval (s : State) : Out :=
  atDevice s
    (match s.board.pending with
     | none => s
     | some m => ({ s with board := { s.board with mode := m, pending := none } } : State).showChange)

/-- `n` cycles of the main clock pass; the reference timer advances by the time that they take at the clock in force (R9, R430). -/
def State.tick (s : State) (n : Nat) : State :=
  let b := s.board
  let total := b.sub + n * (Config.subUnits / s.mhz)
  { s with board := { b with cycle := b.cycle + n, micros := b.micros + total / Config.subUnits, sub := total % Config.subUnits } }

/-! ## Spares (R34, R445) -/

/-- Whether a spare names a resource of the package (R16, R17, R32). -/
def Spare.exists_ : Spare → Bool
  | .elem k x y => k < 64 && x < 32 && y < 32
  | .core k => k < 64
  | .slice n => n < 256
  | .channel k c => k < 16 && c < 32
  | .port n => n < 96

/-- The launch of a core that uses a lost element or core fails; the precise point names the resource. The status is BLOCKED. -/
def State.loseAt (s : State) (k x y : Nat) : State :=
  s.failCore k { status := stBlocked, detail0 := k * 2 ^ 24 + x * 2 ^ 16 + y * 2 ^ 8, code := fcEccu, score := k, sx := x, sy := y }

/-- A line of a lost slice moves to the spare slice. One that is dirty and cannot be read is poisoned; whether it can be read is a free
value (assumption log 96). -/
def State.loseLine (s : State) (line : Nat) : State :=
  if (Tab.find? s.dirty line).isNone then s.evictLine line
  else
    let (w, s) := s.freeWord 445
    { s.evictLine line with poison := if bit w.toNat 0 then insertSorted line s.poison else s.poison }

/-- The effect of a lost resource (R445). -/
def State.lose (s : State) : Spare → State
  | .elem k x y => if (s.elem k (32 * y + x)).instr.isSome then s.loseAt k x y else s
  | .core k => s.loseAt k 0 0
  | .slice n => ((s.cache.map (·.1)).filter fun l => homeSlice (128 * l) == n).foldl State.loseLine s
  | .channel _ _ =>
    let live (fs : List Nat) : List Nat := fs.filter fun f => !s.frameDead f
    let keep (p : Partition) : Partition := { p with kvFree := live p.kvFree, spillFrames := live p.spillFrames }
    { s with parts := s.parts.map fun (p : Nat × Partition) => (p.1, keep p.2) }
  | .port n => s.onPort n FabricPort.down

/-- R445 RESOURCE_MAP_OUT: the spare map takes the resource, REPLACE is set and GEN advances. -/
def execResourceMapOut (r : Spare) (s : State) : Out :=
  atDevice s
    (if !Spare.exists_ r || s.board.spares.contains r then s
     else (({ s with board := { s.board with spares := s.board.spares ++ [r] } } : State).showChange).lose r)

/-! ## Storage errors (R444) -/

/-- The core whose ECC.CORR counts a corrected error: the one whose SRAM, queues or tiers it lies in, or for a line of a slice the one whose
access met it (assumption log 140). -/
def eccCore : EccSite → Option Nat
  | .scratch k _ | .inputToken k _ _ | .tier1Token k _ _ | .tier2Token k _ | .accRow k _ _ | .slice _ k => some k
  | _ => none

/-- R444 CORRECTED_ERROR: a core's ECC.CORR or Umber counts it, and Umber may set ECCWARN. -/
def execCorrectedError (site : EccSite) (aboveThreshold : Bool) (s : State) : Out :=
  atDevice s
    (let s := match eccCore site with
       | some k => if k < 64 then s.countCore k cntEccCorr else s
       | none => s
     if aboveThreshold && !s.board.eccwarn then ({ s with board := { s.board with eccwarn := true } } : State).showChange else s)

/-- A token record that cannot be read becomes an F token ECCU with D = 1, of the element that holds it (R444). -/
def Token.lost (t : Token) (k : Nat) : Token :=
  { t with val := faultWord fcEccu k (colOf t.elem) (rowOf t.elem) 0, origin := some t.tag, d := true }

/-- Launch failure at a core for a configuration error (R444). -/
def State.configError (s : State) (k e : Nat) : State :=
  s.failCore k { status := stBlocked, detail0 := k * 2 ^ 24 + colOf e * 2 ^ 16 + rowOf e * 2 ^ 8, code := fcBlocked, score := k,
                 sx := colOf e, sy := rowOf e }

/-- R444 UNCORRECTABLE_ERROR. -/
def execUncorrectableError (site : EccSite) (s : State) : Out :=
  atDevice s
    (match site with
     | .line pa | .slice pa _ => if pa < 16 * stackBytes then { s with poison := insertSorted (pa / 128) s.poison } else s
     | .scratch k w => if k < 64 && 4 * w < (s.core k).scrBytes then s.onCore k fun c => { c with poisoned := insertSorted w c.poisoned } else s
     | .accRow k n j => if k < 64 && n < 4 && j < s.accRows k then s.onNode k (28 + n) fun nd =>
         { nd with rows := Tab.modify {} nd.rows j fun r => { r with bad := true } } else s
     | .inputToken k e sl =>
       s.onElem k e fun el =>
         { el with queue := replaceFirst (fun q => q.tok.slot == sl) (fun q => { q with tok := q.tok.lost k }) el.queue }
     | .tier1Token k e i => s.onElem k e fun el => { el with tier1 := el.tier1.modify i fun t => t.lost k }
     | .tier2Token k i => s.onCore k fun c => { c with tier2 := c.tier2.modify i fun t => t.lost k }
     | .elemConfig k e => if (s.elem k e).instr.isSome then s.configError k e else s
     | .handlerTable k n => if (s.node k n).handlers.isEmpty then s else s.configError k (firstAttached n)
     | .seqMemory c => if (s.seq c).imem.isEmpty then s else (s.seqFail c stBadSeq))

/-! ## Registers of BAR0 (R10, R37, R319) -/

/-- FTD0 after a write: HIT is cleared by a one, ARM, JOB and DRANK are stored, the rest reads zero. -/
def ftd0Write (old v : Nat) : Nat :=
  b2n (bit v 31) * 2 ^ 31 + b2n (bit old 30 && !bit v 30) * 2 ^ 30 + bits v 23 0

/-- R10 REGISTER_WRITE: a write to a register without behaviour of its own. Every other offset ignores it. -/
def execRegisterWrite (fn offset : Nat) (value : Word) (s : State) : Out :=
  atDevice s
    (if s.board.trained.isNone || fn != 0 then s
     else if offset == 0x300000 then s.onFn 0 fun f => { f with ftd0 := BitVec.ofNat 32 (ftd0Write f.ftd0.toNat value.toNat) }
     else if offset == 0x300004 then s.onFn 0 fun f => { f with ftd1 := BitVec.ofNat 32 (setBits value.toNat 15 13 0) }
     else s)

/-! ## A host access without a completion (R427) -/

/-- The register of a function as the host reads it, a 32-bit word; an unlisted offset reads zero (R29, R37, R319). -/
def State.bar0 (s : State) (fn offset : Nat) : Word :=
  let b := s.board
  if offset == 0x0000 then BitVec.ofNat 32 (Config.implId * 2 ^ 16)
  else if offset == 0x0010 then BitVec.ofNat 32 s.health
  else if offset == 0x0014 then BitVec.ofNat 32 ((if b.ready then 7 else b.step) * 2 ^ 4 + b.failed)
  else if offset == 0x0020 then BitVec.ofNat 32 (Config.qbase fn)
  else if offset == 0x0024 then BitVec.ofNat 32 (Config.qcount fn)
  else if 0x1000 ≤ offset && offset < 0x5000 && offset % 4 == 0 then (s.capWords fn).getD ((offset - 0x1000) / 4) 0
  else if fn == 0 && offset == 0x300000 then (s.fn 0).ftd0
  else if fn == 0 && offset == 0x300004 then (s.fn 0).ftd1
  else 0

/-- Whether an address translates to host memory. -/
def State.isHostVa (s : State) (asid va : Nat) : Bool := (s.translate none none asid va).1.any (·.host)

/-- Whether a range of a core's element addresses lies in host memory, in part at least. -/
def State.isHostSpot (s : State) (k a n : Nat) : Bool :=
  match (s.checkSpotBy k a n true false fun _ => none).1 with
  | .ok p => p.pieces.any (·.t.host)
  | .error _ => false

/-- Whether the body of a request record lies in host memory (R409, R410). -/
def State.isHostRecord (s : State) (k a : Nat) : Bool := (s.requestLen k a).any fun n => s.isHostSpot k (a + 64) n

/-- Whether an access reads host memory or performs an atomic there. -/
def State.hostRead (s : State) (k : Nat) (x : Access) : Bool :=
  let a := x.opnds.val 0
  let grammar (n : Nat) : Bool := (s.ownSerpent k n).any fun c => s.isHostVa (s.coreAsid k) c.gaddr
  match x.opc with
  | 0x140 | 0x142 | 0x147 | 0x148 => x.region == .hostMem
  | 0x1C0 => s.isHostSpot k a 32
  | 0x1C6 => s.isHostSpot k a 8
  | 0x1C8 => grammar (x.opnds.val 1)
  | 0x1C9 => grammar (bits a 9 0)
  | 0x1CD => s.isHostSpot k a 512
  | 0x1E0 => s.isHostSpot k a 64 || s.isHostRecord k a
  | 0x1E1 => s.isHostSpot k a (bits (x.opnds.val 1) 16 0)
  | _ => false

/-- An element's host access ends in TIMEOUT; whether an atomic was performed is a free value. -/
def State.hostTimeoutAccess (s : State) (k : Nat) (x : Access) : State :=
  let bad : Bad := { code := fcTimeout, detail := 0, va := some x.va }
  if x.opc == 0x147 || x.opc == 0x148 then
    let (w, s) := s.freeWord 427
    let s := if bit w.toNat 0 then { s with hostMem := (s.doAtomic k x).hostMem } else s
    s.fail k x bad
  else s.fail k x bad

/-- A sequencer's host read ends in TIMEOUT: a load or an object fails the launch with SEQFAULT, a descriptor with BADSTREAM, an image
with BADIMAGE. -/
def State.hostTimeoutSeq (s : State) (c : Nat) (l : Launch) : State :=
  let q := s.seq c
  let fault (va : Nat) : State := if s.isHostVa l.asid va then s.seqFault c fcTimeout va else s
  match q.mode, q.waitFor with
  | .wait, .cwait a _ => fault a
  | .run, _ =>
    match decodeSeq (Tab.get 0 q.imem (q.pc / 4)) with
    | .ok (.seqLd _ _ xa imm) | .ok (.seqLw _ _ xa imm) => fault (seqAddr q xa imm)
    | .ok (.cwait _ xa _) | .ok (.cosigAdd _ xa _) => fault (q.reg xa).toNat
    | .ok (.sbind _ xa _ _) => if s.isHostVa l.asid (q.reg xa).toNat then s.seqFail c stBadStream else s
    | .ok (.bpush _ xa) => if s.isHostVa l.asid (q.reg xa).toNat then s.seqStop c (badImage (q.reg xa).toNat) else s
    | _ => s
  | _, _ => s

/-- R427 HOST_COMPLETION_TIMEOUT: a read or an atomic of host memory by an element, a stream, a sequencer, a loader or a matrix node gets
no completion. -/
def execHostCompletionTimeout (s : State) : Out :=
  match s.agent with
  | .access k id => .next (
    match (s.core k).access? id with
    | some x => if s.hostRead k x && x.stage == .ready && (s.core k).mayPerform x && s.accessRuns k x then s.hostTimeoutAccess k x else s
    | none => s)
  | .ap c a => .next (
    let x := (s.seq c).ap a
    match s.seqLaunch c with
    | some (_, l) =>
      if l.st == .running && x.st == .running && !x.parked && x.descr.src == 0 && s.isHostVa l.asid (x.descr.addr x.pos) then
        s.streamFault c a (4 * c + x.port / 16) l x fcTimeout 0
      else s
    | none => s)
  | .seq c => .next (
    match s.seqLaunch c with
    | some (_, l) => if l.st == .running then s.hostTimeoutSeq c l else s
    | none => s)
  | .loader c => .next (
    match s.seqLaunch c with
    | some (_, l) =>
      let q := s.seq c
      if l.st == .running && !q.chainEnded && q.chainNext != 0 && s.isHostVa l.asid q.chainNext then s.seqStop c (badAddr q.chainNext)
      else s
    | none => s)
  | .node k n => .next (
    match s.issuing k n with
    | some r =>
      match r.cmds.head? with
      | some (.mwLoad _ _ b i) =>
        match s.opRecord k i.toNat, s.coreLaunch k with
        | (some rc, _), some (_, l) =>
          if s.isHostVa l.asid rc.cbase then s.loadFails k n b r.task fcTimeout 0 (some rc.cbase) else s
        | _, _ => s
      | _ => s
    | none => s)
  | _ => .fault .wrongAgent

end Sys2Proof.Machine
end

