-- ==== Sys2Proof/Machine/Conv.lean ====
section
/-! DEFINITION. The converter nodes' commands (R147, R220 to R223). -/

namespace Sys2Proof.Machine

open Sys2Proof

/-- The elements of a source vector, unpacked little-endian (R140, R220). -/
def unpackElems (f : Fmt) (ps : List Wide) : List Nat :=
  ps.flatMap fun p => p.all.flatMap fun w => lanes (fmtBits f) w.toNat

/-- Elements packed in wide packets, zero above the output (R140, R220). -/
def packElems (f : Fmt) (xs : List Nat) : List (List Word) :=
  let ws := (chunks (32 / fmtBits f) xs.length xs).map fun c => BitVec.ofNat 32 (ofLanes (fmtBits f) c)
  chunks 64 ws.length ws

/-- Packets of an output of `n` elements (R220). -/
def packetsOf (f : Fmt) (n : Nat) : Nat := (n * fmtBits f + 2047) / 2048

/-- Range of an integer format (R141). -/
def fmtRange (f : Fmt) : Int × Int := if f == .s8 then (-128, 127) else (-(2 ^ 31 : Nat), 2 ^ 31 - 1)

/-- One element under `cvf` (R144 to R146, R153, R221): the code, or the DETAIL of its ARITH fault. -/
def cvfElem (src dst : Fmt) (mode : RMode) (x : Nat) : Except Nat Nat :=
  let w := fmtBits dst
  match fmtFloat src, fmtFloat dst with
  | some k, some d =>
    if dst == .e2m1 && isNan k x then .error 0x20 else .ok (fconvert k d mode x)
  | some k, none =>
    match ftoInt k mode (fmtRange dst).1 (fmtRange dst).2 x with
    | some v => .ok (wrap v w)
    | none => .error 0x20
  | none, some d => .ok (fofInt d mode (signExt x (fmtBits src)))
  | none, none => .ok (wrap (sat (signExt x (fmtBits src)) (fmtRange dst).1 (fmtRange dst).2) w)

/-- Quantisation of one element (R147). -/
def quantise (k : FFmt) (b : Nat) (mode : RMode) (e : Word) (x : Nat) : Except Nat Nat :=
  let z : Int := (bits e.toNat 23 16 : Nat)
  let top : Int := ((2 ^ b : Nat) : Int) - 1
  match fdecode fp16 (e.toNat % 2 ^ 16), fdecode k x with
  | .fin s m x₀, .fin s' m' x' =>
    let q := roundQuot mode (s != s') m' m (x' - x₀)
    .ok (sat ((if s != s' then -(q : Int) else (q : Int)) + z) 0 top).toNat
  | .fin s _ _, .inf s' => .ok (if s != s' then 0 else top.toNat)
  | _, .nan _ _ => .error 0x20
  | _, _ => .error 0x21

/-- Dequantisation of one code, rounded to a format (R147). -/
def dequantise (d : FFmt) (mode : RMode) (e : Word) (q : Nat) : Except Nat Nat :=
  match dequantised q e with
  | .fin s m x => .ok (fround d mode s m x false)
  | _ => .error 0x21

/-- All elements, or the code of the first that has no value (R223). -/
def convertAll (f : Nat → Nat → Except Nat Nat) : Nat → List Nat → Except Nat (List Nat)
  | _, [] => .ok []
  | i, x :: xs =>
    match f i x with
    | .error d => .error d
    | .ok y => match convertAll f (i + 1) xs with
      | .error d => .error d
      | .ok ys => .ok (y :: ys)

/-- The packets of a converter task's read set in port order, with the value of a port that the task holds no packet of left open
(R220; assumption log 17). -/
def convSource (r : Running) (free : Nat) : List Wide :=
  r.reads.map fun p => match r.task.packets.find? fun x => x.1 == p with
    | some x => x.2
    | none => { lanes := (List.range 64).map fun i => Config.freeWord 31 (256 * free + 64 * p + i) }

/-- Emit the packets of a converter command on port a, 8 cycles after issue (R220); F packets in place of all of them where some element
has no value (R223). -/
def State.emitConv (s : State) (k n : Nat) (r : Running) (dst : Fmt) (count : Nat) (d : Bool)
    (res : Except (Nat × Nat) (List Nat)) : State :=
  let out (s : State) (w : Wide) : State := s.emitPort k n 0 (s.now + 8) w
  match res with
  | .ok xs => (packElems dst xs).foldl (fun s ws => out s { lanes := ws, tag := r.task.tag, d := d }) s
  | .error (code, detail) =>
    (List.range (packetsOf dst count)).foldl (fun s _ => out s (wideFault (nodeWord k n code detail) r.task.tag r.task.tag d)) s

/-- Run a converter command. -/
def convCmd (s : State) (act : State → Nat → Nat → Running → List Wide → State) : Out :=
  atNodeKind s .conv fun k n =>
    match s.issuing k n with
    | none => s
    | some r => act { s with free := s.free + 1 } k n r (convSource r s.free)

/-- The rounding mode of bit 17 (R152). -/
def convMode (rto : Bool) : RMode := if rto then .rto else .rne

/-- R221 `cvf`. -/
def execCvf (src dst : Fmt) (rto : Bool) (s : State) : Out :=
  convCmd s fun s k n r ps =>
    let xs := unpackElems src ps
    let res := convertAll (fun _ x => cvfElem src dst (convMode rto) x) 0 xs
    (s.emitConv k n r dst xs.length (ps.any (·.d)) (match res with | .ok ys => .ok ys | .error e => .error (fcArith, e))).advance k n

/-- The commands that read the entries of a tile; an invalid entry gives no value for its group (R150, R221). -/
def convGroups (c : CvArgs) (s : State) (f : Word → Nat → Except Nat Nat) (codeFmt : Fmt) : Out :=
  convCmd s fun s k n r ps =>
    let xs := unpackElems c.s ps
    let t := (s.core k).tile c.tile.toNat
    let g := 32 * 2 ^ c.grp.toNat
    let dAll := ps.any (·.d)
    match (s.core k).tileAccess c.tile.toNat 0 1 true with
    | .wait => s
    | .bad code detail => (s.emitConv k n r c.d xs.length (dAll || t.dmark) (.error (code, detail))).advance k n
    | .go =>
      let es := wordsOfBytes ((s.core k).scrRead t.firstByte 256)
      let one (i x : Nat) : Except Nat Nat :=
        let e := es.getD (i / g) 0
        if entryBad codeFmt e then .error 0x21 else f e x
      let res := convertAll one 0 xs
      (s.emitConv k n r c.d xs.length (dAll || t.dmark)
        (match res with | .ok ys => .ok ys | .error e => .error (fcArith, e))).advance k n

/-- R221 `cvq`. -/
def execCvq (c : CvArgs) (s : State) : Out :=
  convGroups c s (fun e x => match fmtFloat c.s with
    | some k => quantise k (fmtBits c.d) (convMode c.rto) e x
    | none => .error 0x20) c.d

/-- R221 `cvdq`. -/
def execCvdq (c : CvArgs) (s : State) : Out :=
  convGroups c s (fun e q => match fmtFloat c.d with
    | some k => dequantise k (convMode c.rto) e q
    | none => .error 0x21) c.s

end Sys2Proof.Machine
end

