-- ==== Sys2Proof/Machine/ElemFloat.lean ====
section
/-! DEFINITION. The float instructions of the elements (R169 to R176) and `smerge` (R227). -/

namespace Sys2Proof.Machine

open Sys2Proof

/-- Rounding of `fcvt` (R174). -/
def cvtMode (imm : Nat) : RMode := if imm == 0 then .rne else if imm == 1 then .rto else .rtz

/-- Rounding of `frnd` (R175). -/
def frndMode (cond : Nat) : RMode := if cond == 0 then .rne else if cond == 1 then .rtz else if cond == 2 then .down else .up

/-- Range of an integer destination (R146, R174). -/
def cvtRange (cond : Nat) : Int × Int := if cond == 3 then (-(2 ^ 31 : Nat), 2 ^ 31 - 1) else (0, 2 ^ 32 - 1)

/-- The formats of `fcvt` by destination code (R174). -/
def cvtFormat (cond : Nat) : FFmt := if cond == 0 then fp32 else if cond == 1 then bf16 else fp16

/-- `fcvt` (R174): none where a NaN meets an integer destination. -/
def convert (ty : ElemType) (cond imm x : Nat) : Option Nat :=
  let mode := cvtMode imm
  match ty with
  | .s32 => some (fofInt (cvtFormat cond) mode (signExt x 32))
  | .n32 => some (fofInt (cvtFormat cond) mode (x : Int))
  | _ =>
    let (k, w) := floatLanes ty
    if 3 ≤ cond then
      let (lo, hi) := cvtRange cond
      (ftoInt k mode lo hi (x % 2 ^ w)).map fun v => wrap v 32
    else if w == 16 && 1 ≤ cond then some (ofLanes 16 ((lanes 16 x).map (fconvert k (cvtFormat cond) mode)))
    else some (fconvert k (cvtFormat cond) mode (x % 2 ^ w))

/-- R169 `fadd`. -/
def execFadd (a : ElemArgs) (s : State) : Out := issueVal s a true 3 fun o => float2 a.ty fadd (o.val 0) (o.val 1)
/-- R169 `fsub`. -/
def execFsub (a : ElemArgs) (s : State) : Out := issueVal s a true 3 fun o => float2 a.ty fsub (o.val 0) (o.val 1)
/-- R169 `fmul`. -/
def execFmul (a : ElemArgs) (s : State) : Out := issueVal s a true 3 fun o => float2 a.ty fmul (o.val 0) (o.val 1)
/-- R169 `fma`. -/
def execFma (a : ElemArgs) (s : State) : Out := issueVal s a true 4 fun o => float3 a.ty ffma (o.val 0) (o.val 1) (o.val 2)
/-- R170 `fmin`. -/
def execFmin (a : ElemArgs) (s : State) : Out := issueVal s a true 1 fun o => float2 a.ty fmin (o.val 0) (o.val 1)
/-- R170 `fmax`. -/
def execFmax (a : ElemArgs) (s : State) : Out := issueVal s a true 1 fun o => float2 a.ty fmax (o.val 0) (o.val 1)
/-- R171 `fsgn`. -/
def execFsgn (a : ElemArgs) (s : State) : Out :=
  issueVal s a true 1 fun o => float2 a.ty (fun k => fsgn k a.cond.toNat) (o.val 0) (o.val 1)
/-- R172 `fcmp`. -/
def execFcmp (a : ElemArgs) (s : State) : Out := issueVal s a true 1 fun o => fcmpLanes a.ty a.cond.toNat (o.val 0) (o.val 1)
/-- R173 `frcp`. -/
def execFrcp (a : ElemArgs) (s : State) : Out := issueVal s a true 4 fun o => float1 a.ty frcp (o.val 0)
/-- R173 `frsq`. -/
def execFrsq (a : ElemArgs) (s : State) : Out := issueVal s a true 4 fun o => float1 a.ty frsq (o.val 0)
/-- R173 `fex2`. -/
def execFex2 (a : ElemArgs) (s : State) : Out := issueVal s a true 4 fun o => float1 a.ty fex2 (o.val 0)
/-- R173 `flg2`. -/
def execFlg2 (a : ElemArgs) (s : State) : Out := issueVal s a true 4 fun o => float1 a.ty flg2 (o.val 0)
/-- R174 `fcvt`. -/
def execFcvt (a : ElemArgs) (s : State) : Out :=
  issuePure s a true 2 fun o =>
    match convert a.ty a.cond.toNat a.imm.toNat (o.val 0) with
    | some v => yieldAll a o v o.dAll
    | none => .fault fcArith 0x20
/-- R175 `frnd`. -/
def execFrnd (a : ElemArgs) (s : State) : Out :=
  issueVal s a true 2 fun o => float1 a.ty (fun k => frnd k (frndMode a.cond.toNat)) (o.val 0)
/-- R176 `fclass`. -/
def execFclass (a : ElemArgs) (s : State) : Out := issueVal s a true 1 fun o => float1 a.ty fclass (o.val 0)

/-- `smerge` (R227): the winning value, its index and the status. -/
def mergeCandidates (a b c d : Nat) : Nat × Nat × Nat :=
  let none_ := 0xFFFFFFFF
  if isNan fp32 a || isNan fp32 c then (0x7FC00000, none_, 2)
  else if b == none_ && d == none_ then (0xFF800000, none_, 1)
  else if b == none_ then (c, d, 0)
  else if d == none_ then (a, b, 0)
  else if fkey fp32 c < fkey fp32 a || (fkey fp32 a == fkey fp32 c && b < d) then (a, b, 0)
  else (c, d, 0)

/-- R227 `smerge`. -/
def execSmerge (a : ElemArgs) (s : State) : Out :=
  issuePure s a true 1 fun o =>
    let (v, i, st) := mergeCandidates (o.val 0) (o.val 1) (o.val 2) (o.val 3)
    .emit [some (BitVec.ofNat 32 v), some (BitVec.ofNat 32 i), some (BitVec.ofNat 32 st)] (tagApply a.tagOp o.tag) o.dAll false true

end Sys2Proof.Machine
end

