-- ==== Sys2Proof/Machine/ElemFlow.lean ====
section
/-! DEFINITION. The dataflow control and tag instructions of the elements (R177 to R188, R330). -/

namespace Sys2Proof.Machine

open Sys2Proof

/-! ## Functions -/

/-- The arity that the fields give (R79). -/
def arityOf (a : ElemArgs) : Nat := a.arity.toNat + 1

/-- The value that `tagget` reads (R185). -/
def tagField (imm : Nat) (t : Tag) : Nat :=
  if imm == 0xC0 then ctxOf t
  else if imm == 0xD0 then depthOf t
  else let (o, w) := levelSelector imm; tagLevel t o w

/-- What `tagset` makes of a tag: a DETAIL of ARITH, or the tag before F5 (R186). -/
def tagReplace (imm : Nat) (t : Tag) (b : Nat) : Except Nat Tag :=
  let (o, w) := levelSelector imm
  if depthOf t == 0 then .error 0x02
  else if 2 ^ widthOf w ≤ b then .error 0x03
  else .ok (tagSetLevel t o w b)

/-- The tag that `call` gives its results (R187). -/
def callTag (op : TagOp) (t : Tag) (site : Nat) : Except Nat Tag :=
  match tagApply op t with
  | .error d => .error d
  | .ok t2 =>
    match tagOpLevel op with
    | none => .ok t2
    | some (o, w) => if 2 ^ widthOf w ≤ site then .error 0x03 else .ok (tagSetLevel t2 o w site)

/-- The level of the window on a tag: the highest of its block's level table that the tag's depth admits (assumption log 13). -/
def windowLevel (levels : List (Nat × Nat)) (t : Tag) : Option (Nat × Nat) := (levels.take (depthOf t)).getLast?

/-- Whether tier 3 holds a token of an earlier holder of a tag for another element (R330). -/
def Core.windowHeld (c : Core) (e : Nat) (t : Tag) : Bool :=
  match windowLevel (c.frame (c.elem e).frame).levels t with
  | none => false
  | some (o, w) =>
    let same (x : Token) : Bool :=
      ctxOf x.tag == ctxOf t && depthOf x.tag == depthOf t && x.tag.toNat % 2 ^ (o + w) == t.toNat % 2 ^ (o + w)
    (c.tier3.any fun x => x.elem != e && same x) ||
    (c.arrival.any fun h => h.spilled && (match h.dest with | .elem e' _ => e' != e | _ => true) && same h.tok)

/-- A payload for the target of a number, and none for the others. -/
def onlyTarget (i : Nat) (v : Word) : List (Option Word) := [1, 2, 3].map fun j => if j == i then some v else none

/-! ## Meanings -/

/-- R178 `steer`: an F token in the value slot alone goes where the predicate sends it (R177). -/
def execSteer (a : ElemArgs) (s : State) : Out :=
  issueWith s a false 1 fun s sh o =>
    if o.f 1 then s.forwardSlot sh o (if o.f 0 then 0 else 1) o.dAll false
    else if o.f 0 then s.forwardSlot sh o 0 o.dAll true
    else s.yield sh o (yieldAll a o (o.val 0) o.dAll)

/-- R179 `select`: b where the predicate is true, c where it is false; the unchosen operand vanishes (R177). With an F token in the predicate
slot nothing is chosen, and the D bits of all three count (R53; assumption log 113). -/
def execSelect (a : ElemArgs) (s : State) : Out :=
  issueWith s a false 1 fun s sh o =>
    let i := if predicate a o then 1 else 2
    let d := o.d 0 || o.d i
    if o.f 0 then s.forwardSlot sh o 0 o.dAll false
    else if o.f i then s.forwardSlot sh o i d false
    else s.yield sh o (yieldAll a o (o.val i) d)

/-- R180 `gate`: a's payload where the predicate is true, else nothing (R177). -/
def execGate (a : ElemArgs) (s : State) : Out :=
  issueWith s a false 1 fun s sh o =>
    if o.f 1 then s.forwardSlot sh o (if o.f 0 then 0 else 1) o.dAll false
    else if !predicate a o then s
    else if o.f 0 then s.forwardSlot sh o 0 o.dAll false
    else s.yield sh o (yieldAll a o (o.val 0) o.dAll)

/-- R181 `merge`: the payload of the one token that fired it, with that token's D bit. -/
def execMerge (a : ElemArgs) (s : State) : Out :=
  issuePure s a false 1 fun o =>
    let i := ([0, 1, 2, 3].find? fun i => (o.toks.getD i none).isSome).getD 0
    yieldAll a o (o.val i) (o.d i)

/-- R182 `copy`. -/
def execCopy (a : ElemArgs) (s : State) : Out := issueVal s a false 1 fun o => o.val 0

/-- R182 `sink`: the token is consumed, an F token too (R177). -/
def execSink (a : ElemArgs) (s : State) : Out := issueWith s a false 1 fun s _ _ => s

/-- R182 `purge`: a's payload; F0 gives it the action PURGE. -/
def execPurge (a : ElemArgs) (s : State) : Out := issueVal s a false 1 fun o => o.val 0

/-- Whether the set that an element would issue must wait for an earlier holder of its tag in tier 3 (R330). -/
def State.windowStalls (s : State) : Bool :=
  match s.agent with
  | .elem k e => match s.issuable k e with | some (x, _) => (s.core k).windowHeld e x.tag | none => false
  | _ => false

/-- R183 `window`: a's payload, held back while tier 3 holds an earlier holder of its tag (R330). -/
def execWindow (a : ElemArgs) (s : State) : Out :=
  if s.windowStalls then atElem s fun _ _ => s else issueVal s a false 1 fun o => o.val 0

/-- R184 `enter`. -/
def execEnter (a : ElemArgs) (s : State) : Out := issueVal s a false 1 fun o => o.val 0
/-- R184 `next`. -/
def execNext (a : ElemArgs) (s : State) : Out := issueVal s a false 1 fun o => o.val 0
/-- R184 `leave`. -/
def execLeave (a : ElemArgs) (s : State) : Out := issueVal s a false 1 fun o => o.val 0

/-- R185 `tagget`. -/
def execTagget (a : ElemArgs) (s : State) : Out :=
  issuePure s a false 1 fun o => yieldAll a o (tagField a.imm.toNat o.tag) (o.d 0)

/-- R186 `tagset`: the tags it makes are fabricated (R331). -/
def execTagset (a : ElemArgs) (s : State) : Out :=
  issuePure s a false 1 fun o =>
    let v := BitVec.ofNat 32 (o.val 0)
    let tag := match tagReplace a.imm.toNat o.tag (o.val 1) with
      | .error d => .error d
      | .ok t => tagApply a.tagOp t
    .emit [some v, some v, some v] tag o.dAll true true

/-- R187 `call`: each operand but the last goes to its own target under a fresh level that holds the call site. -/
def execCall (a : ElemArgs) (s : State) : Out :=
  issuePure s a false 1 fun o =>
    let n := arityOf a
    let v (i : Nat) : Word := BitVec.ofNat 32 (o.val i)
    let vals : List (Option Word) :=
      if n == 1 then [some (v 0), some (v 0), some (v 0)] else [0, 1, 2].map fun i => if i + 1 < n then some (v i) else none
    .emit vals (callTag a.tagOp o.tag (o.val (n - 1))) o.dAll false true

/-- R188 `ret`: a's payload to the target that the popped call site names; WHEN is not read. -/
def execRet (a : ElemArgs) (s : State) : Out :=
  issuePure s a false 1 fun o =>
    if depthOf o.tag == 0 then .fault fcArith 0x02
    else
      let site := match tagOpLevel a.tagOp with | some (f, w) => tagLevel o.tag f w | none => 0
      let bad := 2 < site || (targetsOf a).any fun it => it.1 == site + 1 && Target.isNil it.2
      if bad then .fault fcArith 0x05
      else .emit (onlyTarget (site + 1) (BitVec.ofNat 32 (o.val 0))) (tagApply a.tagOp o.tag) o.dAll false false

end Sys2Proof.Machine
end

