-- ==== Sys2Proof/Machine/ElemInt.lean ====
section
/-! DEFINITION. The integer, address and state-register instructions of the elements (R161 to R168). -/

namespace Sys2Proof.Machine

open Sys2Proof

/-! ## Functions -/

/-- Lower and upper bound of a lane (R162). -/
def laneRange (ty : ElemType) : Int × Int :=
  let (w, sg) := intLanes ty
  if sg then (-(2 ^ (w - 1) : Nat), (2 ^ (w - 1) : Nat) - 1) else (0, (2 ^ w : Nat) - 1)

/-- Shift amount of R161: the lane of b, read unsigned, modulo w. -/
def shiftLanes (ty : ElemType) (f : Nat → Nat → Nat → Nat) (x y : Nat) : Nat := lane2 ty (fun w a b => f w a (b % w)) x y

/-- Logical left shift of a lane (R161). -/
def laneShl (_ x n : Nat) : Nat := x * 2 ^ n
/-- Logical right shift of a lane (R161). -/
def laneShr (_ x n : Nat) : Nat := x / 2 ^ n
/-- Arithmetic right shift of a lane (R161). -/
def laneSra (w x n : Nat) : Nat := wrap (signExt x w / (2 ^ n : Nat)) w

/-- Rotate a 32-bit word left (R161). -/
def rotl32 (x n : Nat) : Nat := (x * 2 ^ n + x / 2 ^ (32 - n)) % 2 ^ 32

/-- Quotient and remainder of R163. -/
def divide (ty : ElemType) (x y : Nat) : Int × Int :=
  if ty == .s32 then (Int.tdiv (signExt x 32) (signExt y 32), Int.tmod (signExt x 32) (signExt y 32))
  else (((x / y : Nat) : Int), ((x % y : Nat) : Int))

/-- `bfx` (R165). -/
def bitExtract (ty : ElemType) (a b c : Nat) : Nat :=
  let pos := b % 32
  let len := min (c % 64) (32 - pos)
  if len == 0 then 0
  else
    let f := (a >>> pos) % 2 ^ len
    if ty == .s32 then wrap (signExt f len) 32 else f

/-- `bfi` (R165). -/
def bitInsert (a b c d : Nat) : Nat :=
  let pos := c % 32
  let len := min (d % 64) (32 - pos)
  if len == 0 then a else setBits a (pos + len - 1) pos b

/-- A byte of `perm` (R167). -/
def permByte (a s : Nat) : Nat :=
  if s < 4 then bits a (8 * s + 7) (8 * s)
  else if s < 8 then 0
  else if s < 12 then (if bit a (8 * (s - 8) + 7) then 0xFF else 0)
  else 0xFF

/-- `perm` (R167). -/
def permute (a b : Nat) : Nat := ofLanes 8 ((List.range 4).map fun i => permByte a (bits b (4 * i + 3) (4 * i)))

/-- `ext` (R164). -/
def extend (ty : ElemType) (cond a : Nat) : Nat :=
  let n := if cond == 0 then 8 else 16
  if ty == .s32 then wrap (signExt a n) 32 else a % 2 ^ n

/-! ## Meanings -/

/-- R167 `const`: the immediate, on each trigger. -/
def execConst (a : ElemArgs) (s : State) : Out := issueVal s a true 1 fun _ => immValue a true
/-- R161 `add`. -/
def execAdd (a : ElemArgs) (s : State) : Out := issueVal s a true 1 fun o => int2 a.ty (· + ·) (o.val 0) (o.val 1)
/-- R161 `sub`. -/
def execSub (a : ElemArgs) (s : State) : Out := issueVal s a true 1 fun o => int2 a.ty (· - ·) (o.val 0) (o.val 1)
/-- R162 `addsat`. -/
def execAddsat (a : ElemArgs) (s : State) : Out :=
  issueVal s a true 1 fun o => int2 a.ty (fun x y => sat (x + y) (laneRange a.ty).1 (laneRange a.ty).2) (o.val 0) (o.val 1)
/-- R162 `subsat`. -/
def execSubsat (a : ElemArgs) (s : State) : Out :=
  issueVal s a true 1 fun o => int2 a.ty (fun x y => sat (x - y) (laneRange a.ty).1 (laneRange a.ty).2) (o.val 0) (o.val 1)
/-- R161 `mul`. -/
def execMul (a : ElemArgs) (s : State) : Out := issueVal s a true 3 fun o => int2 a.ty (· * ·) (o.val 0) (o.val 1)
/-- R161 `mulh`. -/
def execMulh (a : ElemArgs) (s : State) : Out :=
  issueVal s a true 3 fun o => int2 a.ty (fun x y => x * y / (2 ^ (intLanes a.ty).1 : Nat)) (o.val 0) (o.val 1)
/-- R161 `mad`. -/
def execMad (a : ElemArgs) (s : State) : Out :=
  issueVal s a true 4 fun o => int2 a.ty (· + ·) (int2 a.ty (· * ·) (o.val 0) (o.val 1)) (o.val 2)
/-- R163 `div`. -/
def execDiv (a : ElemArgs) (s : State) : Out :=
  issuePure s a true 4 fun o =>
    if o.val 1 == 0 then .fault fcArith 0x10 else yieldAll a o (wrap (divide a.ty (o.val 0) (o.val 1)).1 32) o.dAll
/-- R163 `rem`. -/
def execRem (a : ElemArgs) (s : State) : Out :=
  issuePure s a true 4 fun o =>
    if o.val 1 == 0 then .fault fcArith 0x10 else yieldAll a o (wrap (divide a.ty (o.val 0) (o.val 1)).2 32) o.dAll
/-- R161 `and`. -/
def execAnd (a : ElemArgs) (s : State) : Out := issueVal s a true 1 fun o => o.val 0 &&& o.val 1
/-- R161 `or`. -/
def execOr (a : ElemArgs) (s : State) : Out := issueVal s a true 1 fun o => o.val 0 ||| o.val 1
/-- R161 `xor`. -/
def execXor (a : ElemArgs) (s : State) : Out := issueVal s a true 1 fun o => o.val 0 ^^^ o.val 1
/-- R161 `andn`. -/
def execAndn (a : ElemArgs) (s : State) : Out := issueVal s a true 1 fun o => o.val 0 &&& (o.val 1 ^^^ 0xFFFFFFFF)
/-- R161 `shl`. -/
def execShl (a : ElemArgs) (s : State) : Out := issueVal s a true 1 fun o => shiftLanes a.ty laneShl (o.val 0) (o.val 1)
/-- R161 `shr`. -/
def execShr (a : ElemArgs) (s : State) : Out := issueVal s a true 1 fun o => shiftLanes a.ty laneShr (o.val 0) (o.val 1)
/-- R161 `sra`. -/
def execSra (a : ElemArgs) (s : State) : Out := issueVal s a true 1 fun o => shiftLanes a.ty laneSra (o.val 0) (o.val 1)
/-- R161 `rot`. -/
def execRot (a : ElemArgs) (s : State) : Out := issueVal s a true 1 fun o => rotl32 (o.val 0) (o.val 1 % 32)
/-- R161 `min`. -/
def execMin (a : ElemArgs) (s : State) : Out :=
  issueVal s a true 1 fun o => int2 a.ty (fun x y => if x ≤ y then x else y) (o.val 0) (o.val 1)
/-- R161 `max`. -/
def execMax (a : ElemArgs) (s : State) : Out :=
  issueVal s a true 1 fun o => int2 a.ty (fun x y => if x ≤ y then y else x) (o.val 0) (o.val 1)
/-- R164 `abs`: the most negative lane stays. -/
def execAbs (a : ElemArgs) (s : State) : Out :=
  issueVal s a true 1 fun o => ofLaneInts a.ty ((laneInts a.ty (o.val 0)).map fun x => ((Int.natAbs x : Nat) : Int))
/-- R164 `clz`. -/
def execClz (a : ElemArgs) (s : State) : Out := issueVal s a true 1 fun o => clz (o.val 0) 32
/-- R164 `popc`. -/
def execPopc (a : ElemArgs) (s : State) : Out := issueVal s a true 1 fun o => popCount (o.val 0) 32
/-- R165 `bfx`. -/
def execBfx (a : ElemArgs) (s : State) : Out := issueVal s a true 2 fun o => bitExtract a.ty (o.val 0) (o.val 1) (o.val 2)
/-- R165 `bfi`. -/
def execBfi (a : ElemArgs) (s : State) : Out :=
  issueVal s a true 2 fun o => bitInsert (o.val 0) (o.val 1) (o.val 2) (o.val 3)
/-- R166 `cmp`. -/
def execCmp (a : ElemArgs) (s : State) : Out := issueVal s a true 1 fun o => cmpLanes a.ty a.cond.toNat (o.val 0) (o.val 1)
/-- R167 `lea`. -/
def execLea (a : ElemArgs) (s : State) : Out := issueVal s a true 1 fun o => o.val 0 + o.val 1 * 2 ^ (o.val 2 % 32)
/-- R164 `ext`. -/
def execExt (a : ElemArgs) (s : State) : Out := issueVal s a true 1 fun o => extend a.ty a.cond.toNat (o.val 0)
/-- R167 `perm`. -/
def execPerm (a : ElemArgs) (s : State) : Out := issueVal s a true 1 fun o => permute (o.val 0) (o.val 1)

/-- Write the state register and its D bit (R55). -/
def State.setS (s : State) (k e : Nat) (v : Word) (d : Bool) : State := s.onElem k e fun el => { el with s := v, sd := d }

/-- R168 `sacc`. -/
def execSacc (a : ElemArgs) (s : State) : Out :=
  issueOp s a true 3 fun s sh o =>
    let el := s.elem sh.k sh.e
    let v := if a.ty == .f32 then fadd fp32 el.s.toNat (o.val 0) else (el.s.toNat + o.val 0) % 2 ^ 32
    let d := el.sd || o.d 0
    (s.setS sh.k sh.e (BitVec.ofNat 32 v) d).yield sh o (yieldAll a o v d)

/-- R168 `sswap`. -/
def execSswap (a : ElemArgs) (s : State) : Out :=
  issueOp s a true 1 fun s sh o =>
    let el := s.elem sh.k sh.e
    (s.setS sh.k sh.e (BitVec.ofNat 32 (o.val 0)) (o.d 0)).yield sh o (yieldAll a o el.s.toNat el.sd)

/-- R168 `scount`: on every Nth firing, N in F4. -/
def execScount (a : ElemArgs) (s : State) : Out :=
  issueOp s a true 1 fun s sh o =>
    let el := s.elem sh.k sh.e
    let v := el.s + 1
    let d := el.sd || o.d 0
    if a.imm.toNat ≤ v.toNat then (s.setS sh.k sh.e 0 false).yield sh o (yieldAll a o (o.val 0) d)
    else s.setS sh.k sh.e v d

end Sys2Proof.Machine
end

