-- ==== Sys2Proof/Machine/FabricIn.lean ====
section
/-! DEFINITION. What a package does with packets that arrive: acceptance (R391, R418), the receiver's records (R297 to R300), remote loads
and atomics at their destination (R301, R302), and reduction windows at their home (R303 to R306). -/

namespace Sys2Proof.Machine

open Sys2Proof

/-! ## Acceptance (R391, R418) -/

/-- The policy digest of a live domain of this package. -/
def State.localDigest (s : State) (part sdom : Nat) : Option (List Byte) :=
  match Tab.find? (s.part part).domains sdom with
  | some d => if d.live then some d.digest else none
  | none => none

/-- The DETAIL of a packet's refusal at a port, or none where it is accepted (R391, R418). Its source package is the one that the port's
link leads to (assumption log 129). -/
def State.refusal (s : State) (n : Nat) (p : Packet) : Option Nat :=
  let known := match Tab.find? s.jobs p.job.toNat with
    | none => false
    | some j =>
      j.owner == p.dpart.toNat &&
      (match s.rankOf p.job.toNat p.drank.toNat with
        | some e => e.package == s.board.package && e.part == p.dpart.toNat
        | none => false) &&
      (match s.rankOf p.job.toNat p.srank.toNat with
        | some e => e.package == (s.port n).peer && e.part == p.spart.toNat
        | none => false)
  let peer := (s.port n).peerDomains.find? fun x => x.1 == p.spart.toNat && x.2.1 == p.sdom.toNat
  if !known then some 0x74
  else if !p.d then none
  else if !s.portCarries true n then some 0x74
  else match peer, s.localDigest p.dpart.toNat p.sdom.toNat with
    | some x, some d => if x.2.2 == d then none else some 0x75
    | _, _ => some 0x75

/-- Whether a packet that came in a microsecond is not yet to be discarded for its age (R297). -/
def State.inTime (s : State) (t : Nat) : Bool := s.board.micros ≤ t + 1000

/-- Take the packet that has arrived first at a port, if it is of the type given. One that the port has held for more than 1 ms is
discarded (R297). A refused one is counted, and an OPEN or a request is answered with a fault word (R391). -/
def atPacket (s : State) (ptype : Nat) (act : State → Packet → State) : Out :=
  atPort s fun n =>
    match (s.port n).hold, (s.port n).arrived with
    | false, (t, p) :: rest =>
      if p.ptype.toNat != ptype then s
      else
        let s := s.onPort n fun x => { x with arrived := rest }
        if !s.inTime t then s
        else match s.refusal n p with
        | none => act s p
        | some detail =>
          let s := s.countPart p.dpart.toNat cntNoJob
          let no (s : State) (t : Nat) : State := let (q, s) := s.refuse p t fcProt detail; s.transmit (2 ^ n) q
          if ptype == 0x02 then no s 0x07 else if ptype == 0x08 then no s 0x09 else if ptype == 0x0A then no s 0x0B else s
    | _, _ => s

/-- The address space of accesses that arrive for a job (R286). -/
def State.jobAsid (s : State) (p : Packet) : Nat := match (s.job p.job.toNat).own with | some o => o.2 | none => 0

/-- Whether a translation leaves the stacks of the partition that owns a packet's job (R380, R391). -/
def State.strays (s : State) (p : Packet) (q : Piece) : Bool :=
  !q.t.host && !((s.part p.dpart.toNat).owns q.t.pa && (s.part p.dpart.toNat).owns (q.t.pa + q.n - 1))

/-- The checks of R292 at the destination on `n` bytes at a packet's address. -/
def State.inCheck (s : State) (p : Packet) (n : Nat) (rd wr d full : Bool) : Except (Nat × Nat) (List Piece) × State :=
  match s.translateAll none none (s.jobAsid p) (pageParts p.va.toNat n) with
  | (none, s) => (.error (fcTrans, 0), s)
  | (some ps, s) =>
    if ps.any (s.strays p) then (.error (fcTrans, 0), s.countPart p.dpart.toNat cntForeign)
    else if ps.any fun q => (rd && !q.t.r) || (wr && !q.t.w) then (.error (fcProt, 0), s)
    else if wr && ps.any fun q => kvForeign none q.t then (.error (fcProt, 0x91), s)
    else if ps.any fun q => q.t.host then (.error (fcClass, 0), s)
    else match ps.findSome? fun q => classRule p.dom wr d q.t with
      | some c => (.error (c, 0), s)
      | none =>
        if full && ps.any fun q => !q.t.sync then (.error (fcProt, 0x60), s)
        else match s.piecesFault ps wr with
          | some f => (.error f, s)
          | none => (.ok ps, s)

/-- Write a trap record for a fault with no issuing token (R297, R300, R305, R428). -/
def State.remoteTrap (s : State) (part code detail : Nat) : State :=
  let (w, s) := s.wireFault code detail
  s.post part { kind := 2, word := w }

/-! ## The receiver's records (R297 to R300) -/

/-- Place of the record of a packet's source package, source partition and counter id in its destination partition (R297). -/
def State.recordOf (s : State) (p : Packet) : Option Nat :=
  match s.rankOf p.job.toNat p.srank.toNat with
  | none => none
  | some e => s.records.findIdx? fun r => r.package == e.package && r.hdr.dpart == p.dpart && r.hdr.spart == p.spart && r.hdr.cid == p.cid

def State.onRecord (s : State) (i : Nat) (f : RecvRec → RecvRec) : State := { s with records := s.records.modify i f }

/-- Write a flag word and set it full; nothing where its page fails now. -/
def State.writeFlag (s : State) (r : RecvRec) (v : Nat) : State :=
  if !r.flagOk then s
  else match s.inCheck r.hdr 4 false true false true with
    | (.error _, s) => s
    | (.ok ps, s) => (s.writePieces ps (leBytes v 4)).settle

/-- A receiver's epoch fails: the flag says so, a trap is written, and the sender is told where the failure is the receiver's (R297). -/
def State.bust (s : State) (i n detail : Nat) (tell : Bool) : State :=
  match s.records[i]? with
  | none => s
  | some r =>
    let s := (s.writeFlag r (0x80000000 + n)).remoteTrap r.hdr.dpart.toNat fcFabric detail
    let s := if tell then let (q, s) := s.refuse r.hdr 0x07 fcFabric detail; s.sendPacket q else s
    s.onRecord i fun r => { r with st := .failed }

/-- The status of a record takes a fault, if none is recorded yet. -/
def RecvRec.mark (r : RecvRec) (f : Nat × Nat) : RecvRec := { r with status := some (r.status.getD f) }

/-- Release the flag with the count, and send RELNOTE (R300). -/
def State.releaseFlag (s : State) (i c : Nat) : State :=
  match s.records[i]? with
  | none => s
  | some r =>
    let part := r.hdr.dpart.toNat
    let (r, v, d, s) : RecvRec × Nat × Bool × State :=
      if !r.flagOk then (r, 0, false, s)
      else match s.inCheck r.hdr 4 false true false true with
        | (.error f, s) => (r.mark f, 0, false, s.remoteTrap part f.1 f.2)
        | (.ok ps, s) =>
          let derived := ps.all fun q => q.t.cls == 2
          if r.d && !derived then
            (r, 0xFFFFFFFF, false, ((s.writePieces ps (leBytes 0xFFFFFFFF 4)).settle).remoteTrap part fcDmark 0)
          else
            let v := c + (if r.status.isSome then 2 ^ 31 else 0)
            (r, v, r.d, (s.writePieces ps (leBytes v 4)).settle)
    let note := { r.hdr.answer 0x05 with seq := BitVec.ofNat 13 c, d := d, val := BitVec.ofNat 128 v }
    let (note, s) : Packet × State := match r.status with
      | none => (note, s)
      | some f => let (w, s) := s.wireFault f.1 f.2; ({ note with d := false, f := true, val := w.setWidth 128 }, s)
    (s.onRecord i fun x => { x with st := .released, status := r.status, note := some note }).sendPacket note

/-- A new record for an OPEN: the flag word is checked and emptied, and OPENACK is sent (R297, R298). -/
def State.startRecord (s : State) (p : Packet) (package : Nat) : State :=
  let (r, s) : RecvRec × State := match s.inCheck p 4 false true false true with
    | (.error f, s) => ({ package := package, hdr := p, flagOk := false, status := some f }, s)
    | (.ok ps, s) => ({ package := package, hdr := p }, ps.foldl (fun s q => s.emptyWords q.t.pa q.n) s)
  ({ s with records := s.records ++ [r] } : State).sendPacket (p.answer 0x03)

/-- Whether a GEN is newer than a record's: up to 0x7FFF opens ahead of it (assumption log 64). -/
def genNewer (new old : BitVec 16) : Bool := let d := (new - old).toNat; 0 < d && d < 2 ^ 15

/-- R297, R320 OPEN at the receiver: one of an earlier GEN is discarded. -/
def execFabricOpen (s : State) : Out :=
  atPacket s 0x02 fun s p =>
    let package := match s.rankOf p.job.toNat p.srank.toNat with | some e => e.package | none => 0
    match s.recordOf p with
    | none =>
      match s.poolTake p.dpart.toNat recvRecords with
      | none => let (q, s) := s.refuse p 0x07 fcOvfl 0; s.sendPacket q
      | some s => s.startRecord p package
    | some i =>
      match s.records[i]? with
      | none => s
      | some r =>
        if r.hdr.gen == p.gen then s.sendPacket (p.answer 0x03)
        else if !genNewer p.gen r.hdr.gen then s
        else
          let s := if r.st == .collecting || r.st == .waiting then s.bust i r.arrived.length 0x04 false else s
          ({ s with records := s.records.eraseIdx i } : State).startRecord p package

/-- A packet of the sender for a record of its generation; any other is discarded and counted (R297). -/
def withRecord (s : State) (p : Packet) (act : State → Nat → RecvRec → State) : State :=
  match (s.recordOf p).bind fun i => s.records[i]?.map fun r => (i, r) with
  | some (i, r) => if r.hdr.gen == p.gen then act s i r else s.countPart p.dpart.toNat cntStale
  | none => s.countPart p.dpart.toNat cntStale

/-- Bytes of a write by the width in OP (R295). -/
def wrWidth (op : Nat) : Nat := if bit op 3 then 4 else if bit op 2 then 256 else accessWidth op

/-- Perform a counted write or reduction at the home slice (R299); a fault code with DETAIL where it writes nothing. -/
def State.performWrite (s : State) (p : Packet) : Option (Nat × Nat) × State :=
  let n := wrWidth p.op.toNat
  let red := bit p.op.toNat 3
  match s.inCheck p n red true p.d false with
  | (.error f, s) => (some f, s)
  | (.ok ps, s) =>
    if red then
      match s.piecesFault ps false with
      | some f => (some f, s)
      | none =>
        let (old, s) := s.readPieces ps
        let v := atomicResult (p.op.toNat % 8) p.elemType (ofLeBytes old) (ofLeBytes p.data) 0
        (none, (s.writePieces ps (leBytes v 4)).settle)
    else (none, (s.writePieces ps ((List.range n).map fun i => p.data.getD i 0)).settle)

/-- R299 WR at the receiver: each sequence number is performed once. -/
def execWr (s : State) : Out :=
  atPacket s 0x01 fun s p =>
    withRecord s p fun s i r =>
      let live := r.st == .collecting || r.st == .waiting
      let n := p.seq.toNat
      if r.arrived.contains n && r.st != .failed then s.countPart p.dpart.toNat cntDup
      else if !live then s
      else if r.count.any fun c => c ≤ n then s.bust i (r.count.getD 0) 0x05 true
      else
        let (f, s) := s.performWrite p
        let s := s.onRecord i fun r =>
          let r := { r with arrived := insertSorted n r.arrived, d := r.d || p.d }
          match f with | some f => r.mark f | none => r
        if r.count == some (r.arrived.length + 1) then s.releaseFlag i (r.arrived.length + 1) else s

/-- The chunks of the bitmap of missing numbers below a count (R295 RESEND). -/
def missingChunks (c : Nat) (arrived : List Nat) : List (Nat × List Byte) :=
  let byte (b : Nat) : Byte := BitVec.ofNat 8 (((List.range 8).map fun i =>
    if 8 * b + i < c && !arrived.contains (8 * b + i) then 2 ^ i else 0).sum)
  let total := (c + 7) / 8
  ((List.range 2).map fun k => (k, (List.range (min 256 (total - 256 * k))).map fun b => byte (256 * k + b))).filter
    fun x => x.2.any fun b => b != 0

/-- What a WAITING record does when its timer expires, or at a duplicate REL (R297). -/
def State.waitExpire (s : State) (i : Nat) : State :=
  match s.records[i]? with
  | none => s
  | some r =>
    let c := r.count.getD 0
    if 8 ≤ r.rounds then s.bust i c 0x03 true
    else
      let s := (missingChunks c r.arrived).foldl (fun s x =>
        s.sendPacket { (r.hdr.answer 0x06).withData x.2 with val := BitVec.ofNat 128 x.1 }) s
      s.onRecord i fun r => { r with rounds := r.rounds + 1, due := s.later r.hdr.timeout }

/-- R297 REL at the receiver. -/
def execRel (s : State) : Out :=
  atPacket s 0x04 fun s p =>
    withRecord s p fun s i r =>
      let c := p.seq.toNat
      match r.st with
      | .collecting =>
        let s := s.onRecord i fun r => { r with count := some c, d := r.d || p.d }
        if r.arrived.any fun n => c ≤ n then s.bust i c 0x05 true
        else if r.arrived.length == c then s.releaseFlag i c
        else s.onRecord i fun r => { r with st := .waiting, rounds := 0, due := s.later r.hdr.timeout }
      | .waiting => s.waitExpire i
      | .released => match r.note with | some q => s.sendPacket q | none => s
      | .failed => s

/-- R297 EPOCH_WAIT_TIMEOUT. -/
def execEpochWaitTimeout (s : State) : Out :=
  atEpoch s fun i =>
    match s.records[i]? with
    | some r => if r.st == .waiting && r.due ≤ s.board.micros then s.waitExpire i else s
    | none => s

/-! ## Reduction windows at the home (R303 to R306) -/

/-- Place of the oldest round of a word in an address space. -/
def State.roundOf (s : State) (asid : Nat) (va : BitVec 57) (fits : Round → Bool) : Option Nat :=
  s.rounds.findIdx? fun r => r.asid == asid && r.hdr.va == va && fits r

/-! ## Remote loads and atomics at the destination (R301, R302, R306) -/

/-- The D bit of a reply: the page read is DERIVED. -/
def derivedPage (ps : List Piece) : Bool := ps.any fun q => q.t.cls == 2

/-- R301 RLDREQ at the destination. -/
def execRldreq (s : State) : Out :=
  atPacket s 0x08 fun s p =>
    let n := accessWidth p.op.toNat
    match s.inCheck p n true false p.d false with
    | (.error f, s) => let (q, s) := s.refuse p 0x09 f.1 f.2; s.reply q
    | (.ok ps, s) =>
      let (bs, s) := s.readPieces ps
      s.reply { p.answer 0x09 with val := BitVec.ofNat 128 (ofLeBytes bs), d := derivedPage ps }

/-- Keep the answer of an atomic: each partition keeps the last 1024 of each source package and partition (R302, R373). -/
def State.keepAnswer (s : State) (key : Nat × Nat × Nat × Nat) (q : Packet) : State :=
  let like (a : (Nat × Nat × Nat × Nat) × Packet) : Bool := a.1.1 == key.1 && a.1.2.1 == key.2.1 && a.1.2.2.1 == key.2.2.1
  let old := if 1024 ≤ (s.answers.filter like).length then
      match takeFirst like s.answers with
      | some (_, rest) => rest
      | none => s.answers
    else s.answers
  { s with answers := old ++ [(key, q)] }

/-- Destination partition, source package, source partition and request id of a request. -/
def State.answerKey (s : State) (p : Packet) : Nat × Nat × Nat × Nat :=
  (p.dpart.toNat, (match s.rankOf p.job.toNat p.srank.toNat with | some e => e.package | none => 0), p.spart.toNat, p.reqid.toNat)

/-- Perform a remote atomic and answer it (R301, R302). -/
def State.performRat (s : State) (p : Packet) : State :=
  let done (s : State) (q : Packet) : State := (s.keepAnswer (s.answerKey p) q).reply q
  match s.inCheck p 4 true true p.d false with
  | (.error f, s) => let (q, s) := s.refuse p 0x0B f.1 f.2; done s q
  | (.ok ps, s) =>
    match s.piecesFault ps false with
    | some f => let (q, s) := s.refuse p 0x0B f.1 f.2; done s q
    | none =>
      let (old, s) := s.readPieces ps
      let v := atomicResult p.op.toNat p.elemType (ofLeBytes old) (ofLeBytes (p.data.take 4)) (ofLeBytes (p.data.drop 4))
      done ((s.writePieces ps (leBytes v 4)).settle)
        { p.answer 0x0B with val := BitVec.ofNat 128 (ofLeBytes old), d := derivedPage ps }

/-- Whether a request repeats one that waits for a round: it is performed once, when the round has ended (R302, R306). -/
def State.ratWaits (s : State) (p : Packet) : Bool := s.rounds.any fun r => r.waiting.any fun q => s.answerKey q == s.answerKey p

/-- R302 RATREQ at the destination: a repeated one is answered from the kept results, and one to a window word waits for the round in
progress (R306). -/
def execRatreq (s : State) : Out :=
  atPacket s 0x0A fun s p =>
    match s.answers.find? fun a => a.1 == s.answerKey p with
    | some a => s.reply a.2
    | none =>
      if s.ratWaits p then s
      else match s.roundOf (s.jobAsid p) p.va fun _ => true with
      | some i => { s with rounds := s.rounds.modify i fun r => { r with waiting := r.waiting ++ [p] } }
      | none => s.performRat p

/-- Where a home finds a window word, whatever the contributions' domains and D bits: nowhere where the word cannot be reached or may not
be written at all (R305; assumption log 63). -/
def State.windowPieces (s : State) (p : Packet) : Option (List Piece) × State :=
  match s.translateAll none none (s.jobAsid p) (pageParts p.va.toNat 4) with
  | (none, s) => (none, s)
  | (some ps, s) =>
    let no (q : Piece) : Bool := s.strays p q || !q.t.w || q.t.host || kvForeign none q.t
    (if ps.any no || (s.piecesFault ps true).isSome then none else some ps, s)

/-- The home writes a window word and sets it full, where the word can be reached. -/
def State.writeWindow (s : State) (p : Packet) (v : Nat) : State :=
  match s.windowPieces p with
  | (some ps, s) => (s.writePieces ps (leBytes v 4)).settle
  | (none, s) => s

/-- The home makes a window word empty (R305). -/
def State.emptyWindow (s : State) (p : Packet) : State :=
  match s.windowPieces p with
  | (some ps, s) => ps.foldl (fun (s : State) (q : Piece) => s.emptyWords q.t.pa q.n) s
  | (none, s) => s

/-- A round writes its word and sets it full (R305). One whose word no longer passes the checks of R292 is poisoned, and the home traps. -/
def State.writeRound (s : State) (r : Round) : State :=
  if r.poison then s.writeWindow r.hdr (r.result 0)
  else match s.inCheck r.hdr 4 true true r.hdr.d false with
    | (.error f, s) => (s.remoteTrap r.hdr.dpart.toNat f.1 f.2).writeWindow r.hdr ({ r with poison := true }.result 0)
    | (.ok ps, s) =>
      let (old, s) := s.readPieces ps
      (s.writePieces ps (leBytes (r.result (ofLeBytes old)) 4)).settle

/-- A round ends: its word is written and set full, and the atomics that waited are performed, or wait for the word's next round (R305,
R306). -/
def State.endRound (s : State) (i : Nat) : State :=
  match s.rounds[i]? with
  | none => s
  | some r =>
    let s := ({ s with rounds := s.rounds.eraseIdx i } : State).writeRound r
    match s.roundOf r.asid r.hdr.va fun _ => true with
    | some j => { s with rounds := s.rounds.modify j fun x => { x with waiting := r.waiting ++ x.waiting } }
    | none => r.waiting.foldl State.performRat s

/-- R305 WCON at the home: it joins the first round of its word that has room, or starts one, which makes the word empty. One that fails the
checks of R292 counts and poisons the round; its D bit counts for nothing. Ports on the way merge nothing (assumption log 25). -/
def execWcon (s : State) : Out :=
  atPacket s 0x0C fun s p =>
    let asid := s.jobAsid p
    let (bad, s) : Option (Nat × Nat) × State := match s.inCheck p 4 true true p.d false with
      | (.error f, s) => (some f, s)
      | (.ok _, s) => (none, s)
    let s := match bad with | some f => s.remoteTrap p.dpart.toNat f.1 f.2 | none => s
    let room (r : Round) : Bool := r.cnt + p.cnt.toNat ≤ r.hdr.ncon.toNat + 1
    match (s.roundOf asid p.va room).bind fun i => s.rounds[i]?.map fun r => (i, r) with
    | some (i, r) =>
      let same := r.hdr.ty == p.ty && r.hdr.op == p.op && r.hdr.wexp == p.wexp && r.hdr.ncon == p.ncon
      let s := if same then s else let (w, s) := s.freeWord 305; s.remoteTrap p.dpart.toNat (bits w.toNat 7 0) (bits w.toNat 15 8)
      let add (r : Round) : Round :=
        { r with cnt := r.cnt + p.cnt.toNat, poison := r.poison || bad.isSome || !same, flags := r.flags ||| p.flg.toNat,
                 sum := if same then r.hdr.combine r.sum p.partialSum else r.sum, hdr := { r.hdr with d := r.hdr.d || (p.d && bad.isNone) } }
      let s := { s with rounds := s.rounds.modify i add }
      if r.hdr.ncon.toNat + 1 ≤ r.cnt + p.cnt.toNat then s.endRound i else s
    | none =>
      let s := s.emptyWindow p
      let r : Round := { asid := asid, hdr := { p with d := p.d && bad.isNone }, sum := p.partialSum, flags := p.flg.toNat, cnt := p.cnt.toNat, poison := bad.isSome,
                         due := s.later (8 * p.timeout) }
      let i := s.rounds.length
      let s := { s with rounds := s.rounds ++ [r] }
      if p.ncon.toNat + 1 ≤ p.cnt.toNat then s.endRound i else s

/-- R305 WINDOW_ROUND_TIMEOUT: the round is poisoned and ends, and the home traps. -/
def execWindowRoundTimeout (s : State) : Out :=
  atEpoch s fun i =>
    match s.rounds[i]? with
    | none => s
    | some r =>
      if s.board.micros < r.due then s
      else
        let s := s.remoteTrap r.hdr.dpart.toNat fcFabric 0x07
        ({ s with rounds := s.rounds.modify i fun r => { r with poison := true } } : State).endRound i

end Sys2Proof.Machine
end

