-- ==== Sys2Proof/Machine/FabricOut.lean ====
section
/-! DEFINITION. Answers that a sender or requester takes, its timers (R296, R301, R302), and the links of the fabric ports (R297, R307,
R309, R417, R418). -/

namespace Sys2Proof.Machine

open Sys2Proof

/-! ## The sender's epochs (R296) -/

/-- A packet of the receiver for an epoch of its generation; any other is discarded and counted. -/
def withEpoch (s : State) (p : Packet) (act : State → Nat → Epoch → State) : State :=
  let is (e : Epoch) : Bool :=
    e.st != .failed && e.part == p.dpart.toNat && e.hdr.job == p.job && e.hdr.drank == p.srank && e.hdr.cid == p.cid
  match (s.epochs.findIdx? is).bind fun i => s.epochs[i]?.map fun e => (i, e) with
  | some (i, e) => if e.hdr.gen == p.gen then act s i e else s.countPart p.dpart.toNat cntStale
  | none => s.countPart p.dpart.toNat cntStale

/-- R296 OPENACK: `rcopen` emits, the held writes leave, and a held `rrel` is acted on. -/
def execOpenack (s : State) : Out :=
  atPacket s 0x03 fun s p =>
    withEpoch s p fun s i e =>
      if e.st != .opening then s
      else
        let s := match e.openAcc.bind (s.core e.core).access? with
          | some x => s.finish e.core x (x.opnds.val 0) x.opnds.dAll
          | none => s
        let s := s.onEpoch i fun e => { e with st := .opened, openAcc := none, held := [], relAcc := none }
        let s := e.held.foldl (fun s h =>
          match e.window.find? fun w => w.1 == h.1 with
          | some w => s.sendWrite e.core w.2 h.2
          | none => s) s
        match e.relAcc with
        | some a => s.startRelease i a
        | none => s

/-- The `rrel` or `rcopen` of an access ends in an F token that carries a fault word of the receiver (R296). -/
def State.failWord (s : State) (k acc : Nat) (word : Word) : State :=
  match (s.core k).access? acc with
  | some x => (s.onCore k (·.dropAccess acc)).emitF (x.shot k s.now) word x.tag x.tag x.opnds.dAll
  | none => s

/-- The fault word that a packet carries. -/
def faultOf (p : Packet) : Word := p.val.setWidth 32

/-- R296 RELNOTE: `rrel` emits the flag value or the fault word, and the epoch is FREE. -/
def execRelnote (s : State) : Out :=
  atPacket s 0x05 fun s p =>
    withEpoch s p fun s i e =>
      match e.st, e.relAcc with
      | .releasing, some a =>
        let s := s.freeEpoch i false
        if p.f then s.failWord e.core a (faultOf p)
        else match (s.core e.core).access? a with
          | some x => s.finish e.core x (faultOf p).toNat p.d
          | none => s
      | _, _ => s

/-- R296 RESEND: each write that the bitmap marks leaves again. -/
def execResend (s : State) : Out :=
  atPacket s 0x06 fun s p =>
    withEpoch s p fun s i e =>
      if e.st != .releasing then s
      else
        let first := 2048 * bits p.val.toNat 11 0
        let marked (n : Nat) : Bool := first ≤ n && n < first + 2048 && bit (p.data.getD ((n - first) / 8) 0).toNat ((n - first) % 8)
        let s := (e.window.filter fun w => marked w.1).foldl (fun s w => s.sendPacket w.2) s
        s.onEpoch i fun e => { e with due := s.later (2 * e.hdr.timeout) }

/-- R296, R297 FAIL: one with a fault word comes from a receiver and ends the sender's epoch, one without comes from a sender and ends
the receiver's (assumption log 26). -/
def execFabricFail (s : State) : Out :=
  atPacket s 0x07 fun s p =>
    if p.f then
      withEpoch s p fun s i e =>
        match e.st, e.relAcc with
        | .opening, _ =>
          let s := match e.openAcc with | some a => s.failWord e.core a (faultOf p) | none => s
          s.failOpening i fcFabric 0x01
        | .releasing, some a => (s.freeEpoch i false).failWord e.core a (faultOf p)
        | _, _ => s
    else
      withRecord s p fun s i r =>
        if r.st == .collecting || r.st == .waiting then s.bust i r.arrived.length 0x04 false else s

/-- R296 EPOCH_OPEN_TIMEOUT. -/
def execEpochOpenTimeout (s : State) : Out :=
  atEpoch s fun i =>
    match s.epochs[i]? with
    | none => s
    | some e =>
      if e.st != .opening || s.board.micros < e.due then s
      else if e.rounds < 8 then
        (s.sendPacket e.hdr).onEpoch i fun e => { e with rounds := e.rounds + 1, due := s.later (2 * e.hdr.timeout) }
      else s.failOpening i fcFabric 0x01

/-- R296 EPOCH_REL_TIMEOUT. -/
def execEpochRelTimeout (s : State) : Out :=
  atEpoch s fun i =>
    match s.epochs[i]? with
    | none => s
    | some e =>
      if e.st != .releasing || s.board.micros < e.due then s
      else if e.rounds < 8 then
        (s.sendPacket { e.hdr with ptype := 0x04, d := e.d, seq := BitVec.ofNat 13 e.writes }).onEpoch i fun e =>
          { e with rounds := e.rounds + 1, due := s.later (2 * e.hdr.timeout) }
      else
        let s := match e.relAcc with | some a => s.failAcc e.core a fcFabric 0x02 | none => s
        (s.sendPacket { e.hdr with ptype := 0x07, d := false }).freeEpoch i false

/-! ## Replies (R301, R302) -/

/-- A reply for the request of its tag and request id; a later one is discarded (R302). -/
def withRequest (s : State) (p : Packet) (want : BitVec 8) (act : State → Request → Access → State) : State :=
  let is (r : Request) : Bool :=
    r.packet.ptype == want && r.packet.reqid == p.reqid && r.packet.tag == p.tag && r.packet.job == p.job &&
    r.packet.drank == p.srank && r.packet.spart == p.dpart
  match takeFirst is s.requests with
  | none => s
  | some (r, rest) =>
    let s := ({ s with requests := rest } : State).pin r.packet false
    match (s.core r.core).access? r.access with
    | none => s
    | some x =>
      if p.f then s.fail r.core x { code := p.fault.1, detail := p.fault.2 }
      else act s r x

/-- R301 RLDREP: the value is extended by the type of `rld`. -/
def execRldrep (s : State) : Out :=
  atPacket s 0x09 fun s p =>
    withRequest s p 0x08 fun s r x =>
      let n := accessWidth x.args.cond.toNat
      s.finish r.core x (loadValue x.args.ty n (leBytes p.val.toNat n)) (x.opnds.dAll || p.d)

/-- R301 RATREP: the old value. -/
def execRatrep (s : State) : Out :=
  atPacket s 0x0B fun s p =>
    withRequest s p 0x0A fun s r x => s.finish r.core x (p.val.toNat % 2 ^ 32) (x.opnds.dAll || p.d)

/-- R302 REQUEST_RESEND_TIMEOUT. -/
def execRequestResendTimeout (s : State) : Out :=
  atEpoch s fun i =>
    match s.requests[i]? with
    | none => s
    | some r =>
      if s.board.micros < r.due then s
      else if r.resends < 8 then
        let s := s.sendPacket r.packet
        { s with requests := s.requests.modify i fun r =>
            { r with resends := r.resends + 1, due := s.later (2 * r.packet.timeout) } }
      else
        (({ s with requests := s.requests.eraseIdx i } : State).pin r.packet false).failAcc r.core r.access fcFabric 0x06

/-! ## Ports and links (R295, R297, R307, R309, R417, R418) -/

/-- R295 RESERVED_PTYPE_PACKET: it is discarded. -/
def execReservedPtypePacket (s : State) : Out :=
  atPort s fun n =>
    match (s.port n).hold, (s.port n).arrived with
    | false, (_, p) :: rest =>
      if p.ptype.toNat == 0 || 0x0C < p.ptype.toNat then s.onPort n fun x => { x with arrived := rest } else s
    | _, _ => s

/-- Flits of a packet by its header: one and its data flits (R295). -/
def packetBytes (bs : List Byte) : Nat := 64 + (ofLeBytes (bs.take 4) % 512 + 63) / 64 * 64

/-- The flits that a port has assembled and whether they make a packet. -/
def FabricPort.assemble (x : FabricPort) (flit : List Byte) (time : Nat) : FabricPort :=
  let bs := x.flits ++ (List.range 64).map fun i => flit.getD i 0
  if packetBytes bs ≤ bs.length then
    { x with crcFails := 0, flits := [],
             arrived := x.arrived ++ [(time, decodePacket (wordsOfBytes (bs.take 64)) (bs.drop 64))] }
  else { x with crcFails := 0, flits := bs }

/-- R307 FLIT_RECEIVE: a flit whose CRC fails is discarded and replay is asked for; 16 failed replays in a row, each a CRC failure behind
the one that asked for it, make the link retrain. -/
def execFlitReceive (port : Nat) (crcOk : Bool) (flit : List Byte) (s : State) : Out :=
  atPort s fun n =>
    let x := s.port n
    if n != port || x.link == .down || x.retrain then s
    else if crcOk then s.onPort n fun x => x.assemble flit s.board.micros
    else s.onPort n fun x => { x with crcFails := x.crcFails + 1, retrain := decide (16 ≤ x.crcFails) }

/-- R307 LINK_RETRAIN: the link comes back, or is marked down. -/
def execLinkRetrain (port : Nat) (ok : Bool) (s : State) : Out :=
  atPort s fun n =>
    if n != port || !(s.port n).retrain then s
    else s.onPort n fun x =>
      if ok then { x with retrain := false, crcFails := 0 }
      else x.down

/-- R309 FABRIC_PORT_TRAINED: the link leaves DOWN for PLAIN. -/
def execFabricPortTrained (s : State) : Out :=
  atPort s fun n => if (s.port n).link == .down then s.onPort n fun x => { x with link := .plain } else s

/-- Whether a measurement stands in the PEER list of a live domain of the package's trust domain (R401, R417). -/
def State.peerAllowed (s : State) (meas : List Byte) : Bool :=
  s.parts.any fun p => p.2.domains.any fun d => d.2.live && d.2.tdid == s.tdid && d.2.peers.contains meas

/-- R417 SPDM_KEY_EXCHANGE: the exchange signs with the identity key, where it may sign (R414, R415), and the link becomes SECURE where
every condition holds. -/
def execSpdmKeyExchange (port : Nat) (peerTdid : DWord) (peerMeas : List Byte) (checks : SpdmChecks) (s : State) : Out :=
  atPort s fun n =>
    if n == port && (s.port n).link != .down && checks.certOk then
      match s.signIndex with
      | (.error _, s) => s
      | (.ok _, s) =>
        if s.tdid != 0 && peerTdid == s.tdid && s.peerAllowed peerMeas && checks.ownListed then
          s.onPort n fun x => { x with link := .secure peerTdid }
        else s
    else s

/-- Traffic that a key update has held leaves a port in order (R309); a D packet leaves only on a SECURE link, and is discarded and
counted elsewhere (R310). -/
def State.flushHeld (s : State) (n : Nat) : State :=
  let s' := s.onPort n fun x => { x with hold := false, out := [] }
  (s.port n).out.foldl (fun s x =>
    if s.portCarries x.2.d n then { s with sent := s.sent ++ [{ port := n, packet := x.2, time := x.1 }] }
    else s.countPart x.2.spart.toNat cntDmarkDrop) s'

/-- R417 SPDM_SESSION_END: the link returns to PLAIN, and what a key update held follows R310. -/
def execSpdmSessionEnd (s : State) : Out :=
  atPort s fun n =>
    match (s.port n).link with
    | .secure _ => (s.onPort n fun x => { x with link := .plain, peerDomains := [] }).flushHeld n
    | _ => s

/-- R418 DOMAIN_LIST: the peer's list replaces the one before. -/
def execDomainList (port : Nat) (entries : List (Nat × Nat × List Byte)) (s : State) : Out :=
  atPort s fun n =>
    match (s.port n).link with
    | .secure _ => if n == port then s.onPort n fun x => { x with peerDomains := entries } else s
    | _ => s

/-- R309 KEY_UPDATE: it begins, and the link holds its traffic, or it ends, and what was held leaves in order. -/
def execKeyUpdate (s : State) : Out :=
  atPort s fun n =>
    match (s.port n).link, (s.port n).hold with
    | .secure _, false => s.onPort n fun x => { x with hold := true }
    | _, true => s.flushHeld n
    | _, _ => s

/-- R297 PACKET_AGE_DISCARD: a port drops every packet that it has held for more than 1 ms. -/
def execPacketAgeDiscard (s : State) : Out :=
  atPort s fun n =>
    if (s.port n).hold then s
    else
      ({ s with sent := s.sent.filter fun x => x.port != n || s.inTime x.time } : State).onPort n fun x =>
        { x with arrived := x.arrived.filter fun a => s.inTime a.1 }

end Sys2Proof.Machine
end

