-- ==== Sys2Proof/Machine/Sahas.lean ====
section
/-! DEFINITION. sahas on the source that a Finalma body may hold (R102 to R107, R423): the words of a line, literals, instruction lines and
node commands, each assembled to the fields or the word that it stands for. What is no line of the language has no meaning here (assumption
log 133). -/

namespace Sys2Proof.Machine.Sahas

open Sys2Proof

/-! ## Words (R102, R104) -/

/-- Pieces of a text between the characters that `sep` holds of; an empty piece stays. -/
def splitOn (sep : Char → Bool) : List Char → List (List Char)
  | [] => [[]]
  | c :: cs =>
    match splitOn sep cs with
    | [] => [[]]
    | w :: ws => if sep c then [] :: w :: ws else (c :: w) :: ws

/-- A line without its comment, which begins with `;` or `//`. -/
def code : List Char → List Char
  | [] => []
  | ';' :: _ => []
  | '/' :: '/' :: _ => []
  | c :: cs => c :: code cs

/-- What follows a prefix. -/
def after? : List Char → List Char → Option (List Char)
  | [], cs => some cs
  | _ :: _, [] => none
  | p :: ps, c :: cs => if p == c then after? ps cs else none

/-- What follows a prefix of a word. -/
def afterW? (p w : String) : Option String := (after? p.toList w.toList).map String.ofList

/-- Whether a word begins with another. -/
def begins (p w : String) : Bool := (afterW? p w).isSome

/-- The parts of a word between the characters that `sep` holds of. -/
def partsOf (sep : Char → Bool) (w : String) : List String := (splitOn sep w.toList).map String.ofList

/-- The parts of a word between its dots. -/
def dotted (w : String) : List String := partsOf (· == '.') w

/-- The words of a line. A word ends at a comma, but for the options `wave=` and `levels=`, which hold commas. -/
def words (l : List Char) : List String :=
  let parts (w : List Char) : List (List Char) :=
    if begins "wave=" (String.ofList w) || begins "levels=" (String.ofList w) then [w] else splitOn (· == ',') w
  let ws := (splitOn (fun c => c == ' ' || c == '\t' || c == '\r') (code l)).flatMap parts
  (ws.filter (!·.isEmpty)).map String.ofList

/-- A digit in a base. -/
def digit? (base : Nat) (c : Char) : Option Nat :=
  let n := c.toNat
  let v := if 48 ≤ n && n ≤ 57 then n - 48 else if 97 ≤ n && n ≤ 102 then n - 87 else if 65 ≤ n && n ≤ 70 then n - 55 else 99
  if v < base then some v else none

/-- Digits in a base, with underscores between them. -/
def digits? (base : Nat) (cs : List Char) : Option Nat :=
  let ds := cs.filter (· != '_')
  if ds.isEmpty then none else ds.foldl (fun a c => match a, digit? base c with | some a, some d => some (base * a + d) | _, _ => none) (some 0)

/-- A number as R104 writes it. -/
def number? (w : String) : Option Nat :=
  match w.toList with
  | '0' :: 'x' :: cs => digits? 16 cs
  | '0' :: 'b' :: cs => digits? 2 cs
  | cs => digits? 10 cs

/-- A number that may be negative. -/
def integer? (w : String) : Option Int :=
  match w.toList with
  | '-' :: cs => (number? (String.ofList cs)).map fun n => -(n : Int)
  | _ => (number? w).map fun n => (n : Int)

/-- The number after a prefix, below a bound. -/
def numAfter? (p : String) (bound : Nat) (w : String) : Option Nat := ((afterW? p w).bind number?).filter (· < bound)

/-- The place of a word in a list of names. -/
def nameIn? (names : List String) (w : String) : Option Nat := names.findIdx? (· == w)

/-- An operand slot, `a` to `d`. -/
def slotOf? (w : String) : Option Nat := nameIn? ["a", "b", "c", "d"] w

/-! ## Literals (R87, R104) -/

/-- A float literal: its sign, and the exact value as a quotient, an infinity, or a NaN with a payload. -/
inductive FloatLit where
  | finite (neg : Bool) (num den : Nat)
  | inf (neg : Bool)
  | nan (payload : Nat)
  deriving DecidableEq, Repr

/-- The digits of a float literal without its sign and exponent: all of them as a number, and how many stand behind the point. -/
def mantissa? (cs : List Char) : Option (Nat × Nat) :=
  let ds (l : List Char) : List Char := l.filter (· != '_')
  match splitOn (· == '.') cs with
  | [a] => (digits? 10 a).map fun m => (m, 0)
  | [a, b] => (digits? 10 (a ++ b)).map fun m => (m, (ds b).length)
  | _ => none

/-- A float literal: one with a point or an exponent, `inf`, `nan` or `nan:0xP`. -/
def float? (w : String) : Option FloatLit :=
  let neg := w.toList.head? == some '-'
  let cs := if neg then w.toList.drop 1 else w.toList
  let body := String.ofList cs
  if body == "inf" then some (.inf neg)
  else if w == "nan" then some (.nan 0)
  else match afterW? "nan:0x" w with
  | some p => (digits? 16 p.toList).map .nan
  | none =>
    if begins "0x" body || begins "0b" body || !(cs.any fun c => c == '.' || c == 'e') then none
    else match splitOn (· == 'e') cs with
    | [m] => (mantissa? m).map fun x => .finite neg x.1 (10 ^ x.2)
    | [m, e] =>
      match mantissa? m, integer? (String.ofList (if e.head? == some '+' then e.drop 1 else e)) with
      | some (n, k), some e => if e.natAbs ≤ 1000 then some (.finite neg (n * 10 ^ e.toNat) (10 ^ (k + (-e).toNat))) else none
      | _, _ => none
    | _ => none

/-- The value of a float literal in a format, a decimal one rounded by RNE. -/
def FloatLit.value (k : FFmt) : FloatLit → Option Nat
  | .finite s n d => some (froundQuot k .rne s n d 0)
  | .inf s => some (signBit k s + (2 ^ k.eb - 1) * 2 ^ k.fb)
  | .nan p => if p < 2 ^ (k.fb - 1) then some (quietNan k false p) else none

/-- The 32-bit operand that an integer means under a type: of a packed type one that fits a lane stands in every lane. -/
def intOperand (ty : ElemType) (v : Int) : Option Nat :=
  if v < -(2 ^ 31 : Int) || (2 ^ 32 : Int) ≤ v then none
  else match ty with
    | .s32 | .n32 => some (wrap v 32)
    | .s16x2 | .n16x2 => some (if -(2 ^ 15 : Int) ≤ v && v < 2 ^ 16 then wrap v 16 * 0x10001 else wrap v 32)
    | .s8x4 | .n8x4 => some (if -128 ≤ v && v < 256 then wrap v 8 * 0x01010101 else wrap v 32)
    | _ => none

/-- The 32-bit operand that a literal means under a type: a float literal for a float type, an integer for the others. -/
def literal? (ty : ElemType) (w : String) : Option Nat :=
  match float? w with
  | some x => if isFloatType ty then (x.value (floatLanes ty).1).map fun v => if (floatLanes ty).2 == 32 then v else v * 0x10001 else none
  | none => (integer? w).bind (intOperand ty)

/-- IMM and WIDE of an operand: the short form where its extension is the operand (R87, R104). -/
def immForm (ty : ElemType) (x : Nat) : Nat × Option (BitVec 16) :=
  match [x % 256, x % 65536, x / 65536].find? fun i => immOperand ty i none == x with
  | some i => (i, none)
  | none => (x % 65536, some (BitVec.ofNat 16 (x / 65536)))

/-! ## Mnemonics (R80, R81, R88, R89, R102) -/

/-- The mnemonics of R88 in their parts between dots, with their opcodes. -/
def elemNames : List (List String × Nat) :=
  (["const", "add", "sub", "addsat", "subsat", "mul", "mulh", "mad", "div", "rem", "and", "or", "xor", "andn", "shl", "shr", "sra", "rot",
    "min", "max", "abs", "clz", "popc", "bfx", "bfi", "cmp", "lea", "ext", "perm", "sacc", "sswap", "scount"].zipIdx.map fun x => ([x.1], x.2)) ++
  (["fadd", "fsub", "fmul", "fma", "fmin", "fmax", "fsgn", "fcmp", "frcp", "frsq", "fex2", "flg2", "fcvt", "frnd", "fclass"].zipIdx.map
    fun x => ([x.1], 0x080 + x.2)) ++
  (["steer", "select", "merge", "copy", "sink", "gate", "window", "enter", "leave", "next", "tagget", "tagset", "call", "ret",
    "purge"].zipIdx.map fun x => ([x.1], 0x100 + x.2)) ++
  (["ld", "st", "ldx", "stx", "lds", "iput", "iget", "atom", "red", "fence", "talloc", "tstate", "tfree", "send"].zipIdx.map
    fun x => ([x.1], 0x140 + x.2)) ++
  [(["ring", "init"], 0x14E), (["awaitf"], 0x14F), (["relslot"], 0x150), (["rst"], 0x180), (["rld"], 0x181), (["rat"], 0x182),
   (["rred"], 0x183), (["rcopen"], 0x184), (["rrel"], 0x185), (["bar", "arrive"], 0x1A0), (["bar", "wait"], 0x1A1), (["cens", "up"], 0x1A2),
   (["cens", "dn"], 0x1A3), (["phase", "wait"], 0x1A4), (["wait", "t"], 0x1A5), (["smerge"], 0x1CE), (["sdec"], 0x1E0), (["senc"], 0x1E1),
   (["trap"], 0x1E2), (["fault"], 0x1E3), (["sreg", "rd"], 0x1E4), (["sreg", "wr"], 0x1E5)]

/-- The suffixes of R80 in the order of their codes. -/
def typeNames : List String := ["s32", "n32", "s16x2", "n16x2", "s8x4", "n8x4", "f32", "bf16x2", "f16x2"]

/-- The suffixes that an opcode takes for COND, in the order of their codes. -/
def condNames (opc : Nat) : List String :=
  let ops := ["add", "min", "max", "and", "or", "xor"]
  if opc == 0x019 || opc == 0x087 then ["eq", "ne", "lt", "le", "gt", "ge", "un", "ord"]
  else if opc == 0x01B then ["b8", "b16"]
  else if opc == 0x086 then ["copy", "inv", "xsign"]
  else if opc == 0x08C then ["f32", "bf16x2", "f16x2", "s32", "n32"]
  else if opc == 0x08D then ["rne", "rtz", "dn", "up"]
  else if opc == 0x147 || opc == 0x182 then ops ++ ["exch", "cas"]
  else if opc == 0x148 || opc == 0x183 then ops
  else if opc == 0x149 then ["core", "clus", "pkg", "pod", "sys"]
  else []

/-- The row that a mnemonic names, with the parts of it that stand behind its name. -/
def mnemonic? (w : String) : Option (ElemRow × List String) :=
  let ps := dotted w
  match elemNames.find? fun x => ps.take x.1.length == x.1 with
  | none => none
  | some x => (elemRow x.2).map fun r => (r, ps.drop x.1.length)

/-- The fields that a mnemonic's suffixes give: COND, TYPE, and the kind of a `fence`. -/
def suffixes? (r : ElemRow) (ps : List String) : Option ElemArgs := do
  let (kind, ps) ← match r.opc == 0x149, ps with
    | true, k :: ps => (nameIn? ["full", "acq", "rel"] k).map fun k => (k, ps)
    | true, [] => none
    | false, ps => some (0, ps)
  let (cond, ps) ← match condNames r.opc, ps with
    | [], ps => some (0, ps)
    | _, [] => none
    | ns, c :: ps => (nameIn? ns c).map fun c => (c, ps)
  let ty ← match decide (r.types = tyNone), ps with
    | true, [] => some ElemType.s32
    | false, [t] => (nameIn? typeNames t).bind typeOf
    | _, _ => none
  some { ty := ty, cond := BitVec.ofNat 3 cond, imm := BitVec.ofNat 16 kind }

/-! ## Targets and options (R103, R105) -/

/-- A target: an in-block slot or a block output. A node port has no name here, since no portable handler may name one (R344). -/
def target? (w : String) : Option Target := do
  let (x, slv) ← match partsOf (· == ':') w with
    | [x] => some (x, 0)
    | [x, l] => (number? l).map fun l => (x, l)
    | _ => none
  let (y, p) ← match partsOf (· == '?') x with
    | [y] => some (y, 0)
    | [y, "t"] => some (y, 1)
    | [y, "f"] => some (y, 2)
    | _ => none
  let dest ← match dotted y with
    | [o] => (numAfter? "out" 32 o).map fun k => TargetDest.out (BitVec.ofNat 5 k)
    | [e, s] => match numAfter? "e" 128 e, slotOf? s with
      | some n, some os => some (TargetDest.slot (BitVec.ofNat 7 n) (BitVec.ofNat 2 os))
      | _, _ => none
    | _ => none
  if slv < 16 then some { dest := dest, whenP := BitVec.ofNat 2 p, slv := BitVec.ofNat 4 slv } else none

/-- The code of a level width, written `wM`. -/
def widthCode? (w : String) : Option Nat := (numAfter? "w" 17 w).bind fun m => if m % 4 == 0 && 4 ≤ m then some (m / 4 - 1) else none

/-- A level written `oN.wM`: its codes (R84). -/
def level? (o w : String) : Option (Nat × Nat) :=
  match numAfter? "o" 48 o, widthCode? w with
  | some n, some c => if n % 4 == 0 then some (n / 4, c) else none
  | _, _ => none

/-- The top level of a stack of width codes (R105). -/
def topLevel (levels : List Nat) : Option (Nat × Nat) :=
  levels.getLast?.map fun c => ((levels.dropLast.map (· + 1)).sum, c)

/-- `next` on a level. -/
def nextOp (l : Nat × Nat) : TagOp := .next (BitVec.ofNat 4 l.1) (BitVec.ofNat 2 l.2)

/-- A wave number, `?` for one that is not known. -/
def waveNo? (w : String) : Option (BitVec 6) := if w == "?" then some 0x3F else ((number? w).filter (· < 64)).map (BitVec.ofNat 6)

/-- An option of an instruction line of a portable handler: `route=` and the levels `enter` and `leave` are refused (R344). -/
def option? (opc : Nat) (levels : List Nat) (a : ElemArgs) (w : String) : Option ElemArgs :=
  match partsOf (· == '=') w with
  | ["tag", v] =>
    match dotted v with
    | ["keep"] => some { a with tagOp := .keep }
    | ["next"] => (topLevel levels).map fun l => { a with tagOp := nextOp l }
    | ["next", o, x] => (level? o x).map fun l => { a with tagOp := nextOp l }
    | _ => none
  | ["ma", v] => (nameIn? ["normal", "sticky", "purge", "queued"] v).bind fun m => if m == 0 then none else some { a with ma := [MA.normal, .sticky, .purge, .queued].getD m .normal }
  | ["pred", v] =>
    let (inv, s) := match afterW? "!" v with | some s => (true, s) | none => (false, v)
    ((afterW? "." s).bind slotOf?).map fun p => { a with f6 := .pred inv (BitVec.ofNat 3 (p + 1)) }
  | ["wave", v] =>
    match (partsOf (· == ',') v).map waveNo? with
    | [some p, some o, some s] => some { a with f6 := .wave p o s }
    | _ => none
  | ["w", v] =>
    if (0x140 ≤ opc && opc ≤ 0x143) || opc == 0x180 || opc == 0x181 then
      if v == "16" then some { a with cond := 1 } else if v == "8" then some { a with cond := 2 }
      else if v == "row" && opc == 0x180 then some { a with cond := 4 } else none
    else none
  | ["rnd", v] => if opc == 0x08C then (nameIn? ["rne", "rto", "rtz"] v).map fun c => { a with imm := BitVec.ofNat 16 c } else none
  | ["level", v] =>
    if opc != 0x10A then none
    else match dotted v with
      | ["ctx"] => some { a with imm := 0xC0 }
      | ["depth"] => some { a with imm := 0xD0 }
      | [o, x] => (level? o x).map fun l => { a with imm := BitVec.ofNat 16 (16 * l.1 + l.2) }
      | _ => none
  | ["task", v] => ((number? v).filter (· < 64)).map fun n => { a with task := BitVec.ofNat 6 n }
  | ["count", v] => if opc == 0x01F then ((number? v).filter fun n => 1 ≤ n && n < 65536).map fun n => { a with imm := BitVec.ofNat 16 n } else none
  | _ => none

/-! ## Instruction lines (R102) -/

/-- The operand list: the slot's own name at each position, or one immediate. -/
def operands? (r : ElemRow) (a : ElemArgs) (ws : List String) : Option ElemArgs :=
  let put (a : ElemArgs) (sub : Option (BitVec 2)) (w : String) : Option ElemArgs :=
    let ty := if decide (r.types = tyNone) then ElemType.n32 else a.ty
    ((afterW? "#" w).bind (literal? ty)).map fun x => let f := immForm ty x; { a with sub := sub, imm := BitVec.ofNat 16 f.1, wide := f.2 }
  if ws.isEmpty || 4 < ws.length then none
  else if r.opc == 0x000 then if ws.length == 1 then put a none (ws.headD "") else none
  else ws.zipIdx.foldl (fun a x => a.bind fun a =>
    if afterW? "." x.1 == some (["a", "b", "c", "d"].getD x.2 "") then some a
    else if a.sub.isSome then none else put a (some (BitVec.ofNat 2 x.2)) x.1) (some { a with arity := BitVec.ofNat 2 (ws.length - 1) })

/-- An instruction line: its slot, its opcode and its fields. -/
def instr? (levels : List Nat) (ws : List String) : Option (Nat × Nat × ElemArgs) :=
  match ws with
  | label :: name :: rest => do
    let slot ← match partsOf (· == ':') label with | [e, ""] => numAfter? "e" 128 e | _ => none
    let (r, ps) ← mnemonic? name
    let isOpt (w : String) : Bool := w.toList.contains '='
    let plain := rest.filter fun w => !isOpt w
    let a ← suffixes? r ps
    let a ← operands? r a (plain.takeWhile (· != "->"))
    let ts ← ((plain.dropWhile (· != "->")).drop 1).mapM target?
    let ts ← if ts.length ≤ 3 then some ts else none
    let a := { a with t1 := ts.getD 0 Target.nil, t2 := ts.getD 1 Target.nil, t3 := ts.getD 2 Target.nil,
                      f6 := if r.wave then .wave 0 0 0 else .pred false 0, ma := if r.opc == 0x10E then .purge else .normal,
                      tagOp := match r.opc == 0x109, topLevel levels with | true, some l => nextOp l | _, _ => .keep }
    let a ← (rest.filter isOpt).foldlM (option? r.opc levels) a
    match elemReject r a with
    | some _ => none
    | none => some (slot, r.opc, a)
  | _ => none

/-! ## Node commands (R91 to R94, R196, R197, R206, R218, R222, R226) -/

/-- The V-form mnemonics with their opcodes. -/
def vecNames : List (String × Nat) :=
  [("vadd", 0x00), ("vsub", 0x01), ("vmul", 0x02), ("vfma", 0x03), ("vmax", 0x04), ("vmin", 0x05), ("vexp", 0x06), ("vrcp", 0x07),
   ("vrsq", 0x08), ("vtanh", 0x09), ("vsum", 0x0A), ("vmaxr", 0x0B), ("vscl", 0x0C), ("vcmp", 0x0D), ("vsel", 0x0E), ("vperm", 0x0F),
   ("vbcast", 0x10), ("vcvt", 0x11), ("vnoise", 0x14), ("vmask", 0x15), ("vargmax", 0x16)]

/-- The suffixes of R91 in the order of their codes. -/
def vtNames : List String := ["f32", "bf16x2", "f16x2", "s32"]

/-- The names of the formats of R90 in the order of their codes. -/
def fmtNames : List String := ["q4", "q8", "s8", "e4m3", "e5m2", "e2m1", "bf16", "fp16", "fp32", "s32"]

/-- A format by its name. -/
def fmt? (w : String) : Option Fmt := (nameIn? fmtNames w).bind fmtOf

/-- An operand code: a register, a port, or the zero vector. -/
def vecOperand? (w : String) : Option Nat :=
  match nameIn? ["pa", "pb", "pc", "pd", "vz"] w with
  | some i => some (16 + i)
  | none => numAfter? "w" 16 w

/-- Lane type and MOD of a V-form command from its suffixes; `vcvt` has `.rto` or `.hi` behind its last operand. -/
def vecSuffix? (op : Nat) (ps : List String) (mode : Option String) : Option (VType × Nat) :=
  match op == 0x11, op == 0x0D, ps, mode with
  | true, _, [d, t], m =>
    match nameIn? vtNames d, (nameIn? vtNames t).bind vtOf with
    | some d, some t =>
      let widens := d == 0 && (t == .bf16x2 || t == .f16x2)
      if d == 3 then none
      else match m with
        | none => some (t, d)
        | some w => if w == (if widens then "hi" else "rto") then some (t, d + 4) else none
    | _, _ => none
  | _, true, [c, t], none =>
    match nameIn? (condNames 0x087) c, (nameIn? vtNames t).bind vtOf with
    | some c, some t => some (t, c)
    | _, _ => none
  | false, false, [t], none => ((nameIn? vtNames t).bind vtOf).map fun t => (t, 0)
  | _, _, _, _ => none

/-- A vector command line. -/
def vector? (ws : List String) : Option Instr :=
  match ws with
  | ["vtile.rd", w, "tile", t, "row", n] =>
    match numAfter? "w" 16 w, (number? t).filter (· < 256), (number? n).filter (· < 16384) with
    | some w, some t, some n => some (.vtileRd (BitVec.ofNat 4 w) (BitVec.ofNat 8 t) (BitVec.ofNat 14 n))
    | _, _, _ => none
  | ["vtile.wr", w, "tile", t, "row", n] =>
    match numAfter? "w" 16 w, (number? t).filter (· < 256), (number? n).filter (· < 16384) with
    | some w, some t, some n => some (.vtileWr (BitVec.ofNat 4 w) (BitVec.ofNat 8 t) (BitVec.ofNat 14 n))
    | _, _, _ => none
  | name :: args => do
    let (base, ps) ← match dotted name with | b :: ps => some (b, ps) | [] => none
    let (_, op) ← vecNames.find? fun x => x.1 == base
    let row ← vecRow op
    let (args, mode) ← match args.getLast?.map dotted with
      | some [x, m] => some (args.dropLast ++ [x], some m)
      | some [_] => some (args, none)
      | _ => none
    let (vt, mod) ← vecSuffix? op ps mode
    let codes ← args.mapM vecOperand?
    let code (i : Nat) : BitVec 5 := BitVec.ofNat 5 (codes.getD i 0)
    let v : VArgs := { vt := vt, d := code 0, a := code 1, b := code 2, c := code 3, mod := BitVec.ofNat 3 mod }
    let usesB := if op == 0x11 then vcvtNarrow v else row.usesB
    if codes.length == 2 + b2n usesB + b2n row.usesC then some (row.make v) else none
  | [] => none

/-- The code of a group size (R93). -/
def grp? (w : String) : Option (BitVec 2) := ((afterW? "grp=" w).bind (nameIn? ["32", "64", "128"])).map (BitVec.ofNat 2)

/-- A bank. -/
def bank? (w : String) : Option Bool := (numAfter? "bank=" 2 w).map (· == 1)

/-- A matrix command line. -/
def matrix? (ws : List String) : Option Instr :=
  match ws.map dotted, ws with
  | ["mw", "load", f] :: _, [_, g, b, r] =>
    match fmt? f, grp? g, bank? b, numAfter? "rec=" 4096 r with
    | some f, some g, some b, some r => if f == .bf16 then none else some (.mwLoad f g b (BitVec.ofNat 12 r))
    | _, _, _, _ => none
  | ["mw", "load", "bf16"] :: _, [_, b, r] =>
    match bank? b, numAfter? "rec=" 4096 r with
    | some b, some r => some (.mwLoad .bf16 0 b (BitVec.ofNat 12 r))
    | _, _ => none
  | ["mw", "swap"] :: _, [_, b] => (bank? b).map .mwSwap
  | ["mm", "run", f] :: _, [_, a, n] =>
    match fmt? f, numAfter? "acc" 4 a, (numAfter? "n=" 8193 n).filter (0 < ·) with
    | some f, some a, some n => some (.mmRun f (BitVec.ofNat 2 a) (BitVec.ofNat 13 (n - 1)))
    | _, _, _ => none
  | ["mm", "zp"] :: _, [_, "tile", t] => ((number? t).filter (· < 256)).map fun t => .mmZp (BitVec.ofNat 8 t)
  | ["mm", "rec"] :: _, [_, b] => (bank? b).map .mmRec
  | ["mm", "end"] :: _, [_, a, p] =>
    match numAfter? "acc" 4 a, numAfter? "passes=" 65536 p with
    | some a, some c => some (.mmEnd (BitVec.ofNat 2 a) (BitVec.ofNat 16 c))
    | _, _ => none
  | _, _ => none

/-- An accumulator command line. -/
def acc? (ws : List String) : Option Instr :=
  match ws with
  | ["acc.cfg", e] => ((afterW? "exp=" e).bind integer?).bind fun e => if -127 ≤ e && e ≤ 128 then some (.accCfg (BitVec.ofNat 8 (e + 127).toNat)) else none
  | ["acc.rel"] => some .accRel
  | _ => none

/-- A converter command line. -/
def conv? (ws : List String) : Option Instr := do
  let (name, ws) ← match ws with | n :: ws => some (n, ws) | [] => none
  let (args, rto) := if ws.getLast? == some "rto" then (ws.dropLast, true) else (ws, false)
  match dotted name with
  | [op, d, s] =>
    let d ← fmt? d
    let s ← fmt? s
    match args with
    | [] => if op == "cvf" then some (.cvf s d rto) else none
    | [g, "tile", t] =>
      let g ← grp? g
      let t ← (number? t).filter (· < 256)
      let c : CvArgs := { s := s, d := d, rto := rto, grp := g, tile := BitVec.ofNat 8 t }
      if op == "cvq" then some (.cvq c) else if op == "cvdq" then some (.cvdq c) else none
    | _ => none
  | _ => none

/-- A command line of a handler of a kind: a command word that the kind's decoder takes (R95). -/
def command? (kind : NodeKind) (ws : List String) : Option Word := do
  let i ← match kind with | .vector => vector? ws | .matrix => matrix? ws | .acc => acc? ws | .conv => conv? ws
  let w ← match kind with | .vector => encodeVector i | _ => encodeMatrix i
  match decodeNode kind w with
  | .ok j => if j == i then some w else none
  | .error _ => none

end Sys2Proof.Machine.Sahas
end

