-- ==== Sys2Proof/Machine/Riuri.lean ====
section
/-! DEFINITION. Riuri on the body of a Finalma library: what it refuses (R344, R423), and the native images that stand for a body under a
placement (R224, R345). The placement is fixed for one kernel, implementation and grade, and the spec gives no algorithm for it: a constant
of Config without a body, of which a kernel that it does not fit is refused (assumption log 133). -/

namespace Sys2Proof.Machine.Riuri

open Sys2Proof Sys2Proof.Machine.Sahas

/-! ## The body (R344, R423) -/

/-- An element block: its name, the inputs and outputs that it declares, its lines, its block inputs with their slots, and the message words
that its outputs deliver. -/
structure Block where
  name : String
  nin : Nat
  nout : Nat
  levels : List Nat := []
  ins : List (Nat × Nat × Nat) := []
  outs : List (Nat × Nat × Nat) := []
  code : List (List String) := []
  deriving DecidableEq, Repr

/-- A node handler: its name, its kind and its command words. -/
structure NodeHandler where
  name : String
  kind : NodeKind
  cmds : List Word := []
  deriving DecidableEq, Repr

/-- What a message type is bound to. -/
inductive BodyUnit where
  | block (b : Block)
  | node (h : NodeHandler)
  deriving DecidableEq, Repr

def BodyUnit.name : BodyUnit → String
  | .block b => b.name
  | .node h => h.name

/-- What the lines of a body declare: the block or handler that is open, those that are closed, the messages, and the ports that deliver. -/
structure Body where
  opened : Option BodyUnit := none
  units : List BodyUnit := []
  msgs : List (Nat × String) := []
  ports : List (String × String × Nat × Nat) := []
  deriving DecidableEq, Repr

/-- The kinds of node that a handler may be written for (R106). -/
def kind? (w : String) : Option NodeKind :=
  match nameIn? ["vector", "matrix", "accumulator", "converter"] w with
  | some 0 => some .vector
  | some 1 => some .matrix
  | some 2 => some .acc
  | some 3 => some .conv
  | _ => none

/-- The level widths of `.ctx`: at most 12 levels and 48 bits (R105). -/
def levels? (w : String) : Option (List Nat) :=
  match (afterW? "levels=" w).bind fun v => (partsOf (· == ',') v).mapM widthCode? with
  | some ls => if ls.length ≤ 12 && (ls.map fun c => 4 * (c + 1)).sum ≤ 48 then some ls else none
  | none => none

/-- An in-block operand slot. -/
def slotTarget? (w : String) : Option (Nat × Nat) :=
  match dotted w with
  | [e, s] => match numAfter? "e" 128 e, slotOf? s with | some n, some os => some (n, os) | _, _ => none
  | _ => none

/-- A message number and a word, `n.j`. -/
def msgWord? (w : String) : Option (Nat × Nat) :=
  match dotted w with
  | [n, j] => match number? n, number? j with | some n, some j => some (n, j) | _, _ => none
  | _ => none

/-- A line outside blocks and handlers. -/
def topLine (b : Body) (ws : List String) : Option Body :=
  match ws with
  | [".block", name, i, o] =>
    match numAfter? "inputs=" 33 i, numAfter? "outputs=" 33 o with
    | some n, some m => some { b with opened := some (.block { name := name, nin := n, nout := m }) }
    | _, _ => none
  | [".handler", name, k] => ((afterW? "node=" k).bind kind?).map fun k => { b with opened := some (.node { name := name, kind := k }) }
  | [".msg", n, name] => (number? n).map fun n => { b with msgs := b.msgs ++ [(n, name)] }
  | [".port", name, p, "->", "msg", n] => (number? n).map fun n => { b with ports := b.ports ++ [(name, p, n, 0)] }
  | [".port", name, p, "->", "msg", n, l] =>
    match number? n, numAfter? "lanes=" 5 l with
    | some n, some l => some { b with ports := b.ports ++ [(name, p, n, l)] }
    | _, _ => none
  | _ => none

/-- A line of a block; instruction lines are kept, since `.ctx` may stand behind them. -/
def blockLine (b : Block) (ws : List String) : Option Block :=
  match ws with
  | [".ctx", l] => (levels? l).map fun ls => { b with levels := ls }
  | [".in", k, "->", t] =>
    match (number? k).filter (· < b.nin), slotTarget? t with
    | some k, some (n, os) => some { b with ins := b.ins ++ [(k, n, os)] }
    | _, _ => none
  | [".out", k, "->", "msg", w] =>
    match (number? k).filter (· < b.nout), msgWord? w with
    | some k, some x => some { b with outs := b.outs ++ [(k, x)] }
    | _, _ => none
  | w :: _ => if begins "." w then none else some { b with code := b.code ++ [ws] }
  | [] => some b

/-- One line. -/
def line (b : Option Body) (l : List Char) : Option Body :=
  b.bind fun b =>
    match words l, b.opened with
    | [], _ => some b
    | ws, none => topLine b ws
    | [".endblock"], some (.block x) => some { b with opened := none, units := b.units ++ [.block x] }
    | [".endhandler"], some (.node h) => some { b with opened := none, units := b.units ++ [.node h] }
    | ws, some (.block x) => (blockLine x ws).map fun x => { b with opened := some (.block x) }
    | ws, some (.node h) => (command? h.kind ws).map fun c => { b with opened := some (.node { h with cmds := h.cmds ++ [c] }) }

/-- What a body declares; none where one of its lines is no line of R423. -/
def parse (body : List Byte) : Option Body :=
  if body.any fun x => 128 ≤ x.toNat then none
  else (splitOn (· == '\n') (body.map fun x => Char.ofNat x.toNat)).foldl line (some {})

/-- The instructions of a block: slot, opcode and fields. -/
def Block.elems? (b : Block) : Option (List (Nat × Nat × ElemArgs)) := b.code.mapM (instr? b.levels)

/-- Opcodes that no portable handler may hold (R344): those that wait, those of the sequence, KV and Serpent range, which have no name here,
and those that change levels. -/
def refusedOpcs : List Nat := [0x106, 0x107, 0x108, 0x10B, 0x10C, 0x10D, 0x144, 0x146, 0x14F, 0x1A1, 0x1A4]

/-- Whether a portable handler may hold an instruction (R344). -/
def instrOk (opc arity : Nat) : Bool :=
  !refusedOpcs.contains opc && !(0x1C0 ≤ opc && opc ≤ 0x1CD) && !(opc == 0x14B && arity == 2)

/-- The outputs that an element's targets name. -/
def outsOf (a : ElemArgs) : List Nat := [a.t1, a.t2, a.t3].filterMap fun t => match t.dest with | .out k => some k.toNat | _ => none

/-- The fields of an element as its frame holds them. -/
def slotCfg (opc : Nat) (a : ElemArgs) : SlotCfg := let x := encodeElem opc a; { f := x.f.map some, wide := x.wide }

/-- The frame that a block's lines fill. -/
def Block.frame (b : Block) (es : List (Nat × Nat × ElemArgs)) : Frame :=
  { nin := b.nin, nout := b.nout, slots := es.map fun e => (e.1, slotCfg e.2.1 e.2.2), bins := b.ins }

/-- Whether a block is one of a portable kernel: its instructions assemble, none is of R344, each slot stands once, no load check blocks an
element (R107), and every output that a target names delivers a message word. -/
def Block.ok (b : Block) : Bool :=
  match b.elems? with
  | none => false
  | some es =>
    let fr := b.frame es
    decide (es.map (·.1)).Nodup && (es.all fun e => instrOk e.2.1 (e.2.2.arity.toNat + 1)) &&
    (fr.blockedElems 0 (fr.slots.map fun (x : Nat × SlotCfg) => fr.placed 0 x.1 x.2)).isEmpty &&
    es.all fun e => (outsOf e.2.2).all fun k => b.outs.any (·.1 == k)

/-- The commands of a handler. -/
def NodeHandler.instrs (h : NodeHandler) : List Instr := h.cmds.filterMap fun w => (decodeNode h.kind w).toOption

/-- Whether a handler is one of a portable kernel: 1 to 32 commands, whose read set is the message on port a, and a message for every port
that they emit on (R344, R423). -/
def NodeHandler.ok (h : NodeHandler) (ports : List (String × String × Nat × Nat)) : Bool :=
  1 ≤ h.cmds.length && h.cmds.length ≤ 32 && (h.kind != .vector || h.instrs.all fun i => (vecSources i).all (· == 0)) &&
  (h.kind != .conv || h.instrs.all (convFits 1)) &&
  (handlerDests (some h.kind) h.instrs).all fun p => ports.any fun x => x.1 == h.name && x.2.1 == ["pa", "pb", "pc", "pd"].getD p ""

/-- The block or handler that a message type is bound to. -/
def Body.unit (b : Body) (n : Nat) : Option BodyUnit :=
  (b.msgs.find? fun m => m.1 == n).bind fun m => b.units.find? fun u => u.name == m.2

/-- Whether a message type takes word `j`: a block has an input for it, a handler takes word 0 alone. -/
def Body.takes (b : Body) (n j : Nat) : Bool :=
  match b.unit n with
  | none => false
  | some (.block x) => j < x.nin
  | some (.node _) => j == 0

/-- Whether a `.port` line is one of R423. -/
def Body.portOk (b : Body) (p : String × String × Nat × Nat) : Bool :=
  let (name, port, n, lanes) := p
  let from? (h : NodeHandler) : Bool := h.name == name && (port != "acc" || h.kind == .matrix)
  (b.units.any fun u => match u with | .node h => from? h | .block _ => false) &&
  if port == "acc" then 1 ≤ lanes && b.takes n (lanes - 1) else ["pa", "pb", "pc", "pd"].contains port && lanes == 0 && b.takes n 0

/-- Whether a body breaks neither R344 nor R423: message types are 0 to 4,095, each block and handler is bound exactly once, and every word
and packet goes to a message type that takes it. -/
def Body.ok (b : Body) : Bool :=
  b.opened.isNone && decide (b.msgs.map (·.1)).Nodup && decide (b.units.map (·.name)).Nodup &&
  decide (b.ports.map fun p => (p.1, p.2.1)).Nodup &&
  (b.msgs.all fun m => m.1 < 4096 && b.units.any fun u => u.name == m.2) &&
  (b.units.all fun u => (b.msgs.filter fun m => m.2 == u.name).length == 1) && b.ports.all b.portOk &&
  b.units.all fun u => match u with
    | .block x => x.ok && x.outs.all fun o => b.takes o.2.1 o.2.2
    | .node h => h.ok b.ports

/-- Whether Riuri takes a body. -/
def bodyOk (body : List Byte) : Bool := match parse body with | some b => b.ok | none => false

/-! ## The placement (R224, R345) -/

/-- The block of a message type, and the node handler. -/
def Body.block? (b : Body) (n : Nat) : Option Block := match b.unit n with | some (.block x) => some x | _ => none
def Body.node? (b : Body) (n : Nat) : Option NodeHandler := match b.unit n with | some (.node h) => some h | _ => none

/-- A handler of a node under a placement, a converter's among them: core, node-port index, task type, place, kind and commands. -/
structure Bound where
  core : Nat
  node : Nat
  task : Nat
  image : Nat
  kind : NodeKind
  cmds : List Word
  deriving DecidableEq, Repr

/-- The node handlers that a placement binds: those of the body, in the order of their spots, then those of the edges. -/
def Body.bounds (b : Body) (p : RiuriPlacement) : List Bound :=
  (p.spots.filterMap fun x => (b.node? x.msg).map fun h =>
    { core := x.core, node := x.unit, task := x.task, image := x.image, kind := h.kind, cmds := h.cmds }) ++
  p.edges.map fun e => { core := e.core, node := e.node, task := e.task, image := e.image, kind := .conv, cmds := [e.cmd] }

/-- The frames that a placement uses, the empty blocks' among them. -/
def Body.frames (b : Body) (p : RiuriPlacement) : List (Nat × Nat) :=
  (p.spots.filter fun x => (b.block? x.msg).isSome).map (fun x => (x.core, x.unit)) ++ p.empties.map fun e => (e.1, e.2.1)

/-- Where a message type stands: the spot of its handler, or the converter that its packets go through first. -/
inductive Dest where
  | frame (core f : Nat)
  | node (core n task : Nat)
  deriving DecidableEq, Repr

def Dest.core : Dest → Nat
  | .frame k _ | .node k _ _ => k

def Body.dest (b : Body) (p : RiuriPlacement) (n : Nat) : Option Dest :=
  match p.edges.find? fun e => e.msg == n with
  | some e => some (.node e.core e.node e.task)
  | none => (p.spots.find? fun x => x.msg == n).map fun x =>
    if (b.block? n).isSome then .frame x.core x.unit else .node x.core x.unit x.task

/-- Whether a placement fits the kernel (R345): every message type is placed once, a block in one of 8 frames of a core and a node handler
at one of 64 task types of a node of its kind, no place is used twice, block outputs lead to frames and nodes of their own core and node
ports within their cluster, a converter stands on the core of the handler that it serves, and an empty block stands exactly on each core
that has node handlers and no other block. -/
def Body.fits (b : Body) (p : RiuriPlacement) : Bool :=
  let bs := b.bounds p
  let fs := b.frames p
  let core (n : Nat) : Option Nat := (b.dest p n).map Dest.core
  decide (p.spots.map (·.msg)).Nodup && (b.msgs.all fun m => p.spots.any fun x => x.msg == m.1) && p.spots.length == b.msgs.length &&
  decide fs.Nodup && (fs.all fun f => f.2 < 8) && decide (bs.map fun x => (x.core, x.node, x.task)).Nodup &&
  (bs.all fun x => nodeKindOf x.node == some x.kind && x.task < 64 && x.image < 2 ^ 14) &&
  decide (p.edges.map (·.msg)).Nodup &&
  (p.edges.all fun e => (decodeNode .conv e.cmd).toOption.isSome && (b.node? e.msg).isSome &&
    p.spots.any fun x => x.msg == e.msg && x.core == e.core) &&
  (p.spots.all fun x => match b.unit x.msg with
    | some (.block y) => y.outs.all fun o => core o.2.1 == some x.core
    | some (.node h) => b.ports.all fun q => q.1 != h.name || (core q.2.2.1).any fun k => k / 4 == x.core / 4
    | none => false) &&
  (p.empties.all fun e => bs.any fun x => x.core == e.1) && decide (p.empties.map (·.1)).Nodup &&
  (p.empties.all fun e => !p.spots.any fun x => x.core == e.1 && (b.block? x.msg).isSome) &&
  bs.all fun x => fs.any fun f => f.1 == x.core

/-! ## The native images (R100, R345, R423) -/

/-- The words of a field of a slot: the WIDE word ahead of an F4 that has one, and no word for a field of 0 but F0 (R73, R74). -/
def fieldWords (slot : Nat) (x : SlotFields) : List Word :=
  x.f.zipIdx.flatMap fun f =>
    let w := (encodeConfig (.field (BitVec.ofNat 7 slot) (BitVec.ofNat 3 f.2) (BitVec.ofNat 20 f.1))).toList
    match f.2 == 4, x.wide with
    | true, some u => (encodeConfig (.wide (u.setWidth 20))).toList ++ w
    | _, _ => if f.2 == 0 || f.1 != 0 then w else []

/-- The task types of the node messages that an element's targets deliver. -/
def tasksOf (b : Body) (p : RiuriPlacement) (x : Block) (a : ElemArgs) : List Nat :=
  (outsOf a).filterMap fun k => (x.outs.reverse.find? fun o => o.1 == k).bind fun o =>
    match b.dest p o.2.1 with | some (.node _ _ t) => some t | _ => none

/-- An element as Riuri places it: what it sends to a node carries the task type of its message (R423); none where two of its targets want
different ones. -/
def placeElem (b : Body) (p : RiuriPlacement) (x : Block) (e : Nat × Nat × ElemArgs) : Option (List Word) :=
  match tasksOf b p x e.2.2 with
  | [] => some (fieldWords e.1 (encodeElem e.2.1 e.2.2))
  | t :: ts => if ts.all (· == t) then some (fieldWords e.1 (encodeElem e.2.1 { e.2.2 with task := BitVec.ofNat 6 t })) else none

/-- The word that binds a block output: to an input of a frame of the same core, to port a of a node, or, for an output that no line
delivers and no element sends to, to the commit node. -/
def boutWord (b : Body) (p : RiuriPlacement) (f : Nat) (x : Block) (k : Nat) : Option Word :=
  let out := BitVec.ofNat 5 k
  match x.outs.reverse.find? fun o => o.1 == k with
  | none => encodeConfig (.boutNodePort out 34 0)
  | some (_, n, j) =>
    match b.dest p n with
    | none => none
    | some (.frame _ g) => if f == g then encodeConfig (.boutThisInput out (BitVec.ofNat 5 j))
      else encodeConfig (.boutFrameInput out (BitVec.ofNat 3 g) (BitVec.ofNat 5 j))
    | some (.node _ m _) => encodeConfig (.boutNodePort out (BitVec.ofNat 7 m) 0)

/-- CNEXT of kind ENTRY. -/
def entryWord : Option Word := encodeConfig (.cnext 3 0 .keep)

/-- The HBIND words that the image in a frame carries: those of its core's node handlers, if it is the lowest frame used there (R345). -/
def hbinds (b : Body) (p : RiuriPlacement) (k f : Nat) : Option (List Word) :=
  if (b.frames p).any fun g => g.1 == k && g.2 < f then some []
  else ((b.bounds p).filter fun x => x.core == k).mapM fun x =>
    encodeConfig (.hbind (BitVec.ofNat 6 x.node) (BitVec.ofNat 6 x.task) (BitVec.ofNat 14 x.image))

/-- The configuration words of a block in a frame: OPEN, its bindings, a CNEXT of kind ENTRY and no commit set, its elements, the HBIND
words, CLOSE. -/
def blockWords (b : Body) (p : RiuriPlacement) (k f : Nat) (x : Block) : Option (List Word) := do
  let es ← x.elems?
  let opening ← encodeConfig (.frameOpen 0 (BitVec.ofNat 6 x.nin) (BitVec.ofNat 6 x.nout))
  let bins ← x.ins.mapM fun i => encodeConfig (.frameBin (BitVec.ofNat 5 i.1) (BitVec.ofNat 7 i.2.1) (BitVec.ofNat 2 i.2.2))
  let bouts ← (List.range x.nout).mapM (boutWord b p f x)
  let next ← entryWord
  let fields ← es.mapM (placeElem b p x)
  let hs ← hbinds b p k f
  let closing ← encodeConfig (.frameClose 0)
  some ([opening] ++ bins ++ bouts ++ [next] ++ fields.flatten ++ hs ++ [closing])

/-- An image: its header (R100, of any grade), then its words; none where the count is out of range. -/
def imageBytes (low : Nat) (ws : List Word) : Option (List Byte) :=
  if ws.length < 4096 then
    some (([BitVec.ofNat 32 0x53424C4B, BitVec.ofNat 32 (Config.implId * 2 ^ 16), BitVec.ofNat 32 (ws.length * 2 ^ 16 + low), 0] ++ ws).flatMap fun w =>
      leBytes w.toNat 4)
  else none

/-- The images of a kernel with their places, in units of 256 bytes. -/
def imagesOf (b : Body) (p : RiuriPlacement) : Option (List (Nat × List Byte)) := do
  let blocks ← (p.spots.filter fun x => (b.block? x.msg).isSome).mapM fun x => do
    let blk ← b.block? x.msg
    let ws ← blockWords b p x.core x.unit blk
    let im ← imageBytes 0 ws
    some (x.image, im)
  let empties ← p.empties.mapM fun e => do
    let ws ← blockWords b p e.1 e.2.1 { name := "", nin := 0, nout := 0 }
    let im ← imageBytes 0 ws
    some (e.2.2, im)
  let handlers ← (b.bounds p).mapM fun x => (imageBytes (kindCode x.kind * 4 + 1) x.cmds).map fun im => (x.image, im)
  some (blocks ++ empties ++ handlers)

/-- Put an image behind those of lower places. -/
def insertImage (x : Nat × List Byte) : List (Nat × List Byte) → List (Nat × List Byte)
  | [] => [x]
  | y :: t => if x.1 < y.1 then x :: y :: t else y :: insertImage x t

/-- The images at their places, with zeros between them; none where two of them overlap. -/
def joinImages (xs : List (Nat × List Byte)) : Option (List Byte) :=
  xs.foldl (fun out x => out.bind fun o => if o.length ≤ 256 * x.1 then some (o ++ List.replicate (256 * x.1 - o.length) 0 ++ x.2) else none) (some [])

/-- The native images of a kernel under a placement; none where it does not fit. -/
def layout (b : Body) (p : RiuriPlacement) : Option (List Byte) :=
  if b.fits p then (imagesOf b p).bind fun xs => joinImages (xs.foldr insertImage []) else none

/-- Why Riuri does not translate a body: it breaks R344 or R423 or does not fit (R345), or an edge is left without a converter on its path,
which only a core mapped out as a spare can cause (R224). -/
inductive Unplaced where
  | unfit
  | noConverter
  deriving DecidableEq, Repr

/-- Riuri on a body (R224, R344, R345, R404): the native images, or why it refuses. `lost` tells the cores that are mapped out. -/
def translate (lost : Nat → Bool) (body : List Byte) : Except Unplaced (List Byte) :=
  match parse body with
  | none => .error .unfit
  | some b =>
    let p := Config.riuriPlace body Config.implId Config.grade
    if !b.ok then .error .unfit
    else if p.edges.any fun e => lost (e.core % 64) then .error .noConverter
    else match layout b p with
      | none => .error .unfit
      | some out => .ok out

end Sys2Proof.Machine.Riuri
end

