-- ==== Sys2Proof/Machine/Seal.lean ====
section
/-! DEFINITION. The security commands: SEAL.LOAD (R400 to R402), KERNEL.ADMIT (R403 to R405), SESSION.OPEN (R407, R408), REPLY.BIND (R411)
and USAGE.SIGN (R412 to R415). What needs a secret of the device is a constant of Config without a body. -/

namespace Sys2Proof.Machine

open Sys2Proof

/-! ## Bytes at a command's addresses -/

/-- Bytes `i` to `i + n - 1` of a buffer. -/
def cut (bs : List Byte) (i n : Nat) : List Byte := fitBytes n (bs.drop i)
def isZero (bs : List Byte) : Bool := bs.all (· == 0#8)
def num (bs : List Byte) (i n : Nat) : Nat := ofLeBytes (cut bs i n)

/-- An aligned OPEN buffer of a command; none where it is misaligned or cannot be read. -/
def State.openBuffer (s : State) (asid va n align : Nat) : Option (List Byte) × State :=
  if va % align != 0 then (none, s)
  else match s.queueRead asid va n with
    | (.ok bs, s) => (some bs, s)
    | (.error _, s) => (none, s)

/-- Whether an aligned OPEN buffer may be written. -/
def State.openSpan (s : State) (asid va n align : Nat) : Bool × State :=
  if va % align != 0 then (false, s)
  else match s.translateAll none none asid (pageParts va n) with
    | (none, s) => (false, s)
    | (some ps, s) => ((s.sysCheck ps true clsOpen).isNone, s)

/-- The translations of the pages of a destination, or the status of the first page that fails: BADADDR, or LOCKED (R405). A page that is
written fails also where its home slice refuses the write (R382). -/
def State.sealPages (s : State) (asid : Nat) (wr : Bool) (ok : Trans → Bool) : List (Nat × Nat) → Except (Nat × Nat) (List Piece) × State
  | [] => (.ok [], s)
  | (va, n) :: rest =>
    match s.translate none none asid va with
    | (none, s) => (.error (stBadAddr, va), s)
    | (some t, s) =>
      if !ok t then (.error (stBadAddr, va), s)
      else if !t.host && (Tab.find? s.locks (t.pa / 65536)).isSome then (.error (stLocked, va), s)
      else if wr && (s.piecesFault [{ t := t, n := n }] true).isSome then (.error (stBadAddr, va), s)
      else match s.sealPages asid wr ok rest with
        | (.error e, s) => (.error e, s)
        | (.ok ps, s) => (.ok ({ t := t, n := n } :: ps), s)

/-- The domain of a partition by number. -/
def State.domain (s : State) (p sdom : Nat) : Domain := Tab.get {} (s.part p).domains sdom
def State.setDomain (s : State) (p sdom : Nat) (d : Domain) : State :=
  s.onPart p fun x => { x with domains := Tab.set x.domains sdom d }

/-- Run a security command for the partition of its queue. -/
def onSealCommand (s : State) (act : State → Nat → Nat → Nat → State) : Out :=
  onCommand s fun s q =>
    match s.asidPart (s.queue q).asid with
    | some p => act s q p (s.queue q).asid
    | none => s.completeHead q (match s.runningCmd q with | some i => headerOf i | none => {}) stDenied

/-! ## SEAL.LOAD (R400 to R402) -/

/-- The measurement of Celadon firmware. -/
def mcel : List Byte := fitBytes 32 (Config.deviceBytes 1)

/-- Whether the clear fields of a seal package are well formed for this device (R401). -/
def packageOk (bs : List Byte) : Bool :=
  num bs 0 4 == 0x5345414C && num bs 4 4 == 2 ^ 16 + Config.implId && num bs 8 4 == 1200 && num bs 12 4 == 0 && cut bs 16 32 == mcel &&
  isZero (cut bs 48 16)

/-- The plaintext body of a seal package, none where it cannot be unwrapped (R401). -/
def unwrap (bs : List Byte) : Option (List Byte) :=
  if !Crypto.onP384 (cut bs 64 96) then none
  else
    let (e, k) := Config.sealSecrets (cut bs 64 96) (cut bs 160 1568)
    let aad := cut bs 0 64
    (Crypto.gcmDecrypt (Crypto.shake256 (k ++ e ++ aad) 32) (List.replicate 12 0#8) aad (cut bs 1728 1200) (cut bs 2928 16)).map
      (fitBytes 1200)

/-- Counts of a policy body: peers, keys and graphs. -/
def policyCounts (body : List Byte) : Nat × Nat × Nat := (num body 40 1, num body 41 1, num body 42 2)

/-- Whether the unused parts of a policy body are zero. -/
def bodyOk (body : List Byte) : Bool :=
  let (p, k, g) := policyCounts body
  isZero (cut body 44 4) && isZero (cut body (48 + 32 * p) (128 - 32 * p)) && isZero (cut body (176 + 64 * k) (512 - 64 * k)) &&
  isZero (cut body (688 + 8 * g) (512 - 8 * g))

/-- The domain that a policy body creates (R401); its keys are those of a new draw. -/
def domainOf (body : List Byte) (draw : Nat) : Domain :=
  let (p, k, g) := policyCounts body
  { live := true, keyEpoch := draw, tdid := BitVec.ofNat 64 (num body 32 8), peers := (List.range p).map fun i => cut body (48 + 32 * i) 32,
    keys := (List.range k).map fun i => cut body (176 + 64 * i) 64,
    graphs := (List.range g).map fun i => BitVec.ofNat 64 (num body (688 + 8 * i) 8),
    digest := Crypto.shake256 (body.drop 32) 32, wkey := cut body 0 32 }

/-- Whether a trust domain is refused: it is not 0 and differs from that of a live domain of the package (R402). -/
def State.tdidRefused (s : State) (tdid : DWord) : Bool :=
  tdid != 0 && s.parts.any fun (p : Nat × Partition) => p.2.domains.any fun (d : Nat × Domain) => d.2.live && d.2.tdid != tdid

/-- R402 SEAL.LOAD CREATE. -/
def execSealLoadCreate (h : CmdHeader) (c : SealCmd) (s : State) : Out :=
  onSealCommand s fun s q p asid =>
    if !(s.part p).sealing then s.completeHead q h stNotSealed
    else if (s.domain p c.sdom.toNat).live then s.completeHead q h stDenied
    else match s.openBuffer asid c.src.toNat 2944 64 with
      | (none, s) => s.completeHead q h stBadAddr 0 c.src.toNat
      | (some bs, s) =>
        if !packageOk bs then s.completeHead q h stBadSeal
        else match unwrap bs with
          | none => s.completeHead q h stBadSeal
          | some body =>
            let (np, nk, ng) := policyCounts body
            let tdid : DWord := BitVec.ofNat 64 (num body 32 8)
            if !bodyOk body then s.completeHead q h stBadSeal
            else if 4 < np || nk == 0 || 8 < nk || ng == 0 || 64 < ng || s.tdidRefused tdid then
              s.completeHead q h stPolicy
            else
              let s := { s with draws := s.draws + 1 }
              (s.setDomain p c.sdom.toNat (domainOf body s.draws)).completeHead q h stOk

/-- Bytes of a chunk. -/
def chunkBytes : Nat := 65536

/-- Whether the header of a weight blob is well formed (R402). -/
def blobOk (bs : List Byte) : Bool := num bs 0 4 == 0x57424C42 && isZero (cut bs 4 4) && isZero (cut bs 16 48)

/-- Import chunk `i` and the `n` after it: the failing chunk or address, or nothing. -/
def State.importChunks (s : State) (asid src total first : Nat) (wkey : List Byte) (i : Nat) : List Piece → Option (Nat × Nat × Nat) × State
  | [] => (none, s)
  | pg :: rest =>
    match s.queueRead asid (src + 64 + chunkBytes * i) chunkBytes with
    | (.error _, s) => (some (stBadAddr, 0, src + 64 + chunkBytes * i), s)
    | (.ok ct, s) =>
      let ta := src + 64 + chunkBytes * total + 16 * i
      match s.queueRead asid ta 16 with
      | (.error _, s) => (some (stBadAddr, 0, ta), s)
      | (.ok tag, s) =>
        let j := leBytes (first + i) 8
        match Crypto.gcmDecrypt wkey (j ++ leBytes 1 4) j ct tag with
        | none => (some (stBadSeal, i, 0), s)
        | some pt => (s.physPut false pg.t (fitBytes chunkBytes pt)).importChunks asid src total first wkey (i + 1) rest

/-- R402 SEAL.LOAD IMPORT. -/
def execSealLoadImport (h : CmdHeader) (c : SealCmd) (s : State) : Out :=
  onSealCommand s fun s q p asid =>
    let d := s.domain p c.sdom.toNat
    let n := c.nchunk.toNat
    if !(s.part p).sealing then s.completeHead q h stNotSealed
    else if !d.live then s.completeHead q h stDenied
    else if c.dst.toNat % 65536 != 0 then s.completeHead q h stBadAddr 0 c.dst.toNat
    else match s.openBuffer asid c.src.toNat 64 64 with
      | (none, s) => s.completeHead q h stBadAddr 0 c.src.toNat
      | (some bs, s) =>
        match s.sealPages asid true (fun t => t.cls == 1 && t.sdom == c.sdom.toNat) (pageParts c.dst.toNat (chunkBytes * n)) with
        | (.error (st, va), s) => s.completeHead q h st 0 va
        | (.ok ps, s) =>
          if !blobOk bs then s.completeHead q h stBadSeal
          else match s.importChunks asid c.src.toNat n (num bs 8 8) d.wkey 0 ps with
            | (some (st, d0, d1), s) => s.settle.completeHead q h st d0 d1
            | (none, s) => s.settle.completeHead q h stOk

/-- Whether a domain is in use by a launch or by a sequence slot (R402). -/
def State.domainBusy (s : State) (p sdom : Nat) : Bool :=
  let x := s.part p
  (s.launches.any fun (l : Nat × Launch) => l.2.part == some p && l.2.sdom? == some sdom) ||
  s.slots.any fun (r : Nat × SeqRec) => x.slot0 ≤ r.1 && r.1 < x.slot0 + x.nslot && r.2.st != .free && r.2.sdv && r.2.sdom == sdom

/-- A domain ends: its sessions, bindings, admissions, locks, slice lines and keys with it (R402). -/
def State.destroyDomain (s : State) (p sdom : Nat) : State :=
  let gone := ((s.part p).admissions.filter fun a => a.sdom == sdom).map (·.aid)
  let shut (y : Session) : Session := if y.part == p && y.sdom == sdom then { gen := y.gen } else y
  let sealed_ (t : LineTag) : Bool := 1 ≤ t.cls && t.cls ≤ 4 && t.part == p && t.sdom == sdom
  let s := s.onPart p fun x =>
    { x with domains := Tab.del x.domains sdom, bindings := x.bindings.filter fun (b : Nat × Binding) => b.2.sdom != sdom,
             admissions := x.admissions.filter fun a => a.sdom != sdom }
  { s.dropLines (fun l => (Tab.find? s.cache l).any sealed_) with
      sessions := s.sessions.map fun (y : Nat × Session) => (y.1, shut y.2)
      locks := s.locks.filter fun (l : Nat × Nat × Nat) => !(l.2.1 == p && gone.contains l.2.2) }

/-- R402 SEAL.LOAD DESTROY. -/
def execSealLoadDestroy (h : CmdHeader) (c : SealCmd) (s : State) : Out :=
  onSealCommand s fun s q p _ =>
    let d := c.sdom.toNat
    if !(s.part p).sealing then s.completeHead q h stNotSealed
    else if !(s.domain p d).live then s.completeHead q h stDenied
    else if s.domainBusy p d then s.completeHead q h stDomBusy
    else (s.destroyDomain p d).completeHead q h stOk

/-! ## KERNEL.ADMIT (R403 to R405, R424) -/

/-- Bytes of an XMSS^MT signature (R414). -/
def sigBytes : Nat := 27688

/-- Whether the clear fields of a library header are well formed (R403). -/
def libraryOk (hd : List Byte) : Bool :=
  num hd 0 4 == 0x464E4C4D && num hd 4 4 == 2 ^ 16 && num hd 12 4 < 16 && isZero (cut hd 24 40)

/-- What a library holds: header, body and signature; none where R404 case 1 refuses it. -/
def State.readLibrary (s : State) (asid src : Nat) : Option (List Byte × List Byte × List Byte) × State :=
  match s.openBuffer asid src 64 64 with
  | (none, s) => (none, s)
  | (some hd, s) =>
    if !libraryOk hd then (none, s)
    else
      let n := num hd 8 4
      match s.queueRead asid (src + 64) (n + sigBytes) with
      | (.error _, s) => (none, s)
      | (.ok bs, s) => (some (hd, bs.take n, bs.drop n), s)

/-- Why a library is refused in a sealed partition (R404 cases 2 to 4). -/
def Domain.refusal (d : Domain) (hd body sig : List Byte) : Option Nat :=
  match d.keys[num hd 12 4]? with
  | none => some 0x03
  | some key =>
    if !Crypto.xmssVerify key (hd ++ body) sig then some 0x02
    else if !d.graphs.contains (BitVec.ofNat 64 (num hd 16 8)) then some 0x04
    else none

/-- Data filled with zeros to whole lines (R424). -/
def wholeLines (bs : List Byte) : List Byte := fitBytes ((bs.length + 127) / 128 * 128) bs

/-- The lowest admission identifier that a partition does not use. -/
def Partition.freeAid (p : Partition) : Option Nat := (span 1 4095).find? fun a => !p.admissions.any fun x => x.aid == a

/-- An admission takes effect: the images are written, and in a sealed partition their frames are locked (R404). -/
def State.admitKernel (s : State) (p sdom aid : Nat) (ps : List Piece) (out digest : List Byte) : State :=
  let s := s.putPieces ps out
  let s := s.onPart p fun x =>
    { x with admissions := x.admissions ++ [{ aid := aid, part := p, sdom := sdom, digest := digest }] }
  if (s.part p).sealing then
    { s with locks := (ps.filter fun x => !x.t.host).foldl (fun t x => Tab.set t (x.t.pa / 65536) (p, aid)) s.locks }
  else s

/-- R404 KERNEL.ADMIT LIBRARY. -/
def execKernelAdmitLibrary (h : CmdHeader) (c : AdmitCmd) (s : State) : Out :=
  onSealCommand s fun s q p asid =>
    let d := s.domain p c.sdom.toNat
    let sealed_ := (s.part p).sealing
    if sealed_ && !d.live then s.completeHead q h stDenied
    else if c.dst.toNat % 65536 != 0 then s.completeHead q h stBadAddr 0 c.dst.toNat
    else if c.src.toNat % 64 != 0 then s.completeHead q h stBadAddr 0 c.src.toNat
    else match s.readLibrary asid c.src.toNat with
      | (none, s) => s.completeHead q h stSig 0x01
      | (some (hd, body, sig), s) =>
        match if sealed_ then d.refusal hd body sig else none with
        | some why => s.completeHead q h stSig why
        | none =>
          match Riuri.translate s.coreLost body with
          | .error .noConverter => s.completeHead q h stBadNode
          | .error .unfit => s.completeHead q h stBadImage 0 c.dst.toNat
          | .ok out =>
            let out := wholeLines out
            if 65536 * c.size.toNat < out.length then s.completeHead q h stBadImage 0 c.dst.toNat
            else match s.sealPages asid true (fun t => t.cls == 5 && !(sealed_ && t.host)) (pageParts c.dst.toNat out.length) with
              | (.error (st, va), s) => s.completeHead q h st 0 va
              | (.ok ps, s) =>
                let mine := (s.part p).admissions.filter fun a => a.sdom == c.sdom.toNat
                match if sealed_ && 64 ≤ mine.length then none else (s.part p).freeAid with
                | none => s.completeHead q h stDomFull
                | some aid => (s.admitKernel p c.sdom.toNat aid ps out (Crypto.shake256 (hd ++ body) 32)).completeHead q h stOk aid

/-- R404 KERNEL.ADMIT RAW. -/
def execKernelAdmitRaw (h : CmdHeader) (c : AdmitCmd) (s : State) : Out :=
  onSealCommand s fun s q _ asid =>
    if c.dst.toNat % 256 != 0 then s.completeHead q h stBadAddr 0 c.dst.toNat
    else match s.openBuffer asid c.src.toNat c.size.toNat 64 with
      | (none, s) => s.completeHead q h stBadAddr 0 c.src.toNat
      | (some bs, s) =>
        let out := wholeLines bs
        match s.sealPages asid true (fun t => t.cls == 5) (pageParts c.dst.toNat out.length) with
        | (.error (st, va), s) => s.completeHead q h st 0 va
        | (.ok ps, s) => (s.putPieces ps out).completeHead q h stOk

/-- R404 KERNEL.ADMIT REVOKE: the frames of the admission are unlocked. -/
def execKernelAdmitRevoke (h : CmdHeader) (c : AdmitCmd) (s : State) : Out :=
  onSealCommand s fun s q p _ =>
    let a := c.aid.toNat
    if !(s.part p).admissions.any fun x => x.aid == a then s.completeHead q h stDenied
    else if s.launches.any fun (l : Nat × Launch) => l.2.part == some p && l.2.admission == some a then s.completeHead q h stDomBusy
    else
      let s := s.onPart p fun x => { x with admissions := x.admissions.filter fun y => y.aid != a }
      ({ s with locks := s.locks.filter fun (l : Nat × Nat × Nat) => l.2 != (p, a) } : State).completeHead q h stOk

/-! ## Sessions (R407, R408) -/

/-- Whether an open message is well formed for a domain, its point one of the curve (R407, R408). -/
def openMessageOk (bs : List Byte) (sdom : Nat) : Bool :=
  num bs 0 4 == 0x53455331 && num bs 4 2 == sdom && isZero (cut bs 6 2) && isZero (cut bs 40 24) &&
  Crypto.onP384 (cut bs 64 96)

/-- The lowest session index that may be given: not open, and with a generation left (R408). -/
def State.freeSession (s : State) : Option Nat :=
  (List.range 4096).find? fun i => let x := Tab.get {} s.sessions i; !x.isOpen && x.gen < 0xFFFFF

/-- The transcript value of an open message (R408). -/
def transcript (d : Domain) (msg : List Byte) : List Byte :=
  let (a, b) := Config.sessionPublic d.keyEpoch
  Crypto.shake256 (msg ++ a ++ b ++ d.digest) 32

/-- The response area: MAGIC, SID, the nonce and CONF, of which the area of 64 bytes holds the first 24 bytes. -/
def openResponse (sid : Nat) (msg conf : List Byte) : List Byte :=
  fitBytes 64 (leBytes 0x53455332 4 ++ leBytes sid 4 ++ cut msg 8 32 ++ conf)

/-- R408 SESSION.OPEN. -/
def execSessionOpen (h : CmdHeader) (c : SessCmd) (s : State) : Out :=
  onSealCommand s fun s q p asid =>
    let d := s.domain p c.sdom.toNat
    if !d.live then s.completeHead q h stDenied
    else match s.openBuffer asid c.msg.toNat 1728 64 with
      | (none, s) => s.completeHead q h stBadAddr 0 c.msg.toNat
      | (some msg, s) =>
        match s.openSpan asid c.rsp.toNat 64 64 with
        | (false, s) => s.completeHead q h stBadAddr 0 c.rsp.toNat
        | (true, s) =>
          if !openMessageOk msg c.sdom.toNat then s.completeHead q h stSessFail
          else
            let (e, k) := Config.sessionSecrets d.keyEpoch (cut msg 64 96) (cut msg 160 1568)
            match s.freeSession with
            | none => s.completeHead q h stSessFull
            | some i =>
              let t := transcript d msg
              let secret := fitBytes 64 (Crypto.shake256 (k ++ e ++ t) 64)
              let gen := (Tab.get {} s.sessions i).gen + 1
              let sid := gen * 4096 + i
              let x : Session := { gen := gen, isOpen := true, part := p, sdom := c.sdom.toNat, secret := secret }
              let s := { s with sessions := Tab.set s.sessions i x }
              let rsp := openResponse sid msg (Crypto.kmac256 secret t 32)
              match s.queueWrite asid c.rsp.toNat rsp with
              | (_, s) => s.completeHead q h stOk sid

/-- The session of a partition's domain that a SID names; it may be closed, its counters are kept (R408, R412). -/
def State.keptSession (s : State) (p sdom : Nat) (sid : Word) : Option Session :=
  match Tab.find? s.sessions (sid.toNat % 4096) with
  | some x => if x.gen == sid.toNat / 4096 && x.part == p && x.sdom == sdom then some x else none
  | none => none

/-- The session of a partition's domain that a SID names, if it is open. -/
def State.openSession (s : State) (p sdom : Nat) (sid : Word) : Option Session := (s.keptSession p sdom sid).filter (·.isOpen)

/-- R408 SESSION.CLOSE. -/
def execSessionClose (h : CmdHeader) (c : SessCmd) (s : State) : Out :=
  onSealCommand s fun s q p _ =>
    if !(s.domain p c.sdom.toNat).live then s.completeHead q h stDenied
    else if (s.openSession p c.sdom.toNat c.sid).isNone then s.completeHead q h stNoSession
    else
      let s := s.onSession c.sid fun x => { x with isOpen := false, secret := [] }
      (s.onPart p fun x => { x with bindings := x.bindings.filter fun (b : Nat × Binding) => b.2.sid != c.sid }).completeHead q h stOk

/-! ## Reply bindings (R411) -/

/-- R411 REPLY.BIND: a `senc` of this machine is performed in one step, so none is at the engine. -/
def execReplyBind (h : CmdHeader) (c : BindCmd) (s : State) : Out :=
  onSealCommand s fun s q p asid =>
    let x := s.part p
    let n := 65536 * (c.size.toNat + 1)
    if (s.openSession p c.sdom.toNat c.sid).isNone then s.completeHead q h stNoSession
    else if c.sv && !(x.slot0 ≤ c.q.toNat && c.q.toNat < x.slot0 + x.nslot) then s.completeHead q h stDenied
    else if c.base.toNat % 65536 != 0 then s.completeHead q h stBadAddr 0 c.base.toNat
    else match s.sealPages asid false (fun t => t.cls == 3 && t.host && t.sdom == c.sdom.toNat) (pageParts c.base.toNat n) with
      | (.error (st, va), s) => s.completeHead q h st 0 va
      | (.ok _, s) =>
        let (o, s) := s.newId
        let b : Binding := { sdom := c.sdom.toNat, sid := c.sid, base := c.base.toNat, size := n,
                             slot := if c.sv then some c.q.toNat else none, asid := asid, order := o }
        (s.onPart p fun y => { y with bindings := Tab.set y.bindings c.b.toNat b }).completeHead q h stOk

/-- R411 REPLY.BIND with UNBIND. -/
def execReplyUnbind (h : CmdHeader) (b : BitVec 8) (s : State) : Out :=
  onSealCommand s fun s q p _ => (s.onPart p fun x => { x with bindings := Tab.del x.bindings b.toNat }).completeHead q h stOk

/-! ## Signed statements (R412 to R415) -/

/-- Sign a statement that is made from its nonce and index, and write it over its buffer. -/
def State.signStatement (s : State) (q asid : Nat) (h : CmdHeader) (dst n : Nat) (body : List Byte → Nat → List Byte) : State :=
  match s.openSpan asid dst (n + sigBytes) 64 with
  | (false, s) => s.completeHead q h stBadAddr 0 dst
  | (true, s) =>
    match s.queueRead asid dst 32 with
    | (.error _, s) => s.completeHead q h stBadAddr 0 dst
    | (.ok nonce, s) =>
      match s.signIndex with
      | (.error st, s) => s.completeHead q h st
      | (.ok i, s) =>
        let msg := fitBytes n (body nonce i)
        match s.queueWrite asid dst (msg ++ fitBytes sigBytes (Config.xmssSign i msg)) with
        | (_, s) => s.completeHead q h stOk (n + sigBytes)

/-- The identity public key (R413). -/
def identityKey : List Byte := fitBytes 64 (Config.deviceBytes 3)

/-- The signed bytes of a usage record (R412). -/
def usageBody (sdom : Nat) (sid : Word) (x : Session) (d : Domain) (nonce : List Byte) (i : Nat) : List Byte :=
  leBytes 0x55534147 4 ++ leBytes (2 ^ 16 + Config.implId) 4 ++ leBytes sdom 4 ++ leBytes sid.toNat 4 ++ leBytes x.reqs.toNat 8 ++
  leBytes x.prompt.toNat 8 ++ leBytes x.gentok.toNat 8 ++ leBytes i 8 ++ fitBytes 32 d.digest ++ fitBytes 32 nonce ++
  fitBytes 32 (Crypto.shake256 identityKey 32)

/-- The signed bytes of an attestation report (R413). -/
def reportBody (s : State) (p : Nat) (d : Option (Nat × Domain)) (nonce : List Byte) (i : Nat) : List Byte :=
  let x := s.part p
  let (spt, sml) := match d with | some (_, y) => Config.sessionPublic y.keyEpoch | none => ([], [])
  let admitted := match d with | some (n, _) => ((x.admissions.filter fun a => a.sdom == n).mergeSort fun a b => a.aid ≤ b.aid).flatMap (·.digest)
                               | none => []
  leBytes 0x52455054 4 ++ leBytes (2 ^ 16 + Config.implId) 4 ++
  leBytes (Config.grade * 2 ^ 16 + b2n x.sealing * 2 ^ 14 + p * 2 ^ 11 + match d with | some (n, _) => 2 ^ 10 + n | none => 0) 4 ++
  leBytes (x.units.foldl (fun a u => a + 2 ^ u) 0) 4 ++ fitBytes 32 (Config.deviceBytes 0) ++ mcel ++ fitBytes 32 (Config.deviceBytes 2) ++
  fitBytes 32 (match d with | some (_, y) => y.digest | none => []) ++ leBytes s.tdid.toNat 8 ++ leBytes i 8 ++ fitBytes 32 nonce ++
  fitBytes 32 (Crypto.shake256 admitted 32) ++ identityKey ++ fitBytes 96 (Config.deviceBytes 4) ++ fitBytes 1568 (Config.deviceBytes 5) ++
  fitBytes 96 spt ++ fitBytes 1568 sml

/-- R413 USAGE.SIGN REPORT. -/
def execUsageSignReport (h : CmdHeader) (c : SignCmd) (s : State) : Out :=
  onSealCommand s fun s q p asid =>
    let d := s.domain p c.sdom.toNat
    if c.sdv && !d.live then s.completeHead q h stDenied
    else s.signStatement q asid h c.dst.toNat 3616 (reportBody s p (if c.sdv then some (c.sdom.toNat, d) else none))

/-- R412 USAGE.SIGN USAGE. -/
def execUsageSignUsage (h : CmdHeader) (c : SignCmd) (s : State) : Out :=
  onSealCommand s fun s q p asid =>
    match s.keptSession p c.sdom.toNat c.sid with
    | none => s.completeHead q h stNoSession
    | some x => s.signStatement q asid h c.dst.toNat 144 (usageBody c.sdom.toNat c.sid x (s.domain p c.sdom.toNat))

end Sys2Proof.Machine
end

