-- ==== Sys2Proof/Machine/Dispatch.lean ====
section
/-! DEFINITION. The one dispatch: what each instruction does. -/

namespace Sys2Proof.Machine

open Sys2Proof

def exec (i : Instr) (s : State) : Host.Outcome State Fault Refusal :=
  match i with
  | .pcieLinkTrained rate width => Sys2Proof.Machine.execPcieLinkTrained rate width s
  | .thermalLimit bins => Sys2Proof.Machine.execThermalLimit bins s
  | .resourceMapOut r => Sys2Proof.Machine.execResourceMapOut r s
  | .uncorrectableError site => Sys2Proof.Machine.execUncorrectableError site s
  | .registerWrite fn offset value => Sys2Proof.Machine.execRegisterWrite fn offset value s
  | .doorbell fn q value => Sys2Proof.Machine.execDoorbell fn q value s
  | .launch h p => Sys2Proof.Machine.execLaunch h p s
  | .chain h block => Sys2Proof.Machine.execChain h block s
  | .capRead h dst len => Sys2Proof.Machine.execCapRead h dst len s
  | .healthRead h dst => Sys2Proof.Machine.execHealthRead h dst s
  | .modeSet h mode => Sys2Proof.Machine.execModeSet h mode s
  | .partitionCfg h p => Sys2Proof.Machine.execPartitionCfg h p s
  | .partitionTeardown h p => Sys2Proof.Machine.execPartitionTeardown h p s
  | .rankSet h p => Sys2Proof.Machine.execRankSet h p s
  | .invalRange h p => Sys2Proof.Machine.execInvalRange h p s
  | .ringRestart h ofs idx => Sys2Proof.Machine.execRingRestart h ofs idx s
  | .ringRestartFaultRing h idx => Sys2Proof.Machine.execRingRestartFaultRing h idx s
  | .preempt h ofs area => Sys2Proof.Machine.execPreempt h ofs area s
  | .resume h ofs area => Sys2Proof.Machine.execResume h ofs area s
  | .sealLoadCreate h p => Sys2Proof.Machine.execSealLoadCreate h p s
  | .sealLoadImport h p => Sys2Proof.Machine.execSealLoadImport h p s
  | .sealLoadDestroy h p => Sys2Proof.Machine.execSealLoadDestroy h p s
  | .sessionOpen h p => Sys2Proof.Machine.execSessionOpen h p s
  | .sessionClose h p => Sys2Proof.Machine.execSessionClose h p s
  | .replyBind h p => Sys2Proof.Machine.execReplyBind h p s
  | .replyUnbind h b => Sys2Proof.Machine.execReplyUnbind h b s
  | .usageSignReport h p => Sys2Proof.Machine.execUsageSignReport h p s
  | .usageSignUsage h p => Sys2Proof.Machine.execUsageSignUsage h p s
  | .kernelAdmitLibrary h p => Sys2Proof.Machine.execKernelAdmitLibrary h p s
  | .kernelAdmitRaw h p => Sys2Proof.Machine.execKernelAdmitRaw h p s
  | .kernelAdmitRevoke h p => Sys2Proof.Machine.execKernelAdmitRevoke h p s
  | .field slot f value => Sys2Proof.Machine.execField slot f value s
  | .wide upper => Sys2Proof.Machine.execWide upper s
  | .frameOpen frame nin nout => Sys2Proof.Machine.execFrameOpen frame nin nout s
  | .frameClose frame => Sys2Proof.Machine.execFrameClose frame s
  | .framePlace p => Sys2Proof.Machine.execFramePlace p s
  | .frameBin input slot os => Sys2Proof.Machine.execFrameBin input slot os s
  | .boutFrameInput out frame input => Sys2Proof.Machine.execBoutFrameInput out frame input s
  | .boutThisInput out input => Sys2Proof.Machine.execBoutThisInput out input s
  | .boutNodePort out node os => Sys2Proof.Machine.execBoutNodePort out node os s
  | .cnext kind frame op => Sys2Proof.Machine.execCnext kind frame op s
  | .cset half bitmap => Sys2Proof.Machine.execCset half bitmap s
  | .hbind node task handler => Sys2Proof.Machine.execHbind node task handler s
  | .hfree node task => Sys2Proof.Machine.execHfree node task s
  | .flitReceive port crcOk flit => Sys2Proof.Machine.execFlitReceive port crcOk flit s
  | .linkRetrain port ok => Sys2Proof.Machine.execLinkRetrain port ok s
  | .spdmKeyExchange port peerTdid peerMeas checks => Sys2Proof.Machine.execSpdmKeyExchange port peerTdid peerMeas checks s
  | .domainList port entries => Sys2Proof.Machine.execDomainList port entries s
  | .const e => Sys2Proof.Machine.execConst e s
  | .add e => Sys2Proof.Machine.execAdd e s
  | .sub e => Sys2Proof.Machine.execSub e s
  | .addsat e => Sys2Proof.Machine.execAddsat e s
  | .subsat e => Sys2Proof.Machine.execSubsat e s
  | .mul e => Sys2Proof.Machine.execMul e s
  | .mulh e => Sys2Proof.Machine.execMulh e s
  | .mad e => Sys2Proof.Machine.execMad e s
  | .div e => Sys2Proof.Machine.execDiv e s
  | .rem e => Sys2Proof.Machine.execRem e s
  | .and e => Sys2Proof.Machine.execAnd e s
  | .or e => Sys2Proof.Machine.execOr e s
  | .xor e => Sys2Proof.Machine.execXor e s
  | .andn e => Sys2Proof.Machine.execAndn e s
  | .shl e => Sys2Proof.Machine.execShl e s
  | .shr e => Sys2Proof.Machine.execShr e s
  | .sra e => Sys2Proof.Machine.execSra e s
  | .rot e => Sys2Proof.Machine.execRot e s
  | .min e => Sys2Proof.Machine.execMin e s
  | .max e => Sys2Proof.Machine.execMax e s
  | .abs e => Sys2Proof.Machine.execAbs e s
  | .clz e => Sys2Proof.Machine.execClz e s
  | .popc e => Sys2Proof.Machine.execPopc e s
  | .bfx e => Sys2Proof.Machine.execBfx e s
  | .bfi e => Sys2Proof.Machine.execBfi e s
  | .cmp e => Sys2Proof.Machine.execCmp e s
  | .lea e => Sys2Proof.Machine.execLea e s
  | .ext e => Sys2Proof.Machine.execExt e s
  | .perm e => Sys2Proof.Machine.execPerm e s
  | .sacc e => Sys2Proof.Machine.execSacc e s
  | .sswap e => Sys2Proof.Machine.execSswap e s
  | .scount e => Sys2Proof.Machine.execScount e s
  | .fadd e => Sys2Proof.Machine.execFadd e s
  | .fsub e => Sys2Proof.Machine.execFsub e s
  | .fmul e => Sys2Proof.Machine.execFmul e s
  | .fma e => Sys2Proof.Machine.execFma e s
  | .fmin e => Sys2Proof.Machine.execFmin e s
  | .fmax e => Sys2Proof.Machine.execFmax e s
  | .fsgn e => Sys2Proof.Machine.execFsgn e s
  | .fcmp e => Sys2Proof.Machine.execFcmp e s
  | .frcp e => Sys2Proof.Machine.execFrcp e s
  | .frsq e => Sys2Proof.Machine.execFrsq e s
  | .fex2 e => Sys2Proof.Machine.execFex2 e s
  | .flg2 e => Sys2Proof.Machine.execFlg2 e s
  | .fcvt e => Sys2Proof.Machine.execFcvt e s
  | .frnd e => Sys2Proof.Machine.execFrnd e s
  | .fclass e => Sys2Proof.Machine.execFclass e s
  | .steer e => Sys2Proof.Machine.execSteer e s
  | .select e => Sys2Proof.Machine.execSelect e s
  | .gate e => Sys2Proof.Machine.execGate e s
  | .merge e => Sys2Proof.Machine.execMerge e s
  | .copy e => Sys2Proof.Machine.execCopy e s
  | .sink e => Sys2Proof.Machine.execSink e s
  | .purge e => Sys2Proof.Machine.execPurge e s
  | .window e => Sys2Proof.Machine.execWindow e s
  | .enter e => Sys2Proof.Machine.execEnter e s
  | .next e => Sys2Proof.Machine.execNext e s
  | .leave e => Sys2Proof.Machine.execLeave e s
  | .tagget e => Sys2Proof.Machine.execTagget e s
  | .tagset e => Sys2Proof.Machine.execTagset e s
  | .call e => Sys2Proof.Machine.execCall e s
  | .ret e => Sys2Proof.Machine.execRet e s
  | .ld e => Sys2Proof.Machine.execLd e s
  | .st e => Sys2Proof.Machine.execSt e s
  | .ldx e => Sys2Proof.Machine.execLdx e s
  | .stx e => Sys2Proof.Machine.execStx e s
  | .lds e => Sys2Proof.Machine.execLds e s
  | .iput e => Sys2Proof.Machine.execIput e s
  | .iget e => Sys2Proof.Machine.execIget e s
  | .atom e => Sys2Proof.Machine.execAtom e s
  | .red e => Sys2Proof.Machine.execRed e s
  | .fence e => Sys2Proof.Machine.execFence e s
  | .talloc e => Sys2Proof.Machine.execTalloc e s
  | .tstate e => Sys2Proof.Machine.execTstate e s
  | .tfree e => Sys2Proof.Machine.execTfree e s
  | .send e => Sys2Proof.Machine.execSend e s
  | .ringInit e => Sys2Proof.Machine.execRingInit e s
  | .awaitf e => Sys2Proof.Machine.execAwaitf e s
  | .relslot e => Sys2Proof.Machine.execRelslot e s
  | .rst e => Sys2Proof.Machine.execRst e s
  | .rld e => Sys2Proof.Machine.execRld e s
  | .rat e => Sys2Proof.Machine.execRat e s
  | .rred e => Sys2Proof.Machine.execRred e s
  | .rcopen e => Sys2Proof.Machine.execRcopen e s
  | .rrel e => Sys2Proof.Machine.execRrel e s
  | .barArrive e => Sys2Proof.Machine.execBarArrive e s
  | .barWait e => Sys2Proof.Machine.execBarWait e s
  | .censUp e => Sys2Proof.Machine.execCensUp e s
  | .censDn e => Sys2Proof.Machine.execCensDn e s
  | .phaseWait e => Sys2Proof.Machine.execPhaseWait e s
  | .waitT e => Sys2Proof.Machine.execWaitT e s
  | .seqOpen e => Sys2Proof.Machine.execSeqOpen e s
  | .seqClose e => Sys2Proof.Machine.execSeqClose e s
  | .commit e => Sys2Proof.Machine.execCommit e s
  | .kvAlloc e => Sys2Proof.Machine.execKvAlloc e s
  | .kvAttach e => Sys2Proof.Machine.execKvAttach e s
  | .kvFree e => Sys2Proof.Machine.execKvFree e s
  | .pfxAttach e => Sys2Proof.Machine.execPfxAttach e s
  | .pfxEvict e => Sys2Proof.Machine.execPfxEvict e s
  | .gStep e => Sys2Proof.Machine.execGStep e s
  | .gMask e => Sys2Proof.Machine.execGMask e s
  | .gFork e => Sys2Proof.Machine.execGFork e s
  | .gRoll e => Sys2Proof.Machine.execGRoll e s
  | .gSave e => Sys2Proof.Machine.execGSave e s
  | .gLoad e => Sys2Proof.Machine.execGLoad e s
  | .smerge e => Sys2Proof.Machine.execSmerge e s
  | .sdec e => Sys2Proof.Machine.execSdec e s
  | .senc e => Sys2Proof.Machine.execSenc e s
  | .trap e => Sys2Proof.Machine.execTrap e s
  | .fault e => Sys2Proof.Machine.execFault e s
  | .sregRd e => Sys2Proof.Machine.execSregRd e s
  | .sregWr e => Sys2Proof.Machine.execSregWr e s
  | .vadd v => Sys2Proof.Machine.execVadd v s
  | .vsub v => Sys2Proof.Machine.execVsub v s
  | .vmul v => Sys2Proof.Machine.execVmul v s
  | .vfma v => Sys2Proof.Machine.execVfma v s
  | .vmax v => Sys2Proof.Machine.execVmax v s
  | .vmin v => Sys2Proof.Machine.execVmin v s
  | .vexp v => Sys2Proof.Machine.execVexp v s
  | .vrcp v => Sys2Proof.Machine.execVrcp v s
  | .vrsq v => Sys2Proof.Machine.execVrsq v s
  | .vtanh v => Sys2Proof.Machine.execVtanh v s
  | .vsum v => Sys2Proof.Machine.execVsum v s
  | .vmaxr v => Sys2Proof.Machine.execVmaxr v s
  | .vscl v => Sys2Proof.Machine.execVscl v s
  | .vcmp v => Sys2Proof.Machine.execVcmp v s
  | .vsel v => Sys2Proof.Machine.execVsel v s
  | .vperm v => Sys2Proof.Machine.execVperm v s
  | .vbcast v => Sys2Proof.Machine.execVbcast v s
  | .vcvt v => Sys2Proof.Machine.execVcvt v s
  | .vtileRd w tile row => Sys2Proof.Machine.execVtileRd w tile row s
  | .vtileWr w tile row => Sys2Proof.Machine.execVtileWr w tile row s
  | .vnoise v => Sys2Proof.Machine.execVnoise v s
  | .vmask v => Sys2Proof.Machine.execVmask v s
  | .vargmax v => Sys2Proof.Machine.execVargmax v s
  | .mwLoad fmt grp bank rec => Sys2Proof.Machine.execMwLoad fmt grp bank rec s
  | .mwSwap bank => Sys2Proof.Machine.execMwSwap bank s
  | .mmRun fmt acc n => Sys2Proof.Machine.execMmRun fmt acc n s
  | .mmZp tile => Sys2Proof.Machine.execMmZp tile s
  | .mmRec bank => Sys2Proof.Machine.execMmRec bank s
  | .mmEnd acc count => Sys2Proof.Machine.execMmEnd acc count s
  | .accCfg e => Sys2Proof.Machine.execAccCfg e s
  | .cvq c => Sys2Proof.Machine.execCvq c s
  | .cvdq c => Sys2Proof.Machine.execCvdq c s
  | .cvf src d rto => Sys2Proof.Machine.execCvf src d rto s
  | .seqAdd stall xd xa xb => Sys2Proof.Machine.execSeqAdd stall xd xa xb s
  | .seqSub stall xd xa xb => Sys2Proof.Machine.execSeqSub stall xd xa xb s
  | .seqAnd stall xd xa xb => Sys2Proof.Machine.execSeqAnd stall xd xa xb s
  | .seqOr stall xd xa xb => Sys2Proof.Machine.execSeqOr stall xd xa xb s
  | .seqXor stall xd xa xb => Sys2Proof.Machine.execSeqXor stall xd xa xb s
  | .seqShl stall xd xa xb => Sys2Proof.Machine.execSeqShl stall xd xa xb s
  | .seqShr stall xd xa xb => Sys2Proof.Machine.execSeqShr stall xd xa xb s
  | .seqSra stall xd xa xb => Sys2Proof.Machine.execSeqSra stall xd xa xb s
  | .seqMul stall xd xa xb => Sys2Proof.Machine.execSeqMul stall xd xa xb s
  | .seqSlt stall xd xa xb => Sys2Proof.Machine.execSeqSlt stall xd xa xb s
  | .seqSltu stall xd xa xb => Sys2Proof.Machine.execSeqSltu stall xd xa xb s
  | .seqAddi stall xd xa imm => Sys2Proof.Machine.execSeqAddi stall xd xa imm s
  | .seqAndi stall xd xa imm => Sys2Proof.Machine.execSeqAndi stall xd xa imm s
  | .seqOri stall xd xa imm => Sys2Proof.Machine.execSeqOri stall xd xa imm s
  | .seqXori stall xd xa imm => Sys2Proof.Machine.execSeqXori stall xd xa imm s
  | .seqShli stall xd xa sh => Sys2Proof.Machine.execSeqShli stall xd xa sh s
  | .seqShri stall xd xa sh => Sys2Proof.Machine.execSeqShri stall xd xa sh s
  | .seqSrai stall xd xa sh => Sys2Proof.Machine.execSeqSrai stall xd xa sh s
  | .seqSlti stall xd xa imm => Sys2Proof.Machine.execSeqSlti stall xd xa imm s
  | .seqLui stall xd imm => Sys2Proof.Machine.execSeqLui stall xd imm s
  | .seqLd stall xd xa imm => Sys2Proof.Machine.execSeqLd stall xd xa imm s
  | .seqLw stall xd xa imm => Sys2Proof.Machine.execSeqLw stall xd xa imm s
  | .seqSd stall xs xa imm => Sys2Proof.Machine.execSeqSd stall xs xa imm s
  | .seqSw stall xs xa imm => Sys2Proof.Machine.execSeqSw stall xs xa imm s
  | .seqBeq stall xa xb ofs => Sys2Proof.Machine.execSeqBeq stall xa xb ofs s
  | .seqBne stall xa xb ofs => Sys2Proof.Machine.execSeqBne stall xa xb ofs s
  | .seqBlt stall xa xb ofs => Sys2Proof.Machine.execSeqBlt stall xa xb ofs s
  | .seqBge stall xa xb ofs => Sys2Proof.Machine.execSeqBge stall xa xb ofs s
  | .seqBltu stall xa xb ofs => Sys2Proof.Machine.execSeqBltu stall xa xb ofs s
  | .seqBgeu stall xa xb ofs => Sys2Proof.Machine.execSeqBgeu stall xa xb ofs s
  | .seqJal stall xd imm => Sys2Proof.Machine.execSeqJal stall xd imm s
  | .seqJalr stall xd xa imm => Sys2Proof.Machine.execSeqJalr stall xd xa imm s
  | .sbind stall xa ap port => Sys2Proof.Machine.execSbind stall xa ap port s
  | .sgo stall xa ap => Sys2Proof.Machine.execSgo stall xa ap s
  | .swait stall xd ap => Sys2Proof.Machine.execSwait stall xd ap s
  | .bpush stall xa => Sys2Proof.Machine.execBpush stall xa s
  | .bframe stall frame => Sys2Proof.Machine.execBframe stall frame s
  | .qpop stall xd => Sys2Proof.Machine.execQpop stall xd s
  | .qpopNb stall xd => Sys2Proof.Machine.execQpopNb stall xd s
  | .cwait stall xa xb => Sys2Proof.Machine.execCwait stall xa xb s
  | .cosig stall xa xb => Sys2Proof.Machine.execCosig stall xa xb s
  | .cosigAdd stall xa xb => Sys2Proof.Machine.execCosigAdd stall xa xb s
  | .pbar stall xd => Sys2Proof.Machine.execPbar stall xd s
  | .pbarFinal stall xd => Sys2Proof.Machine.execPbarFinal stall xd s
  | .seqTrap stall code => Sys2Proof.Machine.execSeqTrap stall code s
  | .eret stall => Sys2Proof.Machine.execEret stall s
  | .srd stall xd num => Sys2Proof.Machine.execSrd stall xd num s
  | .swr stall xa num => Sys2Proof.Machine.execSwr stall xa num s
  | .halt stall => Sys2Proof.Machine.execHalt stall s
  | .bringUpStepDone ok => Sys2Proof.Machine.execBringUpStepDone ok s
  | .correctedError site aboveThreshold => Sys2Proof.Machine.execCorrectedError site aboveThreshold s
  | .powerGood => Sys2Proof.Machine.execPowerGood s
  | .functionLevelReset => Sys2Proof.Machine.execFunctionLevelReset s
  | .pmInterval => Sys2Proof.Machine.execPmInterval s
  | .schedulerSlot => Sys2Proof.Machine.execSchedulerSlot s
  | .waitObjectPoll => Sys2Proof.Machine.execWaitObjectPoll s
  | .invalRangeDrainDone => Sys2Proof.Machine.execInvalRangeDrainDone s
  | .preemptDrainDone => Sys2Proof.Machine.execPreemptDrainDone s
  | .chainBlockLoad => Sys2Proof.Machine.execChainBlockLoad s
  | .launchFailComplete => Sys2Proof.Machine.execLaunchFailComplete s
  | .arrivalBufferRelease => Sys2Proof.Machine.execArrivalBufferRelease s
  | .streamEmit => Sys2Proof.Machine.execStreamEmit s
  | .matcherTake => Sys2Proof.Machine.execMatcherTake s
  | .tier2SearchReturn => Sys2Proof.Machine.execTier2SearchReturn s
  | .tier3Reinject => Sys2Proof.Machine.execTier3Reinject s
  | .memAccessComplete => Sys2Proof.Machine.execMemAccessComplete s
  | .commitInstance => Sys2Proof.Machine.execCommitInstance s
  | .faultPrecise => Sys2Proof.Machine.execFaultPrecise s
  | .ctxfaultTake => Sys2Proof.Machine.execCtxfaultTake s
  | .nodePacketArrival => Sys2Proof.Machine.execNodePacketArrival s
  | .handlerDispatch => Sys2Proof.Machine.execHandlerDispatch s
  | .serpentPortStray => Sys2Proof.Machine.execSerpentPortStray s
  | .gatherWrite => Sys2Proof.Machine.execGatherWrite s
  | .passArrival => Sys2Proof.Machine.execPassArrival s
  | .endTokenArrival => Sys2Proof.Machine.execEndTokenArrival s
  | .sendCopy => Sys2Proof.Machine.execSendCopy s
  | .commitNodeResult => Sys2Proof.Machine.execCommitNodeResult s
  | .kvDrainDone => Sys2Proof.Machine.execKvDrainDone s
  | .barrierDone => Sys2Proof.Machine.execBarrierDone s
  | .quiescenceDetect => Sys2Proof.Machine.execQuiescenceDetect s
  | .phaseBoundary => Sys2Proof.Machine.execPhaseBoundary s
  | .waitTTimeout => Sys2Proof.Machine.execWaitTTimeout s
  | .hostCompletionTimeout => Sys2Proof.Machine.execHostCompletionTimeout s
  | .fabricOpen => Sys2Proof.Machine.execFabricOpen s
  | .openack => Sys2Proof.Machine.execOpenack s
  | .wr => Sys2Proof.Machine.execWr s
  | .rel => Sys2Proof.Machine.execRel s
  | .relnote => Sys2Proof.Machine.execRelnote s
  | .resend => Sys2Proof.Machine.execResend s
  | .fabricFail => Sys2Proof.Machine.execFabricFail s
  | .epochOpenTimeout => Sys2Proof.Machine.execEpochOpenTimeout s
  | .epochRelTimeout => Sys2Proof.Machine.execEpochRelTimeout s
  | .epochWaitTimeout => Sys2Proof.Machine.execEpochWaitTimeout s
  | .rldreq => Sys2Proof.Machine.execRldreq s
  | .rldrep => Sys2Proof.Machine.execRldrep s
  | .ratreq => Sys2Proof.Machine.execRatreq s
  | .ratrep => Sys2Proof.Machine.execRatrep s
  | .requestResendTimeout => Sys2Proof.Machine.execRequestResendTimeout s
  | .wcon => Sys2Proof.Machine.execWcon s
  | .windowRoundTimeout => Sys2Proof.Machine.execWindowRoundTimeout s
  | .packetAgeDiscard => Sys2Proof.Machine.execPacketAgeDiscard s
  | .keyUpdate => Sys2Proof.Machine.execKeyUpdate s
  | .spdmSessionEnd => Sys2Proof.Machine.execSpdmSessionEnd s
  | .accRel => Sys2Proof.Machine.execAccRel s
  | .fabricPortTrained => Sys2Proof.Machine.execFabricPortTrained s
  | .cwaitObjectRead => Sys2Proof.Machine.execCwaitObjectRead s
  | .illegalSequencerInstruction => Sys2Proof.Machine.execIllegalSequencerInstruction s
  | .reservedFrameWord => Sys2Proof.Machine.execReservedFrameWord s
  | .reservedPtypePacket => Sys2Proof.Machine.execReservedPtypePacket s

end Sys2Proof.Machine
end

