-- ==== Sys2Proof/Machine/Fetch.lean ====
section
/-! DEFINITION. The instruction that each agent holds (R63, R68, R110, R134, R136, R137, R295), the turns that may come next where the
agenda leaves the choice to the machine, and the placing of a word where an agent fetches it. -/

namespace Sys2Proof.Machine

open Sys2Proof

/-! ## Fetching -/

/-- The lowest access-pattern register of a sequencer whose stream does not run (R136). -/
def Seq.freeAp (q : Seq) : Option Nat := (List.range 16).find? fun a => (q.ap a).st != .running

/-- The next instruction of the generated control program, with its registers loaded; a `sbind` takes a free register, and waits while
all 16 run. -/
def Seq.generated (q : Seq) : Option (Instr × Seq) :=
  match q.gen with
  | [] => none
  | a :: _ =>
    let load (t : Tab DWord) (r : Nat × DWord) : Tab DWord := Tab.set t r.1 r.2
    let q := { q with x := a.regs.foldl load q.x, ready := [] }
    match a.instr with
    | .sbind st xa _ port => q.freeAp.map fun n => (.sbind st xa (BitVec.ofNat 4 n) port, { q with genAp := n })
    | .sgo st xa _ => some (.sgo st xa (BitVec.ofNat 4 q.genAp), q)
    | i => some (i, q)

/-- What a sequencer executes next: at an instruction boundary a CTXFAULT that it may take (R128), else a word of its instruction memory,
an action of its generated program, or the read of the object that its `cwait` waits for. -/
def State.fetchSeq (s : State) (c : Nat) : Option (Instr × State) :=
  let q := s.seq c
  if q.trapPends && (q.mode == .run || q.mode == .wait) then some (.ctxfaultTake, s)
  else match q.mode, q.waitFor with
  | .run, _ =>
    if q.ranNative then
      match decodeSeq (Tab.get 0 q.imem (q.pc / 4)) with
      | .ok i => some (i, s)
      | .error _ => some (.illegalSequencerInstruction, s)
    else q.generated.map fun r => (r.1, s.onSeq c fun _ => r.2)
  | .wait, .cwait _ _ => some (.cwaitObjectRead, s)
  | _, _ => none

/-- The instruction that an agent performs when it has its turn, and the state with what the fetch changes; none where it has nothing to
do. -/
def State.fetch (s : State) (a : Agent) : Option (Instr × State) :=
  match a with
  | .seq c => s.fetchSeq c
  | .config k =>
    match (s.core k).fifo with
    | [] => none
    | (_, w) :: _ => some (match decodeConfig w with | .ok i => i | .error _ => .reservedFrameWord, s)
  | .elem k e => (s.elem k e).instr.map fun i => (i, s)
  | .node k n => ((s.node k n).running.bind fun r => r.cmds.head?).map fun i => (i, s)
  | .queue q => (s.runningCmd q).map fun i => (i, s)
  | .port p => (s.port p).arrived.head?.map fun x => (packetInstr x.2, s)
  | _ => none

/-! ## The machine's own schedule (assumption log 10) -/

def queueTurns (q : Nat) (x : WorkQueue) : List Turn :=
  match x.head with
  | .waiting _ => [.event (.queue q) .waitObjectPoll]
  | .running _ => if x.drain then [.event (.queue q) .invalRangeDrainDone] else [.run (.queue q)]
  | .idle | .ready _ => []

def seqTurns (s : State) (c : Nat) : List Turn :=
  let q := s.seq c
  [.run (.seq c), .event (.loader c) .chainBlockLoad] ++ (if q.ctxfaults.isEmpty then [] else [.event (.seq c) .ctxfaultTake]) ++
  (q.aps.filter fun a => a.2.st == .running).map fun a => .event (.ap c a.1) .streamEmit

def elemTurns (k e : Nat) (el : Elem) : List Turn :=
  (if el.queue.isEmpty then [] else [.event (.elem k e) .matcherTake]) ++
  (if el.fired.isEmpty then [] else [.run (.elem k e)]) ++
  (if el.fired.any fun f => f.search.isSome then [.event (.elem k e) .tier2SearchReturn] else []) ++
  (if el.timers.isEmpty then [] else [.event (.elem k e) .waitTTimeout])

/-- Whether a message is bound for a node. -/
def Transit.forNode (t : Transit) (n : Nat) : Bool := match t.dest with | .node m _ => m == n | _ => false

def nodeTurns (c : Core) (k n : Nat) : List Turn :=
  let nd := c.node n
  let takes := c.transit.any fun t => t.forNode n
  if n < 16 then if takes || c.gathers.any fun g => g.node == n then [.event (.node k n) .gatherWrite] else []
  else if n == 34 then if takes then [.event (.node k n) .commitNodeResult] else []
  else if n == 35 then if takes then [.event (.node k n) .serpentPortStray] else []
  else
    (if takes then [.event (.node k n) .nodePacketArrival] else []) ++
    (if nd.pending.isEmpty then [] else [.event (.node k n) .handlerDispatch]) ++
    (if nd.running.isSome then [.run (.node k n)] else []) ++
    (if nd.passes.isEmpty then [] else [.event (.node k n) .passArrival, .event (.node k n) .endTokenArrival])

def coreTurns (c : Core) (k : Nat) : List Turn :=
  (if c.fifo.isEmpty then [] else [.run (.config k)]) ++
  (if (c.arrival ++ c.lost).isEmpty then [] else [.event (.core k) .arrivalBufferRelease]) ++
  (if c.tier3.isEmpty then [] else [.event (.core k) .tier3Reinject]) ++
  (if c.precise.isEmpty then [] else [.event (.core k) .faultPrecise]) ++
  (List.range c.transit.length).map (.deliver k ·) ++
  c.elems.flatMap (fun x => elemTurns k x.1 x.2) ++
  (List.range 36).flatMap (nodeTurns c k) ++
  (c.insts.filter fun i => !i.committed).map (fun i => .event (.inst k i.frame i.tag) .commitInstance) ++
  c.accesses.map fun x => .event (.access k x.id) (if x.opc == 0x14D then .sendCopy else .memAccessComplete)

def launchTurns (s : State) (l : Nat) (x : Launch) : List Turn :=
  (match x.st with
    | .running => [.event (.launch l) .quiescenceDetect, .event (.launch l) .phaseBoundary]
    | .failing => [.event (.launch l) .launchFailComplete]
    | .draining => [.event (.launch l) .preemptDrainDone]
    | .stopped => []) ++
  x.clusters.flatMap (seqTurns s) ++ x.cores.flatMap fun k => coreTurns (s.core k) k

def fabricTurns (s : State) : List Turn :=
  s.epochs.zipIdx.filterMap (fun e =>
    match e.1.st with
    | .opening => some (.event (.epoch e.2) .epochOpenTimeout)
    | .releasing => some (.event (.epoch e.2) .epochRelTimeout)
    | .opened | .failed => none) ++
  (List.range s.records.length).map (fun i => .event (.epoch i) .epochWaitTimeout) ++
  (List.range s.requests.length).map (fun i => .event (.epoch i) .requestResendTimeout) ++
  (List.range s.rounds.length).map (fun i => .event (.epoch i) .windowRoundTimeout) ++
  s.ports.flatMap fun p => if p.2.arrived.isEmpty then [] else [.run (.port p.1), .event (.port p.1) .packetAgeDiscard]

/-- Everything that the machine may do next of itself, and the passing of a cycle last. -/
def State.turns (s : State) : List Turn :=
  (List.range 9).map (fun d => .event (.sched d) .schedulerSlot) ++
  s.queues.flatMap (fun q => queueTurns q.1 q.2) ++
  s.launches.flatMap (fun l => launchTurns s l.1 l.2) ++
  s.parts.flatMap (fun p => (p.2.routes.filter fun r => !r.2.due.isEmpty).map fun r => .event (.route p.1 r.1) .barrierDone) ++
  (if s.drains.isEmpty then [] else [.event .device .kvDrainDone]) ++
  (if s.board.pending.isNone then [] else [.event .device .pmInterval]) ++ fabricTurns s ++ (if s.posted.isEmpty then [] else [.post]) ++ [.tick 1]

/-- The next turn where the agenda names none: the turns in order, round and round. -/
def State.schedule (s : State) : Turn × State :=
  let ts := s.turns
  let i := if s.rota < ts.length then s.rota else 0
  (ts.getD i (.tick 1), { s with rota := i + 1 })

/-! ## Moves of the machine that are no instruction of it -/

/-- A packet stands at a fabric port (R307). -/
def State.receive (s : State) (p : Nat) (x : Packet) : State :=
  if 96 ≤ p || (s.port p).link == .down then s
  else s.onPort p fun y => { y with arrived := y.arrived ++ [(s.board.micros, x)] }

/-- The translation caches of a cluster and its cores lose their entries (R383). -/
def State.forget (s : State) (c : Nat) : State :=
  let s := { s with clusterTlb := Tab.del s.clusterTlb c }
  [4 * c, 4 * c + 1, 4 * c + 2, 4 * c + 3].foldl (fun s k => s.onCore k fun x => { x with tlb := [] }) s

/-! ## Placing a word where it is fetched -/

/-- A launch on cluster 0, where none runs there. -/
def State.withLaunch (s : State) : State :=
  if (s.coreLaunch 0).isSome then s
  else
    let (l, s) := s.newId
    let cmd : LaunchCmd :=
      { chain := 0, hbase := 0, cmask := 1, sdom := 0, sdv := false, kpol := false, role := false, partw := 0x204020 }
    let s := { s with launches := Tab.set s.launches l { cmd := cmd } }
    [0, 1, 2, 3].foldl (fun s k => s.onCore k fun c => { c with launch := some l }) s

/-- The node of core 0 that runs commands of a kind. -/
def nodeOf : WordSpace → Nat
  | .vector => 16
  | .matrix => 24
  | .acc => 28
  | _ => 32

/-- A word placed for its agent, whose turn is next. -/
def State.placeWord (s : State) (w : Word) : State :=
  match spaceOf w with
  | none => s
  | some sp =>
    let s := s.withLaunch
    match sp with
    | .sequencer =>
      let put (q : Seq) : Seq := { q with mode := .run, waitFor := .none, ranNative := true, imem := Tab.set q.imem (q.pc / 4) w, ctxfaults := [] }
      { s.onSeq 0 put with agenda := .run (.seq 0) :: s.agenda }
    | .config =>
      { s.onCore 0 fun c => { c with fifo := (s.now, w) :: c.fifo } with agenda := .run (.config 0) :: s.agenda }
    | _ =>
      match decodeIn sp w with
      | .error _ => s
      | .ok i =>
        let n := nodeOf sp
        let put (nd : Node) : Node := { nd with running := some { cmds := [i], task := { ty := 0, tag := 0, packets := [] }, next := s.now } }
        { s.onNode 0 n put with agenda := .run (.node 0 n) :: s.agenda }

end Sys2Proof.Machine
end

