-- ==== Sys2Proof/Machine/Turn.lean ====
section
/-! DEFINITION. Taking a turn: an agent performs the instruction that it holds, or an event happens. -/

namespace Sys2Proof.Machine

open Sys2Proof

/-- Take a turn. An event is an instruction without words: an instruction that is fetched runs only where its agent holds it. -/
def State.turn (s : State) : Turn → Out
  | .run a =>
    match s.fetch a with
    | some (i, s) => exec i { s with agent := a }
    | none => .next s
  | .event a i => if (encode i).isEmpty then exec i { s with agent := a } else .fault .wrongAgent
  | .deliver k i => .next (s.deliver k i)
  | .receive p x => .next (s.receive p x)
  | .tick n => .next (s.tick n)
  | .evict line => .next (s.evictLine line)
  | .post => .next s.postOldest
  | .hostStore a bs => .next (s.hostStore a bs)
  | .forget c => .next (s.forget c)

end Sys2Proof.Machine
end

