-- ==== Sys2Proof/Safety.lean ====
section
/-! DEFINITION. What claims call a safe step and a sound state. -/

namespace Sys2Proof.Safety

open Sys2Proof Machine

/-- A step is safe if it ends neither in a fault nor in a refusal. -/
def SafeStep (s : State) : Prop := ∃ t, step s = .next t

/-- Every memory of the package is in its canonical form: rising addresses, no listed zero. -/
def MemoriesWf (s : State) : Prop :=
  Memory.wf s.hbm = true ∧ Memory.wf s.hostMem = true ∧ ∀ k, Memory.wf (s.core k).cells = true

end Sys2Proof.Safety
end

