-- ==== Sys2Proof/Certificates/Slice0/Obligations.lean ====
section
/-! DEFINITION. The statements for the provers. Their vocabulary stands first, in the namespace `Sys2Proof.Claims`; then one definition
`Obligations.<Name>` for each statement, in the order of OBLIGATIONS.json. -/

namespace Sys2Proof.Claims

open Sys2Proof Machine

/-! ## Forms of a statement -/

/-- An outcome is a next state of which `p` holds. -/
def NextWith (o : Out) (p : State → Prop) : Prop := ∃ t, o = .next t ∧ p t

/-! ## Encodings -/

/-- The kind of node that runs a matrix, accumulator or converter command (R93, R94). -/
def kindFor : Instr → NodeKind
  | .accCfg _ | .accRel => .acc
  | .cvq _ | .cvdq _ | .cvf _ _ _ => .conv
  | _ => .matrix

/-- Every word form in which an instruction is encoded decodes to that instruction. -/
def DecodesBack (i : Instr) : Prop :=
  (∀ w, encodeConfig i = some w → decodeConfig w = .ok i) ∧
  (∀ w, encodeSeq i = some w → decodeSeq w = .ok i) ∧
  (∀ w, encodeVector i = some w → decodeNode .vector w = .ok i) ∧
  (∀ w, encodeMatrix i = some w → decodeNode (kindFor i) w = .ok i) ∧
  (∀ ws, encodeCommand i = some ws → decodeCommand ws = .ok i) ∧
  (∀ opc a, elemParts i = some (opc, a) → decodeElem (encodeElem opc a) = .ok i)

/-! ## Elements -/

/-- An element performs its step: it has the turn, it exists (R17), and `x` is the fired set that it issues, with `rest` behind it
(R49, R52). -/
abbrev Fires (s : State) (k e : Nat) (x : Fired) (rest : List Fired) : Prop :=
  s.agent = .elem k e ∧ k < 64 ∧ e < 1024 ∧ s.issuable k e = some (x, rest)

/-- The place and the time of what a firing emits. -/
def shotAt (s : State) (k e : Nat) (a : ElemArgs) (x : Fired) (lat : Nat) : Shot :=
  { k := k, e := e, args := a, frame := (s.elem k e).frame, slot := (s.elem k e).slot, inst := x.inst, ready := s.now + lat }

/-- On a fired set without an F token that meets `p`, the instruction consumes the set and emits `y`, `lat` cycles later. `typed` says
whether the opcode's row of R88 has a type, which the reading of an immediate depends on (R87, R157). -/
def Yields (i : ElemArgs → Instr) (typed : Bool) (lat : Nat) (p : ElemArgs → Opnds → Prop) (y : ElemArgs → Opnds → Yield) : Prop :=
  ∀ (a : ElemArgs) (s : State) (k e : Nat) (x : Fired) (rest : List Fired), Fires s k e x rest →
    (operandsOf a typed x).firstF = none → p a (operandsOf a typed x) →
    exec (i a) s = .next ((s.takeShot k e rest).yield (shotAt s k e a x lat) (operandsOf a typed x) (y a (operandsOf a typed x)))

/-- The result `v` for every target, with the fired tag under F5 and the OR of the D bits (R53). -/
def value (a : ElemArgs) (o : Opnds) (v : Nat) (d : Bool) : Yield :=
  .emit [some (BitVec.ofNat 32 v), some (BitVec.ofNat 32 v), some (BitVec.ofNat 32 v)] (tagApply a.tagOp o.tag) d false true

/-- The instruction gives every target the payload `v` (R53). -/
def Gives (i : ElemArgs → Instr) (typed : Bool) (lat : Nat) (p : ElemArgs → Prop) (v : ElemArgs → Opnds → Nat) : Prop :=
  Yields i typed lat (fun a _ => p a) fun a o => value a o (v a o) o.dAll

/-! Lanes (R157, R158), written from the bits of a word. -/

/-- Width of a lane of a type (R80). -/
def laneWidth : ElemType → Nat
  | .s32 | .n32 | .f32 => 32
  | .s16x2 | .n16x2 | .bf16x2 | .f16x2 => 16
  | .s8x4 | .n8x4 => 8

/-- Whether an integer type is signed (R80). -/
def laneSigned : ElemType → Bool
  | .s32 | .s16x2 | .s8x4 => true
  | _ => false

/-- Lane `j` of a word, read unsigned. -/
def laneN (w x j : Nat) : Nat := x / 2 ^ (w * j) % 2 ^ w

/-- `val(x, j)` of R157. -/
def laneZ (ty : ElemType) (x j : Nat) : Int :=
  if laneSigned ty then (BitVec.ofNat (laneWidth ty) (laneN (laneWidth ty) x j)).toInt else laneN (laneWidth ty) x j

/-- The word whose lanes of width `w` are the given numbers modulo 2^w. -/
def packed (w : Nat) (g : Nat → Int) : Nat :=
  ((List.range (32 / w)).map fun j => (g j % (2 ^ w : Nat)).toNat * 2 ^ (w * j)).sum

/-- A lane operation on a and b. -/
def perLane2 (ty : ElemType) (f : Int → Int → Int) (o : Opnds) : Nat :=
  packed (laneWidth ty) fun j => f (laneZ ty (o.val 0) j) (laneZ ty (o.val 1) j)

/-- A lane operation on the unsigned lanes of a and b, with their width. -/
def perLaneN (ty : ElemType) (f : Nat → Nat → Nat → Int) (o : Opnds) : Nat :=
  packed (laneWidth ty) fun j => f (laneWidth ty) (laneN (laneWidth ty) (o.val 0) j) (laneN (laneWidth ty) (o.val 1) j)

/-- The operation types of a row of R80. -/
abbrev IntType (a : ElemArgs) : Prop := a.ty ∈ [ElemType.s32, .n32, .s16x2, .n16x2, .s8x4, .n8x4]
abbrev Int32Type (a : ElemArgs) : Prop := a.ty ∈ [ElemType.s32, .n32]
abbrev SignedType (a : ElemArgs) : Prop := a.ty ∈ [ElemType.s32, .s16x2, .s8x4]
abbrev FloatType (a : ElemArgs) : Prop := a.ty ∈ [ElemType.f32, .bf16x2, .f16x2]

/-- Lowest and highest value of a lane (R162). -/
def laneMin (ty : ElemType) : Int := if laneSigned ty then -((2 ^ (laneWidth ty - 1) : Nat) : Int) else 0
def laneMax (ty : ElemType) : Int :=
  if laneSigned ty then ((2 ^ (laneWidth ty - 1) : Nat) : Int) - 1 else ((2 ^ laneWidth ty : Nat) : Int) - 1

/-- A value clamped to the range of a lane (R162). -/
def clamp (ty : ElemType) (v : Int) : Int := max (laneMin ty) (min (laneMax ty) v)

/-- The comparison of a COND code (R81). -/
def holds (cond : Nat) (x y : Int) : Bool :=
  if cond = 0 then x = y else if cond = 1 then x ≠ y else if cond = 2 then x < y else if cond = 3 then x ≤ y
  else if cond = 4 then y < x else y ≤ x

/-! ## What an element emits -/

/-- The value of a sign, a magnitude and an exponent. -/
def signed (s : Bool) (m : Nat) (e : Int) : ℚ := (if s then -1 else 1) * m * 2 ^ e

/-- The targets that stay in the block: operand slots and kind "none" (R82). -/
abbrev slotsOrNone (t : Target) : Prop :=
  match t.dest with
  | .none | .slot _ _ => True
  | _ => False

/-- The rule of WHEN (R82, R159): 0 always, 1 where the predicate that F6 selects is true, 2 where it is false. The predicate is the
operand's being non-zero, inverted by INV, and true where F6 selects none. -/
def whenMet (a : ElemArgs) (o : Opnds) (t : Target) : Bool :=
  let p : Bool := match a.f6 with
    | .pred inv n => n = 0 || ((o.val (n.toNat - 1) != 0) != inv)
    | .wave _ _ _ => true
  t.whenP = 0 || (t.whenP = 1 && p) || (t.whenP = 2 && !p)

/-- The token that a result sends to an operand slot of the block, by the placement of the frame (R53, R57, R82). -/
def sentTo (c : Core) (sh : Shot) (i : Nat) (t : Target) (v : Option Word) (ok : Bool) (tag : Tag) (d : Bool)
    (origin : Option Tag) (fab : Bool) : List Transit :=
  match v, t.dest with
  | some v, .slot n os =>
    match Tab.find? (c.frame sh.frame).map n.toNat with
    | some e =>
      if ok then
        [{ chan := [0, sh.e, i], dest := .elem e os.toNat, ready := sh.ready, src := some sh.frame,
           msg := .narrow { elem := e, slot := os.toNat, ma := sh.args.ma,
                            slv := if sh.args.ma = .sticky ∨ sh.args.ma = .purge then t.slv.toNat else 0,
                            tag := tag, val := v, d := d, origin := origin, fab := fab, inst := some sh.inst } sh.args.task.toNat }]
      else []
    | none => []
  | _, _ => []

/-- The F tokens of a fault word and an origin: the tag is the fired tag under F5, or the fired tag where F5 itself faults (R54). -/
def faultTo (c : Core) (sh : Shot) (o : Opnds) (word : Word) (origin : Tag) (d : Bool) (ok : Target → Bool) :
    List Transit :=
  let tag := match tagApply sh.args.tagOp o.tag with | .ok t => t | .error _ => o.tag
  sentTo c sh 1 sh.args.t1 (some word) (ok sh.args.t1) tag d (some origin) false ++
  sentTo c sh 2 sh.args.t2 (some word) (ok sh.args.t2) tag d (some origin) false ++
  sentTo c sh 3 sh.args.t3 (some word) (ok sh.args.t3) tag d (some origin) false

/-- Between two states the only change is that messages have joined those in transit on a core. -/
def Sends (s t : State) (k : Nat) (ms : List Transit) : Prop :=
  { t with cores := s.cores } = s ∧ (∀ j, j ≠ k → t.core j = s.core j) ∧
  t.core k = { s.core k with transit := (s.core k).transit ++ ms }

/-- The element instructions with a type that follow R54. -/
def typedInstrs (a : ElemArgs) : List Instr :=
  [.const a, .add a, .sub a, .addsat a, .subsat a, .mul a, .mulh a, .mad a, .div a, .rem a, .and a, .or a, .xor a, .andn a, .shl a,
   .shr a, .sra a, .rot a, .min a, .max a, .abs a, .clz a, .popc a, .bfx a, .bfi a, .cmp a, .lea a, .ext a, .perm a, .sacc a, .sswap a,
   .scount a, .fadd a, .fsub a, .fmul a, .fma a, .fmin a, .fmax a, .fsgn a, .fcmp a, .frcp a, .frsq a, .fex2 a, .flg2 a, .fcvt a,
   .frnd a, .fclass a, .smerge a]

/-- The dataflow and tag instructions that follow R54. -/
def flowInstrs (a : ElemArgs) : List Instr :=
  [.merge a, .copy a, .purge a, .enter a, .next a, .leave a, .tagget a, .tagset a, .call a, .ret a]

/-- The other element instructions that follow R54 and keep their F token from becoming precise there, each with whether its row of R88 has a
type. -/
def accessInstrs (a : ElemArgs) : List (Bool × Instr) :=
  [(true, .ld a), (true, .ldx a), (true, .lds a), (true, .iget a), (true, .atom a), (true, .red a), (true, .rld a), (false, .fence a),
   (false, .talloc a), (false, .tstate a), (false, .tfree a), (false, .awaitf a), (false, .barArrive a), (false, .barWait a),
   (false, .censUp a), (false, .censDn a), (false, .phaseWait a), (false, .waitT a), (false, .seqOpen a), (false, .seqClose a),
   (false, .commit a), (false, .kvAlloc a), (false, .kvAttach a), (false, .kvFree a), (false, .pfxAttach a), (false, .pfxEvict a),
   (false, .gStep a), (false, .gMask a), (false, .gFork a), (false, .gRoll a), (false, .gSave a), (false, .gLoad a), (false, .sdec a),
   (false, .senc a), (false, .trap a), (false, .fault a), (false, .sregRd a), (false, .sregWr a)]

/-- The stores to this package, at which an F token becomes precise (R62, R450). -/
def storePoints (a : ElemArgs) : List (Bool × Instr) :=
  [(true, .st a), (true, .stx a), (true, .iput a), (false, .send a), (false, .ringInit a), (false, .relslot a)]

/-- The remote accesses of a release set; a remote store is a point at which an F token becomes precise (R62, R318). -/
def remoteInstrs (a : ElemArgs) : List (Bool × Instr) :=
  [(true, .rst a), (true, .rat a), (true, .rred a), (false, .rcopen a), (false, .rrel a)]

/-- Nothing but the core `k` differs between two states. -/
def OnlyCore (s t : State) (k : Nat) : Prop := { t with cores := s.cores } = s ∧ ∀ j, j ≠ k → t.core j = s.core j

/-! ## Accesses -/

/-- The record of an access that an element has fired (R61, R237). -/
def firedAccess (s : State) (k e : Nat) (i : Instr) (x : Fired) (id : Nat) : Access :=
  { id := id, elem := e, frame := (s.elem k e).frame, slot := (s.elem k e).slot, instr := i, toks := x.toks, tag := x.tag, inst := x.inst }

/-- The only change is that an access has joined its core: ready to be performed, or held until its instance commits. An access that is
held fires late where its instance has committed: it is ready at once, behind that instance's other accesses (R61, R450), but ahead of the
generation instructions of higher slots where it is one itself (R347; the model's reading, assumption log 127); a late `send` takes its
instance's place in the order of commits (R280). -/
def Joins (s t : State) (k : Nat) (x : Access) (hold : Bool) : Prop :=
  let c := s.core k
  let late := hold && c.instCommitted x.frame x.inst
  OnlyCore s t k ∧
  t.core k = { c with accesses := c.accesses ++ [{ x with
    stage := if hold && !late then .held else .ready
    after := if late then (c.accesses.filter fun y => y.frame = x.frame ∧ y.inst = x.inst ∧
      ¬(isGenOpc x.opc ∧ isGenOpc y.opc ∧ x.slot < y.slot)).map (·.id) else []
    joined := if late ∧ x.opc = 0x14D then ((c.inst? x.frame x.inst).map (·.order)).getD x.id else x.id }] }

/-- Bytes of an access by COND [1:0] (R260). -/
def bytesOf (a : ElemArgs) : Nat := if a.cond.toNat % 4 = 0 then 4 else if a.cond.toNat % 4 = 1 then 2 else 1

/-- How a memory instruction fires: its bytes and alignment, whether it reads and writes, is held to commit and takes a place in its wave,
and what it needs of the place (R246, R260 to R268). -/
structure MemForm where
  instr : Instr
  bytes : Nat
  align : Nat
  rd : Bool
  wr : Bool
  hold : Bool
  ordered : Bool
  needs : Spot → Bool

/-- The loads, stores, synchronising accesses and atomics. -/
def memForms (a : ElemArgs) : List MemForm :=
  let n := bytesOf a
  let hostOk (all : Bool) (p : Spot) : Bool :=
    p.region != .hostMem || (a.ty != .f32 && (a.cond.toNat == 0 || (all && (a.cond.toNat == 6 || a.cond.toNat == 7))))
  [⟨.ld a, n, 1, true, false, false, true, fun _ => true⟩, ⟨.st a, n, 1, false, true, true, true, fun _ => true⟩,
   ⟨.ldx a, n, 1, true, false, false, false, fun _ => true⟩, ⟨.stx a, n, 1, false, true, true, false, fun _ => true⟩,
   ⟨.lds a, 4, 4, true, false, false, true, Spot.hasFull⟩, ⟨.iput a, 4, 4, false, true, true, false, Spot.hasFull⟩,
   ⟨.iget a, 4, 4, true, false, false, false, Spot.hasFull⟩, ⟨.atom a, 4, 4, true, true, true, true, hostOk true⟩,
   ⟨.red a, 4, 4, true, true, true, true, hostOk false⟩]

/-- The instructions of the sequence and Serpent units (R347). -/
def unitInstrs (a : ElemArgs) : List Instr :=
  [.seqOpen a, .seqClose a, .commit a, .kvAlloc a, .kvAttach a, .kvFree a, .pfxAttach a, .pfxEvict a, .gStep a, .gMask a, .gFork a,
   .gRoll a, .gSave a, .gLoad a]

/-- The instructions of the synchronisation port (R332). -/
def syncInstrs (a : ElemArgs) : List Instr := [.barArrive a, .barWait a, .censUp a, .censDn a, .phaseWait a]

/-- An access has its turn and may be performed: it is on its core, its launch lets it be performed, and nothing that it stands behind is
left (R240 to R244, R343). -/
abbrev Performs (s : State) (k : Nat) (x : Access) : Prop :=
  s.agent = .access k x.id ∧ k < 64 ∧ (s.core k).access? x.id = some x ∧ s.accessRuns k x = true ∧ x.stage = .ready ∧
  (s.core k).mayPerform x = true

/-- The access meets the local window: segment 15, within the scratchpad, with no word poisoned and no tile in its way (R229, R255). -/
abbrev InWindow (s : State) (k : Nat) (x : Access) (n : Nat) (plainStore : Bool) : Prop :=
  let off := x.opnds.val 0 % 2 ^ 28
  x.opnds.val 0 / 2 ^ 28 = 15 ∧ off + n ≤ (s.core k).scrBytes ∧ (s.core k).scrBytes ≤ 2 ^ 25 ∧ x.width = n ∧
  (s.core k).scrPoisoned off n = false ∧
  (s.core k).tileGate x { loc := true, va := windowBase + off, off := off } n plainStore = .go

/-- The little-endian number in bytes `a` to `a + n - 1` of a memory (R8). -/
def numberAt (m : List Host.Cell) (a : Nat) : Nat → Nat
  | 0 => 0
  | n + 1 => (byteAt m a).toNat + 256 * numberAt m (a + 1) n

/-- A loaded value of `n` bytes, sign-extended under `.s32` (R261). -/
def extended (a : ElemArgs) (n v : Nat) : Nat := if a.ty = .s32 then ((BitVec.ofNat (8 * n) v).signExtend 32).toNat else v

/-- Every store before an ordered load in its chain lies in the local window. -/
abbrev ChainInWindow (s : State) (k : Nat) (x : Access) : Prop :=
  ∀ y ∈ (s.core k).storesBefore x, y.opnds.val 0 / 2 ^ 28 = 15 ∧ 0 < y.width ∧ y.opnds.val 0 % 2 ^ 28 + y.width ≤ (s.core k).scrBytes

/-- What an ordered load of `n` bytes of the window reads: each byte of the scratchpad, or of the latest store before it in its chain that
covers the byte (R240, R254). -/
def chainNumber (s : State) (k : Nat) (x : Access) (off n : Nat) : Nat :=
  let lay (a : Nat) (b : Byte) (y : Access) : Byte :=
    let lo := y.opnds.val 0 % 2 ^ 28
    if lo ≤ a ∧ a < lo + y.width then BitVec.ofNat 8 (y.opnds.val 1 / 256 ^ (a - lo)) else b
  ((List.range n).map fun j =>
    (((s.core k).storesBefore x).foldl (lay (off + j)) (byteAt (s.core k).cells (off + j))).toNat * 256 ^ j).sum

/-- The D bit of such a load: a word that a store covers whole has the store's, one that it covers in part has it beside its own (R259). -/
def chainMark (s : State) (k : Nat) (x : Access) (off n : Nat) : Bool :=
  let lay (w : Nat) (d : Bool) (y : Access) : Bool :=
    let lo := y.opnds.val 0 % 2 ^ 28
    if lo ≤ 4 * w ∧ 4 * w + 4 ≤ lo + y.width then y.opnds.dAll
    else if lo < 4 * w + 4 ∧ 4 * w < lo + y.width then d || y.opnds.dAll else d
  (wordsTouched off n).any fun w => ((s.core k).storesBefore x).foldl (lay w) ((s.core k).scrD w)

/-- The memories of a state: the scratchpads, HBM and host memory read the same in both. -/
def SameMemory (s t : State) : Prop :=
  (∀ k a, byteAt (t.core k).cells a = byteAt (s.core k).cells a) ∧ (∀ a, byteAt t.hbm a = byteAt s.hbm a) ∧
  (∀ a, byteAt t.hostMem a = byteAt s.hostMem a)

/-- The only bytes of memory that changed are `n` bytes of a core's scratchpad, which now hold the number `v`, little-endian (R8). -/
def Stored (s t : State) (k off n v : Nat) : Prop :=
  (∀ j < n, byteAt (t.core k).cells (off + j) = BitVec.ofNat 8 (v / 256 ^ j)) ∧
  (∀ a, (a < off ∨ off + n ≤ a) → byteAt (t.core k).cells a = byteAt (s.core k).cells a) ∧
  (∀ j a, j ≠ k → byteAt (t.core j).cells a = byteAt (s.core j).cells a) ∧
  (∀ a, byteAt t.hbm a = byteAt s.hbm a) ∧ (∀ a, byteAt t.hostMem a = byteAt s.hostMem a)

/-- The access meets `n` bytes of translated memory, whose checks pass again as it is performed (R257, R388). -/
abbrev OnPages (s : State) (k : Nat) (x : Access) (n : Nat) (rd wr : Bool) (p : Spot) (s1 : State) : Prop :=
  x.width = n ∧ s.checkSpot k (x.opnds.val 0) n rd wr x.opnds.dAll = (.ok p, s1) ∧ p.loc = false

/-- The little-endian number in the pieces of a translated access: of host memory, of what HBM stores under an OPEN mapping, and of the
plaintext under any other (R8, R394). -/
def heldNumber (s : State) : List Piece → Nat
  | [] => 0
  | q :: qs =>
    let byte (a : Nat) : Byte := if q.t.host then byteAt s.hostMem a else if q.t.cls = 0 then s.storedByte a else byteAt s.hbm a
    ((List.range q.n).map fun j => (byte (q.t.pa + j)).toNat * 256 ^ j).sum + 256 ^ q.n * heldNumber s qs

/-- The byte of the number `v` that its storing in the pieces gives a physical address of HBM or of host memory. -/
def pieceByte (host : Bool) (a : Nat) : List Piece → Nat → Option Byte
  | [], _ => none
  | q :: qs, v =>
    if q.t.host = host ∧ q.t.pa ≤ a ∧ a < q.t.pa + q.n then some (BitVec.ofNat 8 (v / 256 ^ (a - q.t.pa)))
    else pieceByte host a qs (v / 256 ^ q.n)

/-- The only bytes of memory that changed are those of the pieces, which now hold the number `v`, little-endian. Under an OPEN mapping the
rest of a line that was encrypted reads from now on as what HBM stored of it (R394). -/
def Placed (s t : State) (ps : List Piece) (v : Nat) : Prop :=
  (∀ a, byteAt t.hostMem a = (pieceByte true a ps v).getD (byteAt s.hostMem a)) ∧
  (∀ a, byteAt t.hbm a = (pieceByte false a ps v).getD
    (if ps.any (fun q => !q.t.host && q.t.cls == 0 && (linesTouched q.t.pa q.n).contains (a / 128)) then s.storedByte a
     else byteAt s.hbm a)) ∧
  ∀ j a, byteAt (t.core j).cells a = byteAt (s.core j).cells a

/-- The words of the pieces in HBM are full. -/
def PiecesFull (t : State) (ps : List Piece) : Prop :=
  ∀ q ∈ ps, q.t.host = false → ∀ a, q.t.pa ≤ a → a < q.t.pa + q.n → t.wordFull a = true

/-- The result of the access: its record is dropped, and the payload goes to every target (R53, R61). -/
def finished (s : State) (k : Nat) (x : Access) (v : Nat) (d : Bool) : State :=
  (s.onCore k (·.dropAccess x.id)).yield (x.shot k s.now) x.opnds (value x.args x.opnds v d)

/-- The F token of an access that fails without an address (R160, R257). -/
def failed (s : State) (k : Nat) (x : Access) (code detail : Nat) : State :=
  (s.onCore k (·.dropAccess x.id)).raise (x.shot k s.now) code detail x.tag x.opnds.dAll

/-- The F token of an access that a check has turned away, with the virtual address that the check gives (R160, R257, R429). -/
def refused (s : State) (k : Nat) (x : Access) (b : Bad) : State := failed (s.noteBad k x.tag b) k x b.code b.detail

/-- The access of the turn ends with the value `v`, its effect on the state before being one of which `p` holds. -/
def EndsWith (s : State) (k : Nat) (x : Access) (v : Nat) (d : Bool) (p : State → Prop) : Prop :=
  ∃ u, p u ∧ exec .memAccessComplete s = .next (finished u k x v d)

/-- The access of the turn waits, and nothing has changed. -/
def StaysReady (s : State) : Prop := exec .memAccessComplete s = .next s

/-- The new value of an atomic operation (R267). -/
def atomicNew (a : ElemArgs) (old b c : Nat) : Nat :=
  let z (v : Nat) : Int := if a.ty = .s32 then (BitVec.ofNat 32 v).toInt else v
  let op := a.cond.toNat
  if op = 0 then (if a.ty = .f32 then fadd fp32 old b else (old + b) % 2 ^ 32)
  else if op = 1 then (if a.ty = .f32 then fmin fp32 old b else if z old ≤ z b then old else b)
  else if op = 2 then (if a.ty = .f32 then fmax fp32 old b else if z old ≤ z b then b else old)
  else if op = 3 then old &&& b else if op = 4 then old ||| b else if op = 5 then old ^^^ b
  else if op = 6 then b else if old = b then c else old

/-! ## Generation -/

/-- The access names sequence slot `q` of its partition `p` by the context of its tag, in launch `L` (R347). -/
abbrev OnSlot (s : State) (k : Nat) (x : Access) (l : Nat) (L : Launch) (p q : Nat) : Prop :=
  s.coreLaunch k = some (l, L) ∧ L.part = some p ∧ ctxOf x.tag = 0xC00 + q

/-- The slot is one of the partition, OPEN or, where that is admitted, ENDED, and no `seq.close` of it has begun. -/
abbrev SlotOk (s : State) (p q : Nat) (ended : Bool) : Prop :=
  let r := s.slot q
  (s.part p).slot0 ≤ q ∧ q < (s.part p).slot0 + (s.part p).nslot ∧ r.closing = false ∧ (r.st = .opened ∨ (ended = true ∧ r.st = .ended))

/-- A drain of pages of a slot has begun, and the access waits for its end. -/
def DrainBegun (s t : State) (k : Nat) (x : Access) (q : Nat) (pages : List Nat) (freed : Tab DWord) : Prop :=
  t.drains = s.drains ++ [{ slot := q, pages := pages, freed := freed, core := k, access := x.id }] ∧
  ((t.core k).access? x.id).map (·.stage) = some .waiting ∧ SameMemory s t

/-- A prefix entry after one of its references is dropped: at count 0 it records its release time (R360). -/
def unreferenced (s : State) (e : PrefixEntry) : PrefixEntry :=
  { e with count := e.count - 1, released := if e.count = 1 then s.now else e.released }

/-- The context that an access of core `k` names is one of its cluster's unit (R366). -/
abbrev OwnContext (s : State) (k n : Nat) (c : Serpent) : Prop := n / 64 = k / 4 ∧ s.serpent? n = some c

/-! ## Configuration words -/

/-- A core takes the word at the head of its configuration FIFO: it has the turn, the word has reached it, its scratchpad is zeroed, and
its launch has not failed (R21, R68, R76). -/
abbrev Takes (s : State) (k : Nat) (rest : List (Nat × Word)) : Prop :=
  s.agent = .config k ∧ k < 64 ∧ (s.core k).zeroUntil ≤ s.now ∧ s.coreLive k = true ∧
  ∃ n w, (s.core k).fifo = (n, w) :: rest ∧ n ≤ s.now

/-- The state after the word has left the FIFO: it is in effect from the next cycle (R68), and the first word of a launch clears the nodes,
the tile table and the ring entries (R189, R205, R213, R271, R281). -/
def wordTaken (s : State) (k : Nat) (rest : List (Nat × Word)) : State :=
  s.onCore k fun c => { c.firstWord with fifo := rest, wordsFrom := s.now + 1 }

/-- A word changed the open frame of a core and nothing else. -/
def Edits (s t : State) (k f : Nat) (g : Frame → Frame) : Prop :=
  OnlyCore s t k ∧ (t.core k).frame f = g ((s.core k).frame f) ∧ (∀ j, j ≠ f → (t.core k).frame j = (s.core k).frame j) ∧
  t.core k = { s.core k with frames := (t.core k).frames }

/-- The launch of a core fails with a status and its details, and nothing else changes (R133). -/
def Fails (s t : State) (k : Nat) (f : Failure) : Prop :=
  ∃ l L, s.coreLaunch k = some (l, L) ∧ { t with launches := s.launches } = s ∧
    t.launch l = { L with st := .failing, failure := some f } ∧ ∀ j, j ≠ l → t.launch j = s.launch j

/-! ## Sequencers -/

/-- A sequencer executes its instruction: it has the turn, its launch runs, it does not wait, and its stall time has passed (R110). -/
abbrev SeqRuns (s : State) (c : Nat) (l : Nat × Launch) : Prop :=
  s.agent = .seq c ∧ c < 16 ∧ s.seqLaunch c = some l ∧ l.2.st = .running ∧ (s.seq c).mode = .run ∧ (s.seq c).issueFrom ≤ s.now

/-- The registers that an instruction reads hold results that are ready (R111, R112). -/
abbrev RegsReady (s : State) (c : Nat) (xs : List (BitVec 5)) : Prop :=
  ∀ x ∈ xs, x ≠ 0 → (Tab.get {} (s.seq c).ready x.toNat).from_ ≤ s.now

/-- The state once the interlock has let an instruction go: a hold behind a producer of fixed latency has counted SEQ.SHORTSTALL
(R112). -/
def gated (s : State) (c : Nat) (xs : List (BitVec 5)) : State := s.onSeq c fun _ => ((s.seq c).gate s.now xs).2

/-- A pc that R116 allows, where the program runs from instruction memory; a generated program has no pc of its own (R136). -/
abbrev GoodPc (q : Seq) (pc : Int) : Prop := q.ranNative = true → pc % 4 = 0 ∧ 0 ≤ pc ∧ pc < 0x10000

/-- Nothing but a sequencer differs between two states. -/
def OnlySeq (s t : State) (c : Nat) : Prop := { t with seqs := s.seqs } = s ∧ ∀ d, d ≠ c → t.seq d = s.seq d

/-- The frame of an instruction that retires: only its sequencer changes, and of that only the registers named here; `xd` alone among the
general registers takes a new value, and x0 stays zero (R108). The next instruction issues after the stall time, at `pc`, or is the next of
a generated program. -/
def Retires (s t : State) (c : Nat) (stall : Nat) (pc : Int) (xd : BitVec 5) (v : DWord) : Prop :=
  let q := s.seq c
  let q' := t.seq c
  OnlySeq s t c ∧
  q' = { q with x := q'.x, pc := q'.pc, issueFrom := q'.issueFrom, ready := q'.ready, shortstall := q'.shortstall, gen := q'.gen } ∧
  (∀ y : BitVec 5, q'.reg y = if y ≠ 0 ∧ y = xd then v else q.reg y) ∧
  q'.issueFrom = s.now + 1 + stall ∧
  (if q.ranNative then (q'.pc : Int) = pc ∧ q'.gen = q.gen else q'.pc = q.pc ∧ q'.gen = q.gen.tail)

/-- When the result of `xd` is readable: `lat` cycles after issue (R111). -/
def Readable (s t : State) (c : Nat) (xd : BitVec 5) (lat : Nat) (fixed : Bool) : Prop :=
  xd ≠ 0 → Tab.get {} (t.seq c).ready xd.toNat = { from_ := s.now + lat, fixed := fixed }

/-- The launch of a sequencer fails and the sequencer stops (R133). -/
def SeqFails (s t : State) (c : Nat) (status detail0 : Nat) : Prop :=
  ∃ l L, s.seqLaunch c = some (l, L) ∧ (t.launch l).st = .failing ∧
    (L.st ≠ .failing → ∃ f, (t.launch l).failure = some f ∧ f.status = status ∧ ((s.seq c).ranNative = true → f.detail0 = detail0)) ∧
    (t.seq c).mode = .stopped ∧ (∀ y, (t.seq c).reg y = (s.seq c).reg y) ∧ SameMemory s t

/-! ## Handlers -/

/-- A node issues a command of its running handler `r`: it has the turn, the command may issue, and its launch has not failed (R191). -/
abbrev Issues (s : State) (k n : Nat) (kind : NodeKind) (r : Running) : Prop :=
  s.agent = .node k n ∧ k < 64 ∧ nodeKindOf n = some kind ∧ (s.node k n).running = some r ∧ r.cmds ≠ [] ∧ r.next ≤ s.now ∧
  s.coreLive k = true

/-- Nothing but a node differs between two states, and the free values that were taken. -/
def OnlyNode (s t : State) (k n : Nat) : Prop :=
  { t with cores := s.cores, free := s.free } = s ∧ (∀ j, j ≠ k → t.core j = s.core j) ∧
  t.core k = { s.core k with nodes := (t.core k).nodes } ∧ ∀ m, m ≠ n → t.node k m = s.node k m

/-- Whether the lanes of a vector type are 32 bits wide (R91). -/
def wideLanes : VType → Bool
  | .f32 | .s32 => true
  | _ => false

/-- The float format of a vector type that has one (R91). -/
def laneFmt : VType → FFmt
  | .bf16x2 => bf16
  | .f16x2 => fp16
  | _ => fp32

/-- Lane or half-lane `i` of 64 words (R91). -/
def vecLane (t : VType) (xs : List Nat) (i : Nat) : Nat :=
  if wideLanes t then xs.getD i 0 else xs.getD (i / 2) 0 / 2 ^ (16 * (i % 2)) % 2 ^ 16

/-- The 64 words whose lanes or half-lanes are `g i`. -/
def vecWords (t : VType) (g : Nat → Nat) : List Nat :=
  (List.range 64).map fun j => if wideLanes t then g j else g (2 * j) + 2 ^ 16 * g (2 * j + 1)

/-- A 32-bit lane read signed, and a number modulo 2^32. -/
def s32 (x : Nat) : Int := (BitVec.ofNat 32 x).toInt
def u32 (x : Int) : Nat := (x % (2 ^ 32 : Nat)).toNat

/-- An operation of a lane: on floats of its format, or on signed integers modulo 2^32. -/
def laneOp (t : VType) (f : FFmt → Nat → Nat → Nat) (g : Int → Int → Int) (x y : Nat) : Nat :=
  if t = .s32 then u32 (g (s32 x) (s32 y)) else f (laneFmt t) x y

/-- The fixed pairwise tree of R195 over 2^n lanes. -/
def tree (f : Nat → Nat → Nat) : Nat → (Nat → Nat) → Nat
  | 0, g => g 0
  | n + 1, g => f (tree f n g) (tree f n fun i => g (i + 2 ^ n))

/-- The registers among some source codes hold their results: each command's is ready a latency after its issue (R191). -/
abbrev NodeRegsReady (s : State) (k n : Nat) (codes : List (BitVec 5)) : Prop :=
  ∀ c ∈ codes, c.toNat < 16 → Tab.get 0 (s.node k n).wReady c.toNat ≤ s.now

/-- A vector command that reads `nsrc` sources delivers, `lat` cycles later, the lanes `g` of type `ty` with the OR of the sources' D bits,
to its register or on its port, and the handler goes on; it waits while a register that it reads is not ready (R191, R192). -/
def VecGives (i : VArgs → Instr) (nsrc : VArgs → Nat) (lat : Nat) (p : VArgs → Prop) (ty : VArgs → VType)
    (g : VArgs → (a b c : List Nat) → Nat → Nat) : Prop :=
  ∀ (v : VArgs) (s : State) (k n : Nat) (r : Running), Issues s k n .vector r → p v →
    let src (j : Nat) (code : BitVec 5) : List Nat × Bool :=
      if j < nsrc v then (s.node k n).source r.task (4 * s.free + j) code.toNat else ([], false)
    let a := src 0 v.a
    let b := src 1 v.b
    let c := src 2 v.c
    let codes := [v.a, v.b, v.c].take (nsrc v)
    (NodeRegsReady s k n codes → exec (i v) s = .next
      ((({ s with free := s.free + 1 } : State).sinkVec k n r.task.tag v.d.toNat lat (vecWords (ty v) (g v a.1 b.1 c.1))
          (a.2 || b.2 || c.2)).advance k n)) ∧
    (¬ NodeRegsReady s k n codes → exec (i v) s = .next s)

/-- The vector commands with the form of R91. -/
def vectorInstrs (v : VArgs) : List Instr :=
  [.vadd v, .vsub v, .vmul v, .vfma v, .vmax v, .vmin v, .vscl v, .vcmp v, .vsel v, .vperm v, .vbcast v, .vexp v, .vrcp v, .vrsq v,
   .vtanh v, .vsum v, .vmaxr v, .vcvt v, .vnoise v, .vmask v, .vargmax v]

/-- The source codes that a vector command reads (R191, R193 to R196, R226). -/
def codesRead (v : VArgs) : Instr → List (BitVec 5)
  | .vfma _ | .vsel _ | .vmask _ => [v.a, v.b, v.c]
  | .vexp _ | .vrcp _ | .vrsq _ | .vtanh _ | .vsum _ | .vmaxr _ => [v.a]
  | .vcvt _ => if wideLanes v.vt ∧ v.mod.toNat % 4 ≠ 0 then [v.a, v.b] else [v.a]
  | _ => [v.a, v.b]

/-! ## The matrix array -/

/-- The value of a decoded number; 0 where it is no finite one. -/
def finVal : FVal → ℚ
  | .fin s m e => signed s m e
  | _ => 0

/-- The exact weight of row `i` of a column (R147, R149, R211): its code where the weights are BF16, and its distance from the zero point
times the scale of its group otherwise. -/
def weightVal (b : Bank) (c i : Nat) : ℚ :=
  let q := (b.codes.getD c []).getD i 0
  if b.fmt = .bf16 then finVal (fdecode bf16 q)
  else
    let e := ((b.entries.getD c []).getD (i / (32 * 2 ^ b.grp)) 0).toNat
    ((q : ℚ) - (e / 2 ^ 16 % 2 ^ 8 : Nat)) * finVal (fdecode fp16 (e % 2 ^ 16))

/-- A row of an accumulator node. -/
def rowAt (s : State) (k n j : Nat) : AccRow := Tab.get {} (s.node k n).rows j

/-! ## Events -/

/-- The message at the head of its channel that a node may take next: none before it on its channel, and its cycle has come (R43). -/
abbrev NextMessage (s : State) (k n i : Nat) (t : Transit) (port : Nat) : Prop :=
  (s.core k).nextFor s.now n = some (i, t) ∧ t.dest = .node n port ∧ s.vanishes k t.msg.tag = false

/-- The state once the message has left the network and its context, if it is new to the core, has its first commit token (R59). -/
def messageTaken (s : State) (k i : Nat) (t : Transit) : State := (s.onCore k (·.dropTransit i)).firstToken k (ctxOf t.msg.tag)

/-- An element's matcher takes the token of `q`: it is ready, no timer has expired, and the entry holds no reservation (R47, R48). -/
abbrev TakesToken (s : State) (k e opc : Nat) (a : ElemArgs) (q : Queued) : Prop :=
  s.agent = .elem k e ∧ k < 64 ∧ e < 1024 ∧ nextQueued (s.elem k e).queue = some q ∧ (s.elem k e).instr.bind elemParts = some (opc, a) ∧
  (s.elem k e).takeFrom ≤ s.now ∧ (s.elem k e).expired (s.timerNow k) = none ∧ q.hold = none ∧ q.tok.elem = e

/-- The element after its matcher has taken the token of `q`. -/
def tookToken (s : State) (k e : Nat) (q : Queued) : Elem :=
  { s.elem k e with queue := (s.elem k e).queue.erase q, takeFrom := s.now + 1 }

/-! ## Queues -/

/-- The command at the head of a queue is executed (R134). -/
abbrev Executes (s : State) (q : Nat) (i : Instr) : Prop :=
  s.agent = .queue q ∧ q < 131072 ∧ (s.queue q).head = .running i

/-- A command completes with a status and its details (R135). -/
abbrev Answers (o : Out) (s : State) (q : Nat) (h : CmdHeader) (status d0 d1 : Nat) : Prop :=
  o = .next (s.completeHead q h status d0 d1)

/-- Function and first queue of a queue's function (R130). -/
abbrev fnOf (q : Nat) : Nat := Config.queueFn q
abbrev partOf (s : State) (q : Nat) : Option Nat := s.asidPart (s.queue q).asid

/-- The first index of a queue of `n` names another, `d` on, modulo 2^32. -/
abbrev ahead (x y : Word) : Nat := (y - x).toNat

/-! ## The fabric -/

/-- The packet that arrived first at a port that takes packets, in a microsecond, of a type, with `rest` behind it (R295). -/
abbrev Stands (s : State) (n : Nat) (p : Packet) (rest : List (Nat × Packet)) (ptype time : Nat) : Prop :=
  s.agent = .port n ∧ n < 96 ∧ (s.port n).hold = false ∧ (s.port n).arrived = (time, p) :: rest ∧ p.ptype.toNat = ptype

/-- A port takes the packet that arrived first, of a type, with `rest` behind it: the packet has stood there for 1 ms at most (R297). -/
abbrev Receives (s : State) (n : Nat) (p : Packet) (rest : List (Nat × Packet)) (ptype : Nat) : Prop :=
  ∃ time, Stands s n p rest ptype time ∧ s.board.micros ≤ time + 1000

/-- The state once the packet has left the port. -/
def received (s : State) (n : Nat) (rest : List (Nat × Packet)) : State := s.onPort n fun x => { x with arrived := rest }

/-- The port accepts the packet (R391, R418). -/
abbrev Accepts (s : State) (n : Nat) (p : Packet) (rest : List (Nat × Packet)) (ptype : Nat) : Prop :=
  Receives s n p rest ptype ∧ (received s n rest).refusal n p = none

/-- The packet answers epoch `e`, which stands at place `i` of the epochs and is the only one of its partition, job, rank and counter id
(R293). -/
abbrev Answers_ (s : State) (p : Packet) (i : Nat) (e : Epoch) : Prop :=
  s.epochs[i]? = some e ∧ e.st ≠ .failed ∧ e.part = p.dpart.toNat ∧ e.hdr.job = p.job ∧ e.hdr.drank = p.srank ∧ e.hdr.cid = p.cid ∧
  e.hdr.gen = p.gen ∧
  ∀ j x, j < i → s.epochs[j]? = some x →
    ¬ (x.st ≠ .failed ∧ x.part = p.dpart.toNat ∧ x.hdr.job = p.job ∧ x.hdr.drank = p.srank ∧ x.hdr.cid = p.cid)

/-- The packet is of the record `r` at place `i`, of its generation (R297). -/
abbrev Recorded (s : State) (p : Packet) (i : Nat) (r : RecvRec) : Prop :=
  s.recordOf p = some i ∧ s.records[i]? = some r ∧ r.hdr.gen = p.gen

/-- The packet answers the first request `r` of its kind, tag, request id, job, rank and partition, with `rest` left (R302). -/
abbrev Replies (s : State) (p : Packet) (want : Nat) (r : Request) (rest : List Request) : Prop :=
  s.requests = r :: rest ∧ r.packet.ptype.toNat = want ∧ r.packet.reqid = p.reqid ∧ r.packet.tag = p.tag ∧ r.packet.job = p.job ∧
  r.packet.drank = p.srank ∧ r.packet.spart = p.dpart

/-- The held writes of an epoch leave in order, each from the window, and give their results (R296). -/
def heldLeave (e : Epoch) (s : State) : List (Nat × Nat) → State
  | [] => s
  | h :: hs =>
    heldLeave e (match e.window.find? fun w => w.1 == h.1 with | some w => s.sendWrite e.core w.2 h.2 | none => s) hs

/-- The words of the pieces in HBM are empty. -/
def PiecesEmpty (t : State) (ps : List Piece) : Prop := ∀ q ∈ ps, ∀ a, q.t.pa ≤ a → a < q.t.pa + q.n → t.wordFull a = false

/-- The window value of a complete round on an old word (R305): `.f32` add is one rounding of the old value and the partial sum, and a NaN
or infinity where a flag or the old word says so; any other operation combines the two. -/
def WindowValue (r : Round) (old v : Nat) : Prop :=
  let grid := r.hdr.ty = 6 ∧ r.hdr.op = 0
  let e : Int := (r.hdr.wexp.toNat : Int) - 127 - 64
  (r.poison = true → v = if r.hdr.ty = 6 then 0x7FC00000 else 0x80000000) ∧
  (r.poison = false → grid →
    (r.flags.testBit 2 = true ∨ (r.flags.testBit 0 = true ∧ r.flags.testBit 1 = true) → v = 0x7FC00000) ∧
    (r.flags.testBit 2 = false → r.flags.testBit 0 = true → r.flags.testBit 1 = false → v = 0x7F800000) ∧
    (r.flags.testBit 2 = false → r.flags.testBit 0 = false → r.flags.testBit 1 = true → v = 0xFF800000) ∧
    (∀ sg m x, r.flags.testBit 2 = false → r.flags.testBit 0 = false → r.flags.testBit 1 = false → fdecode fp32 old = .fin sg m x →
      let y := min x e
      let t : Int := (if sg then -1 else 1) * (m * 2 ^ (x - y).toNat : Nat) + r.sum * 2 ^ (e - y).toNat
      t ≠ 0 → v = fround fp32 .rne (decide (t < 0)) t.natAbs y false) ∧
    (∀ sg, r.flags.testBit 2 = false → r.flags.testBit 0 = false → r.flags.testBit 1 = false → fdecode fp32 old = .inf sg →
      v = if sg then 0xFF800000 else 0x7F800000)) ∧
  (r.poison = false → ¬ grid → v = atomicResult r.hdr.op.toNat r.hdr.elemType old r.sum.toNat 0)

/-! ## Invariants -/

/-- Every memory of the package is in its canonical form, and so is every scratchpad that a checkpoint keeps. -/
def MemoriesCanonical (s : State) : Prop :=
  Safety.MemoriesWf s ∧ ∀ c ∈ s.checkpoints, ∀ x ∈ c.cores, Memory.wf x.2.cells = true

/-- Every sequencer's pc is a multiple of 4 below 0x1_0000 (R108, R116). -/
def PcsLegal (s : State) : Prop := ∀ c, (s.seq c).pc % 4 = 0 ∧ (s.seq c).pc < 0x10000

end Sys2Proof.Claims

/-! ## Encodings, steps and reset -/

open Sys2Proof Machine Claims in
/-- R71 to R75, R79 to R87, R90 to R98, R138: decoding the encoding of any well-formed instruction gives that instruction back, with every
operand at every value that the encoding admits. -/
def Obligations.DecodeEncode : Prop := ∀ i : Instr, i.wf = true → DecodesBack i

open Sys2Proof Machine in
/-- R295: the header and the data of a packet are read back as they were laid out. -/
def Obligations.PacketRoundTrip : Prop :=
  ∀ p : Packet, p.wf = true → decodePacket (encodePacket p) p.data = p

open Sys2Proof Machine in
/-- Words written out bit by bit from R71, R75, R91 to R97 decode to the instructions that they stand for. -/
def Obligations.EncodedWords : Prop :=
  decodeConfig 0b01000001100001100001000000000001#32 = .error .reserved ∧
  decodeConfig 0b01000001100001100001000000000000#32 = .ok (.frameOpen 3 3 2) ∧
  decodeConfig 0b00000010101000000000100100000000#32 = .ok (.field 5 2 0x900) ∧
  decodeConfig 0b10000000000000001010101111001101#32 = .ok (.wide 0xABCD) ∧
  decodeConfig 0b01011100000100000100000000000101#32 = .ok (.hbind 1 1 5) ∧
  decodeSeq 0b00100000000001100010000110000000#32 = .ok (.seqAdd 1 3 2 3) ∧
  decodeSeq 0b00000100000000100001000000000111#32 = .ok (.seqAddi 0 1 1 7) ∧
  decodeSeq 0b00010000000001100000010000000010#32 = .ok (.sbind 0 3 4 2) ∧
  decodeSeq 0b00010011010000000000000000000000#32 = .ok (.halt 0) ∧
  decodeVector 0b00001100000001000010000010011000#32 = .ok (.vfma ⟨.f32, 1, 1, 0, 19, 0⟩) ∧
  decodeMatrix 0b00001000100000010000010000000000#32 = .ok (.mmRun .s8 0 0x208) ∧
  decodeAcc 0b00011000000001111111000000000000#32 = .ok (.accCfg 0x7F) ∧
  decodeConv 0b00000010000001000000001000000000#32 = .ok (.cvq ⟨.fp32, .q8, false, 0, 4⟩)

open Sys2Proof Machine in
/-- A step takes the first turn of the agenda. Where that turn is an agent's own, the agent performs exactly the instruction that it holds
(R63, R68, R110, R134): the word at a sequencer's pc, or ahead of it a pending CTXFAULT that the sequencer may take (R128), the head word
of a core's configuration FIFO, an element's instruction, the next command of a running handler, the executing command of a queue, the
packet at a port. An event is run as it comes. The agenda is the
model's own (R4, R235). -/
def Obligations.StepRunsHeld : Prop :=
  (∀ (s : State) (a : Agent) (rest : List Turn) (i : Instr) (t : State), s.agenda = .run a :: rest →
    ({ s with agenda := rest } : State).fetch a = some (i, t) → step s = exec i { t with agent := a }) ∧
  (∀ (s : State) (a : Agent) (rest : List Turn) (i : Instr), s.agenda = .event a i :: rest → encode i = [] →
    step s = exec i { s with agenda := rest, agent := a }) ∧
  (∀ (s : State) (c : Nat) (i : Instr), (s.seq c).mode = .run → (s.seq c).trapPends = false → (s.seq c).ranNative = true →
    decodeSeq (Tab.get 0 (s.seq c).imem ((s.seq c).pc / 4)) = .ok i → s.fetch (.seq c) = some (i, s)) ∧
  (∀ (s : State) (c : Nat) (r : Reject), (s.seq c).mode = .run → (s.seq c).trapPends = false → (s.seq c).ranNative = true →
    decodeSeq (Tab.get 0 (s.seq c).imem ((s.seq c).pc / 4)) = .error r →
    s.fetch (.seq c) = some (.illegalSequencerInstruction, s)) ∧
  (∀ (s : State) (c : Nat), (s.seq c).mode = .run ∨ (s.seq c).mode = .wait → (s.seq c).trapPends = true →
    s.fetch (.seq c) = some (.ctxfaultTake, s)) ∧
  (∀ (s : State) (k n : Nat) (w : Word) (q : List (Nat × Word)) (i : Instr), (s.core k).fifo = (n, w) :: q →
    decodeConfig w = .ok i → s.fetch (.config k) = some (i, s)) ∧
  (∀ (s : State) (k n : Nat) (w : Word) (q : List (Nat × Word)) (r : Reject), (s.core k).fifo = (n, w) :: q →
    decodeConfig w = .error r → s.fetch (.config k) = some (.reservedFrameWord, s)) ∧
  (∀ (s : State) (k e : Nat) (i : Instr), (s.elem k e).instr = some i → s.fetch (.elem k e) = some (i, s)) ∧
  (∀ (s : State) (k n : Nat) (r : Running) (i : Instr) (is : List Instr), (s.node k n).running = some r → r.cmds = i :: is →
    s.fetch (.node k n) = some (i, s)) ∧
  (∀ (s : State) (q : Nat) (i : Instr), (s.queue q).head = .running i → s.fetch (.queue q) = some (i, s)) ∧
  (∀ (s : State) (p n : Nat) (x : Packet) (xs : List (Nat × Packet)), (s.port p).arrived = (n, x) :: xs →
    s.fetch (.port p) = some (packetInstr x, s))

open Sys2Proof Machine in
/-- Every instruction that is executed has its meaning: `exec` refuses none, and it faults only where the turn names a place that the
package does not have, or an agent that does not perform the instruction. -/
def Obligations.ExecNeverRefuses : Prop :=
  ∀ (i : Instr) (s : State), (∃ t, exec i s = .next t) ∨ exec i s = .fault .noSuchResource ∨ exec i s = .fault .wrongAgent

/-! ## Elements: integer, state-register and float instructions -/

open Sys2Proof Machine Claims in
/-- R53, R161, R162, R164: the lane arithmetic of the integer instructions, each lane read by the type and the result taken modulo the lane
width, or clamped to its range; `abs` leaves the most negative lane. The instruction consumes its fired set and gives every target the
word, with the fired tag under F5 and the OR of the D bits. -/
def Sys2Proof.Claims.IntegerLaneArithmetic : Prop :=
  Gives .add true 1 IntType (fun a => perLane2 a.ty (· + ·)) ∧
  Gives .sub true 1 IntType (fun a => perLane2 a.ty (· - ·)) ∧
  Gives .addsat true 1 IntType (fun a => perLane2 a.ty fun x y => clamp a.ty (x + y)) ∧
  Gives .subsat true 1 IntType (fun a => perLane2 a.ty fun x y => clamp a.ty (x - y)) ∧
  Gives .mul true 3 IntType (fun a => perLane2 a.ty (· * ·)) ∧
  Gives .mulh true 3 IntType (fun a => perLane2 a.ty fun x y => x * y / ((2 ^ laneWidth a.ty : Nat) : Int)) ∧
  Gives .mad true 4 IntType (fun a o => packed (laneWidth a.ty) fun j =>
    laneZ a.ty (o.val 0) j * laneZ a.ty (o.val 1) j + laneZ a.ty (o.val 2) j) ∧
  Gives .min true 1 IntType (fun a => perLane2 a.ty min) ∧
  Gives .max true 1 IntType (fun a => perLane2 a.ty max) ∧
  Gives .abs true 1 SignedType (fun a o => packed (laneWidth a.ty) fun j => ((laneZ a.ty (o.val 0) j).natAbs : Int))

open Sys2Proof Machine Claims in
/-- R161, R166: the bitwise and shift instructions, lane by lane, and the comparisons of R81, whose lane is all ones where the condition
holds. The shift amount is the lane of b, read unsigned, modulo the lane width; `sra` reads its lane signed whatever the type. -/
def Sys2Proof.Claims.IntegerLaneBits : Prop :=
  Gives .and true 1 IntType (fun _ o => (BitVec.ofNat 32 (o.val 0) &&& BitVec.ofNat 32 (o.val 1)).toNat) ∧
  Gives .or true 1 IntType (fun _ o => (BitVec.ofNat 32 (o.val 0) ||| BitVec.ofNat 32 (o.val 1)).toNat) ∧
  Gives .xor true 1 IntType (fun _ o => (BitVec.ofNat 32 (o.val 0) ^^^ BitVec.ofNat 32 (o.val 1)).toNat) ∧
  Gives .andn true 1 IntType (fun _ o => (BitVec.ofNat 32 (o.val 0) &&& ~~~ BitVec.ofNat 32 (o.val 1)).toNat) ∧
  Gives .shl true 1 IntType (fun a => perLaneN a.ty fun w x n => (x : Int) * (2 ^ (n % w) : Nat)) ∧
  Gives .shr true 1 IntType (fun a => perLaneN a.ty fun w x n => (x : Int) / (2 ^ (n % w) : Nat)) ∧
  Gives .sra true 1 IntType (fun a => perLaneN a.ty fun w x n => (BitVec.ofNat w x).toInt / (2 ^ (n % w) : Nat)) ∧
  Gives .rot true 1 Int32Type (fun _ o => ((BitVec.ofNat 32 (o.val 0)).rotateLeft (o.val 1 % 32)).toNat) ∧
  Gives .cmp true 1 (fun a => IntType a ∧ a.cond.toNat ≤ 5)
    (fun a => perLane2 a.ty fun x y => if holds a.cond.toNat x y then -1 else 0) ∧
  ∀ a : ElemArgs, (Instr.rot a).wf = true → Int32Type a

open Sys2Proof Machine Claims in
/-- R161, R162, R164, R166: the lane arithmetic and the lane bit instructions. -/
def Obligations.IntegerLanes : Prop := IntegerLaneArithmetic ∧ IntegerLaneBits

open Sys2Proof Machine Claims in
/-- R164, R165, R167: counting, field, address, byte and constant instructions of 32-bit payloads. -/
def Obligations.IntegerWordInstructions : Prop :=
  Gives .const true 1 (fun _ => True) (fun a _ => immOperand a.ty a.imm.toNat a.wide) ∧
  Gives .clz true 1 Int32Type (fun _ o => ((List.range 32).filter fun j => o.val 0 / 2 ^ j == 0).length) ∧
  Gives .popc true 1 Int32Type (fun _ o => ((List.range 32).filter fun j => (o.val 0).testBit j).length) ∧
  Gives .ext true 1 (fun a => Int32Type a ∧ a.cond.toNat ≤ 1) (fun a o =>
    let n := if a.cond = 0 then 8 else 16
    if a.ty = .s32 then ((BitVec.ofNat n (o.val 0)).signExtend 32).toNat else o.val 0 % 2 ^ n) ∧
  Gives .bfx true 2 Int32Type (fun a o =>
    let pos := o.val 1 % 32
    let len := min (o.val 2 % 64) (32 - pos)
    let f := BitVec.ofNat len (o.val 0 / 2 ^ pos)
    if a.ty = .s32 then (f.signExtend 32).toNat else f.toNat) ∧
  Gives .bfi true 2 Int32Type (fun _ o =>
    let pos := o.val 2 % 32
    let len := min (o.val 3 % 64) (32 - pos)
    packed 1 fun j => if pos ≤ j ∧ j < pos + len then laneN 1 (o.val 1) (j - pos) else laneN 1 (o.val 0) j) ∧
  Gives .lea true 1 Int32Type (fun _ o => (o.val 0 + o.val 1 * 2 ^ (o.val 2 % 32)) % 2 ^ 32) ∧
  Gives .perm true 1 (fun a => a.ty = .n32) (fun _ o => packed 8 fun j =>
    let sel := laneN 4 (o.val 1) j
    if sel < 4 then laneN 8 (o.val 0) sel
    else if sel < 8 then 0
    else if sel < 12 then (if 128 ≤ laneN 8 (o.val 0) (sel - 8) then 0xFF else 0)
    else 0xFF)

open Sys2Proof Machine Claims in
/-- R163: `div` and `rem` of 32-bit payloads, rounding toward zero; a divisor of zero raises ARITH with DETAIL 0x10 in place of the result.
-/
def Obligations.Division : Prop :=
  (∀ a o, Int32Type a → o.val 0 < 2 ^ 32 → o.val 1 < 2 ^ 32 → o.val 1 ≠ 0 →
    ∃ q r : Int, laneZ a.ty (o.val 0) 0 = laneZ a.ty (o.val 1) 0 * q + r ∧
      r.natAbs < (laneZ a.ty (o.val 1) 0).natAbs ∧ (0 ≤ laneZ a.ty (o.val 0) 0 → 0 ≤ r) ∧ (laneZ a.ty (o.val 0) 0 ≤ 0 → r ≤ 0) ∧
      (∀ (s : State) (k e : Nat) (x : Fired) (rest : List Fired), Fires s k e x rest → operandsOf a true x = o → o.firstF = none →
        exec (.div a) s = .next ((s.takeShot k e rest).yield (shotAt s k e a x 4) o (value a o (packed 32 fun _ => q) o.dAll)) ∧
        exec (.rem a) s = .next ((s.takeShot k e rest).yield (shotAt s k e a x 4) o (value a o (packed 32 fun _ => r) o.dAll)))) ∧
  Yields .div true 4 (fun a o => Int32Type a ∧ o.val 1 = 0) (fun _ _ => .fault 0x10 0x10) ∧
  Yields .rem true 4 (fun a o => Int32Type a ∧ o.val 1 = 0) (fun _ _ => .fault 0x10 0x10) ∧
  ∀ a : ElemArgs, (Instr.div a).wf = true ∨ (Instr.rem a).wf = true → Int32Type a

open Sys2Proof Machine Claims in
/-- R168: `sacc`, `sswap` and `scount` read and write the element's state register S and its D bit; a fired set with an F token changes
neither. -/
def Obligations.StateRegister : Prop :=
  ∀ (a : ElemArgs) (s : State) (k e : Nat) (x : Fired) (rest : List Fired), Fires s k e x rest →
    let o := operandsOf a true x
    let el := s.elem k e
    let taken := s.takeShot k e rest
    let put (v : Word) (d : Bool) := taken.onElem k e fun el => { el with s := v, sd := d }
    let sum := if a.ty = .f32 then BitVec.ofNat 32 (fadd fp32 el.s.toNat (o.val 0)) else el.s + BitVec.ofNat 32 (o.val 0)
    (o.firstF = none →
      exec (.sacc a) s =
        .next ((put sum (el.sd || o.d 0)).yield (shotAt s k e a x 3) o (value a o sum.toNat (el.sd || o.d 0))) ∧
      exec (.sswap a) s =
        .next ((put (BitVec.ofNat 32 (o.val 0)) (o.d 0)).yield (shotAt s k e a x 1) o (value a o el.s.toNat el.sd)) ∧
      (a.imm.toNat ≤ (el.s + 1).toNat → exec (.scount a) s =
        .next ((put 0 false).yield (shotAt s k e a x 1) o (value a o (o.val 0) (el.sd || o.d 0)))) ∧
      ((el.s + 1).toNat < a.imm.toNat → exec (.scount a) s = .next (put (el.s + 1) (el.sd || o.d 0)))) ∧
    (o.firstF ≠ none → ∀ i ∈ [Instr.sacc a, .sswap a, .scount a],
      NextWith (exec i s) fun t => (t.elem k e).s = el.s ∧ (t.elem k e).sd = el.sd)

open Sys2Proof Machine Claims in
/-- R169 to R176, R227: the float instructions act on the lanes of their type, each with the function of the model's number formats that
its rule names; a NaN under `fcvt` to an integer raises ARITH with DETAIL 0x20. `smerge` gives a value, an index and a status. -/
def Obligations.FloatInstructions : Prop :=
  let lanes1 (f : FFmt → Nat → Nat) (a : ElemArgs) (o : Opnds) : Nat :=
    packed (laneWidth a.ty) fun j => f (floatLanes a.ty).1 (laneN (laneWidth a.ty) (o.val 0) j)
  let lanes2 (f : FFmt → Nat → Nat → Nat) (a : ElemArgs) (o : Opnds) : Nat :=
    packed (laneWidth a.ty) fun j => f (floatLanes a.ty).1 (laneN (laneWidth a.ty) (o.val 0) j) (laneN (laneWidth a.ty) (o.val 1) j)
  Gives .fadd true 3 FloatType (lanes2 fadd) ∧ Gives .fsub true 3 FloatType (lanes2 fsub) ∧ Gives .fmul true 3 FloatType (lanes2 fmul) ∧
  Gives .fma true 4 FloatType (fun a o => packed (laneWidth a.ty) fun j =>
    ffma (floatLanes a.ty).1 (laneN (laneWidth a.ty) (o.val 0) j) (laneN (laneWidth a.ty) (o.val 1) j) (laneN (laneWidth a.ty) (o.val 2) j)) ∧
  Gives .fmin true 1 FloatType (lanes2 fmin) ∧ Gives .fmax true 1 FloatType (lanes2 fmax) ∧
  Gives .fsgn true 1 FloatType (fun a => lanes2 (fun k => fsgn k a.cond.toNat) a) ∧
  Gives .fcmp true 1 FloatType (fun a o => packed (laneWidth a.ty) fun j =>
    if floatCond (floatLanes a.ty).1 a.cond.toNat (laneN (laneWidth a.ty) (o.val 0) j) (laneN (laneWidth a.ty) (o.val 1) j) then -1 else 0) ∧
  Gives .frcp true 4 FloatType (lanes1 frcp) ∧ Gives .frsq true 4 FloatType (lanes1 frsq) ∧
  Gives .fex2 true 4 FloatType (lanes1 fex2) ∧ Gives .flg2 true 4 FloatType (lanes1 flg2) ∧
  Gives .frnd true 2 FloatType (fun a => lanes1 (fun k => frnd k (frndMode a.cond.toNat)) a) ∧
  Gives .fclass true 1 FloatType (lanes1 fclass) ∧
  Yields .fcvt true 2 (fun a o => convert a.ty a.cond.toNat a.imm.toNat (o.val 0) = none) (fun _ _ => .fault 0x10 0x20) ∧
  (∀ v, Yields .fcvt true 2 (fun a o => convert a.ty a.cond.toNat a.imm.toNat (o.val 0) = some v) (fun a o => value a o v o.dAll)) ∧
  Yields .smerge true 1 (fun _ _ => True) (fun a o =>
    let r := mergeCandidates (o.val 0) (o.val 1) (o.val 2) (o.val 3)
    .emit [some (BitVec.ofNat 32 r.1), some (BitVec.ofNat 32 r.2.1), some (BitVec.ofNat 32 r.2.2)] (tagApply a.tagOp o.tag) o.dAll false true)

open Sys2Proof Machine Claims in
/-- R143, R151: rounding by RNE to FP32, FP16 or BF16 gives the finite value of the format nearest to the exact one, the even pattern of two
that are equally near, and an infinity from half a step above the largest finite value on. -/
def Obligations.RoundToNearestEven : Prop :=
  ∀ k ∈ [fp32, fp16, bf16], ∀ (s : Bool) (m : Nat) (e : Int), 0 < m →
    let v : ℚ := signed s m e
    let r := fround k .rne s m e false
    (fdecode k r = .inf s ↔ signed false (2 ^ (k.fb + 2) - 1) ((k.bias : Int) - k.fb - 1) ≤ |v|) ∧
    (∀ s' m' e', fdecode k r = .fin s' m' e' →
      ∀ p < 2 ^ (1 + k.eb + k.fb), ∀ sp mp ep, fdecode k p = .fin sp mp ep →
        |signed s' m' e' - v| ≤ |signed sp mp ep - v| ∧
        (|signed s' m' e' - v| = |signed sp mp ep - v| → signed s' m' e' ≠ signed sp mp ep → r % 2 = 0)) ∧
    (∀ sn f, fdecode k r ≠ .nan sn f)

/-! ## Elements: dataflow control and tags -/

open Sys2Proof Machine Claims in
/-- R177 to R182, R330: the dataflow instructions on fired sets, with the F-token rules of R177 where they differ from R54. That `steer` and
`gate` forward the F token of slot 0 where both slots hold one, and that `select` gives the D bits of all three operands where its predicate
is an F token, are the model's readings (assumption log 113). -/
def Obligations.DataflowInstructions : Prop :=
  ∀ (a : ElemArgs) (s : State) (k e : Nat) (x : Fired) (rest : List Fired), Fires s k e x rest →
    let o := operandsOf a false x
    let taken := s.takeShot k e rest
    let sh := shotAt s k e a x 1
    let give (i : Nat) (d : Bool) := taken.yield sh o (value a o (o.val i) d)
    let p := predicate a o
    exec (.sink a) s = .next taken ∧
    (o.f 1 = true → exec (.steer a) s = .next (taken.forwardSlot sh o (if o.f 0 then 0 else 1) o.dAll false)) ∧
    (o.f 1 = false → o.f 0 = true → exec (.steer a) s = .next (taken.forwardSlot sh o 0 o.dAll true)) ∧
    (o.f 1 = false → o.f 0 = false → exec (.steer a) s = .next (give 0 o.dAll)) ∧
    (o.f 0 = true → exec (.select a) s = .next (taken.forwardSlot sh o 0 o.dAll false)) ∧
    (o.f 0 = false → o.f (if p then 1 else 2) = true →
      exec (.select a) s = .next (taken.forwardSlot sh o (if p then 1 else 2) (o.d 0 || o.d (if p then 1 else 2)) false)) ∧
    (o.f 0 = false → o.f (if p then 1 else 2) = false →
      exec (.select a) s = .next (give (if p then 1 else 2) (o.d 0 || o.d (if p then 1 else 2)))) ∧
    (o.f 1 = true → exec (.gate a) s = .next (taken.forwardSlot sh o (if o.f 0 then 0 else 1) o.dAll false)) ∧
    (o.f 1 = false → p = false → exec (.gate a) s = .next taken) ∧
    (o.f 1 = false → p = true → o.f 0 = true → exec (.gate a) s = .next (taken.forwardSlot sh o 0 o.dAll false)) ∧
    (o.f 1 = false → p = true → o.f 0 = false → exec (.gate a) s = .next (give 0 o.dAll)) ∧
    (∀ (i : Nat) (t : Token), i < 4 → x.toks.getD i none = some t → t.origin = none → (∀ j < 4, j ≠ i → x.toks.getD j none = none) →
      exec (.merge a) s = .next (give i t.d)) ∧
    (o.firstF = none → ∀ i ∈ [Instr.copy a, .purge a, .enter a, .next a, .leave a], exec i s = .next (give 0 o.dAll)) ∧
    (o.firstF = none → (s.core k).windowHeld e x.tag = false → exec (.window a) s = .next (give 0 o.dAll)) ∧
    ((s.core k).windowHeld e x.tag = true → exec (.window a) s = .next s)

open Sys2Proof Machine Claims in
/-- R41: the tag operations of F5. `enter` raises ARITH 0x01 at depth 12, `next` and `leave` ARITH 0x02 at depth 0; otherwise the level's
field is cleared or counted modulo its width, the depth rises, stays or falls, and every other bit of the tag stays. -/
def Sys2Proof.Claims.TagOperations : Prop :=
  ∀ (t : Tag) (ofs : BitVec 4) (wid : BitVec 2), 4 * ofs.toNat + 4 * (wid.toNat + 1) ≤ 48 →
    let w := 4 * (wid.toNat + 1)
    let lo := 4 * ofs.toNat
    let level (u : Tag) : Nat := u.toNat / 2 ^ lo % 2 ^ w
    let depth (u : Tag) : Nat := u.toNat / 2 ^ 48 % 16
    let elsewhere (u : Tag) : Prop := ∀ j < 64, ¬ (lo ≤ j ∧ j < lo + w) → ¬ (48 ≤ j ∧ j < 52) → u.getLsbD j = t.getLsbD j
    tagApply .keep t = .ok t ∧
    (depth t = 12 → tagApply (.enter ofs wid) t = .error 0x01) ∧
    (depth t < 12 → ∃ u, tagApply (.enter ofs wid) t = .ok u ∧ level u = 0 ∧ depth u = depth t + 1 ∧ elsewhere u) ∧
    (depth t = 0 → tagApply (.next ofs wid) t = .error 0x02 ∧ tagApply (.leave ofs wid) t = .error 0x02) ∧
    (0 < depth t → ∃ u, tagApply (.next ofs wid) t = .ok u ∧ level u = (level t + 1) % 2 ^ w ∧ depth u = depth t ∧ elsewhere u) ∧
    (0 < depth t → ∃ u, tagApply (.leave ofs wid) t = .ok u ∧ level u = 0 ∧ depth u = depth t - 1 ∧ elsewhere u)

open Sys2Proof Machine Claims in
/-- R185 to R188: `tagget`, `tagset`, `call` and `ret`: the field that is read, the level that is replaced or entered, the targets that
receive, and the ARITH faults 0x02, 0x03 and 0x05. -/
def Sys2Proof.Claims.TagInstructions : Prop :=
  (∀ n : Nat, n < 12 → ∀ w : Nat, w < 4 → 4 * n + 4 * (w + 1) ≤ 48 →
    Yields .tagget false 1 (fun a _ => a.imm.toNat = 16 * n + w) fun a o => value a o (o.tag.toNat / 2 ^ (4 * n) % 2 ^ (4 * (w + 1))) (o.d 0)) ∧
  Yields .tagget false 1 (fun a _ => a.imm = 0xC0) (fun a o => value a o (o.tag.toNat / 2 ^ 52) (o.d 0)) ∧
  Yields .tagget false 1 (fun a _ => a.imm = 0xD0) (fun a o => value a o (o.tag.toNat / 2 ^ 48 % 16) (o.d 0)) ∧
  (∀ n : Nat, n < 12 → ∀ w : Nat, w < 4 → 4 * n + 4 * (w + 1) ≤ 48 →
    Yields .tagset false 1 (fun a _ => a.imm.toNat = 16 * n + w) fun a o =>
      let v := some (BitVec.ofNat 32 (o.val 0))
      .emit [v, v, v]
        (if depthOf o.tag = 0 then .error 0x02
         else if 2 ^ (4 * (w + 1)) ≤ o.val 1 then .error 0x03
         else tagApply a.tagOp (tagSetLevel o.tag n w (o.val 1)))
        o.dAll true true) ∧
  (∀ (f : BitVec 4) (w : BitVec 2), Yields .call false 1 (fun a _ => a.tagOp = .enter f w) fun a o =>
    let n := a.arity.toNat + 1
    let site := o.val (n - 1)
    let v (i : Nat) : Word := BitVec.ofNat 32 (o.val i)
    let vals := if n = 1 then [some (v 0), some (v 0), some (v 0)]
      else if n = 2 then [some (v 0), none, none] else if n = 3 then [some (v 0), some (v 1), none] else [some (v 0), some (v 1), some (v 2)]
    .emit vals
      ((tagApply a.tagOp o.tag).bind fun t =>
        if 2 ^ (4 * (w.toNat + 1)) ≤ site then .error 0x03 else .ok (tagSetLevel t f.toNat w.toNat site))
      o.dAll false true) ∧
  Yields .ret false 1 (fun _ o => depthOf o.tag = 0) (fun _ _ => .fault 0x10 0x02) ∧
  (∀ (f : BitVec 4) (w : BitVec 2) (site : Nat), site < 3 →
    Yields .ret false 1 (fun a o => a.tagOp = .leave f w ∧ depthOf o.tag ≠ 0 ∧ tagLevel o.tag f.toNat w.toNat = site ∧
        Target.isNil ([a.t1, a.t2, a.t3].getD site Target.nil) = false) fun a o =>
      .emit ((List.range 3).map fun j => if j = site then some (BitVec.ofNat 32 (o.val 0)) else none) (tagApply a.tagOp o.tag) o.dAll false false) ∧
  (∀ (f : BitVec 4) (w : BitVec 2),
    Yields .ret false 1 (fun a o => a.tagOp = .leave f w ∧ depthOf o.tag ≠ 0 ∧
        (2 < tagLevel o.tag f.toNat w.toNat ∨
          Target.isNil ([a.t1, a.t2, a.t3].getD (tagLevel o.tag f.toNat w.toNat) Target.nil) = true)) fun _ _ => .fault 0x10 0x05)

open Sys2Proof Machine Claims in
/-- R41, R185 to R188: the tag operations of F5, and the instructions that read, set, call and return by tags, with their ARITH faults. -/
def Obligations.Tags : Prop := TagOperations ∧ TagInstructions

/-! ## What an element emits -/

open Sys2Proof Machine Claims in
/-- R53, R54, R82, R159, R160: a value goes to every target whose WHEN the predicate meets, with the payload, the tag, the D bit and the
element's matching action; a failed tag operation and a raised fault give an F token in the fired tag to every target, whatever its WHEN,
whose fault word names the element and whose origin is the fired tag. Targets of kind "none" take nothing. -/
def Sys2Proof.Claims.SlotTargets : Prop :=
  ∀ (s : State) (sh : Shot) (o : Opnds), (∀ t ∈ [sh.args.t1, sh.args.t2, sh.args.t3], slotsOrNone t) →
    (∀ (v1 v2 v3 : Option Word) (tag : Tag) (d fab useWhen : Bool),
      Sends s (s.yield sh o (.emit [v1, v2, v3] (.ok tag) d fab useWhen)) sh.k
        (sentTo (s.core sh.k) sh 1 sh.args.t1 v1 (!useWhen || whenMet sh.args o sh.args.t1) tag d none fab ++
         sentTo (s.core sh.k) sh 2 sh.args.t2 v2 (!useWhen || whenMet sh.args o sh.args.t2) tag d none fab ++
         sentTo (s.core sh.k) sh 3 sh.args.t3 v3 (!useWhen || whenMet sh.args o sh.args.t3) tag d none fab)) ∧
    (∀ (code detail : Nat), Sends s (s.yield sh o (.fault code detail)) sh.k
      (faultTo (s.core sh.k) sh o (faultWord code sh.k (sh.e % 32) (sh.e / 32) detail) o.tag o.dAll (fun _ => true))) ∧
    (∀ (vals : List (Option Word)) (detail : Nat) (d fab useWhen : Bool),
      Sends s (s.yield sh o (.emit vals (.error detail) d fab useWhen)) sh.k
        (faultTo (s.core sh.k) sh o (faultWord 0x10 sh.k (sh.e % 32) (sh.e / 32) detail) o.tag d (fun _ => true))) ∧
    (∀ (i : Nat) (t : Token) (origin : Tag) (d useWhen : Bool), o.toks.getD i none = some t → t.origin = some origin →
      Sends s (s.forwardSlot sh o i d useWhen) sh.k
        (faultTo (s.core sh.k) sh o t.val origin d (fun x => !useWhen || whenMet sh.args o x)))

open Sys2Proof Machine Claims in
/-- R53, R56, R60, R62, R75, R82: a result for a node port goes to that port, and an F token there keeps its instance from completing; a
value for a block output goes to what BOUT binds the output to (a block input or a node port), or nowhere, and counts as emitted for the
commit set; an F token for a block output becomes precise at the element. A result goes to its targets F1 to F3 in this order. -/
def Sys2Proof.Claims.OutputAndNodeTargets : Prop :=
  ∀ (s : State) (sh : Shot),
    let c := s.core sh.k
    let put (i : Nat) (t : Target) (r : Res) (s : State) : State := s.toTarget sh i t r
    (∀ (i : Nat) (t : Target) (r : Res),
      let u := put i t r s
      let c' := u.core sh.k
      let token (e p : Nat) (inst : Option Tag) : Token :=
        { elem := e, slot := p, ma := sh.args.ma, slv := if sh.args.ma = .sticky ∨ sh.args.ma = .purge then t.slv.toNat else 0,
          tag := r.tag, val := r.val, d := r.d, origin := r.origin, fab := r.fab, inst := inst }
      let sent (d : Dest) (tok : Token) : Transit :=
        { chan := [0, sh.e, i], dest := d, ready := sh.ready, src := some sh.frame, msg := .narrow tok sh.args.task.toNat }
      let atPort (n p : Nat) : Transit := sent (.node n p) (token sh.e p (some sh.inst))
      (t.dest = .none → u = s) ∧
      (∀ n p, t.dest = .node n p → r.origin = none → Sends s u sh.k [atPort n.toNat p.toNat]) ∧
      (∀ n p g, t.dest = .node n p → r.origin = some g →
        OnlyCore s u sh.k ∧ c' = { c with transit := c.transit ++ [atPort n.toNat p.toNat], insts := c'.insts } ∧
        (c'.inst? sh.frame sh.inst).map (·.faulted) = some true) ∧
      (∀ n, t.dest = .out n → r.origin = none →
        OnlyCore s u sh.k ∧ c' = { c with transit := c'.transit, insts := c'.insts } ∧
        (∃ x, c'.inst? sh.frame sh.inst = some x ∧ n.toNat ∈ x.outs) ∧
        c'.transit = c.transit ++ match Tab.find? (c.frame sh.frame).bouts n.toNat with
          | none => []
          | some (.frame f inp) => [sent (.input f inp) (token 0 0 none)]
          | some (.here inp) => [sent (.input sh.frame inp) (token 0 0 none)]
          | some (.node nd p) => [atPort nd p]) ∧
      (∀ n g, t.dest = .out n → r.origin = some g →
        OnlyCore s u sh.k ∧ c' = { c with precise := c'.precise, insts := c'.insts } ∧
        (c'.inst? sh.frame sh.inst).map (·.faulted) = some true ∧
        c'.precise = c.precise ++ [{ word := r.val, otag := g, itag := sh.inst, d := r.d, ctx := ctxOf sh.inst, inst := some (sh.frame, sh.inst),
                                     place := { node := 63, x := sh.e % 32, y := sh.e / 32, frame := sh.frame, slot := sh.slot } }])) ∧
    (∀ (o : Opnds) (v1 v2 v3 : Option Word) (tag : Tag) (d fab useWhen : Bool),
      let give (i : Nat) (t : Target) (v : Option Word) (s : State) : State :=
        match v with
        | some v => if !useWhen || whenMet sh.args o t then put i t { val := v, tag := tag, d := d, fab := fab } s else s
        | none => s
      s.yield sh o (.emit [v1, v2, v3] (.ok tag) d fab useWhen) =
        give 3 sh.args.t3 v3 (give 2 sh.args.t2 v2 (give 1 sh.args.t1 v1 s))) ∧
    (∀ (o : Opnds) (code detail : Nat),
      let r : Res :=
        { val := faultWord code sh.k (sh.e % 32) (sh.e / 32) detail, d := o.dAll, origin := some o.tag,
          tag := match tagApply sh.args.tagOp o.tag with | .ok t => t | .error _ => o.tag }
      s.yield sh o (.fault code detail) = put 3 sh.args.t3 r (put 2 sh.args.t2 r (put 1 sh.args.t1 r s)))

open Sys2Proof Machine Claims in
/-- R53, R54, R56, R60, R62, R75, R82, R159, R160: where a result goes, at targets of every kind. -/
def Obligations.EmissionRules : Prop := SlotTargets ∧ OutputAndNodeTargets

open Sys2Proof Machine Claims in
/-- R54, R62, R318: an F token in any operand is forwarded by every instruction that follows R54, in every family: the token of the lowest
slot, with its fault word and its origin tag, to every target. Nothing else is done, but that at a store of any kind the fault becomes
precise, that a remote access of a release set counts as fired for it, and that `window` forwards nothing while tier 3 holds an earlier
holder of its tag (R330). -/
def Obligations.FaultTokenForwarded : Prop :=
  ∀ (a : ElemArgs) (s : State) (k e : Nat) (x : Fired) (rest : List Fired) (slot : Nat), Fires s k e x rest →
    let taken := s.takeShot k e rest
    let sh := shotAt s k e a x 1
    let noted := taken.onCore k (·.onInst sh.frame sh.inst fun n => { n with rels := insertSorted sh.slot n.rels })
    let forward (s : State) (o : Opnds) : State := s.forwardSlot sh o slot o.dAll false
    (∀ f ∈ accessInstrs a, (operandsOf a f.1 x).firstF = some slot → exec f.2 s = .next (forward taken (operandsOf a f.1 x))) ∧
    (∀ f ∈ storePoints a, ∀ t g, (operandsOf a f.1 x).firstF = some slot → x.toks.getD slot none = some t → t.origin = some g →
      exec f.2 s = .next (forward (taken.preciseAt sh t.val g t.d) (operandsOf a f.1 x))) ∧
    (∀ f ∈ remoteInstrs a, f.2 ≠ .rst a → (operandsOf a f.1 x).firstF = some slot →
      exec f.2 s = .next (forward noted (operandsOf a f.1 x))) ∧
    (∀ t g, (operandsOf a true x).firstF = some slot → x.toks.getD slot none = some t → t.origin = some g →
      exec (.rst a) s = .next (forward (noted.preciseAt sh t.val g t.d) (operandsOf a true x))) ∧
    ((operandsOf a false x).firstF = some slot → (s.core k).windowHeld e x.tag = false →
      exec (.window a) s = .next (forward taken (operandsOf a false x))) ∧
    ((operandsOf a true x).firstF = some slot → ∀ i ∈ typedInstrs a, ∃ lat,
      exec i s = .next ((s.takeShot k e rest).forwardSlot (shotAt s k e a x lat) (operandsOf a true x) slot (operandsOf a true x).dAll false)) ∧
    ((operandsOf a false x).firstF = some slot → ∀ i ∈ flowInstrs a,
      exec i s = .next ((s.takeShot k e rest).forwardSlot (shotAt s k e a x 1) (operandsOf a false x) slot (operandsOf a false x).dAll false))

open Sys2Proof Machine Claims in
/-- The frame of the integer, float, dataflow and tag instructions (R53, R55, R62): whatever the operands, only the performing core
changes, and in it only the messages in transit, the performing element's fired sets, the cycle from which it may issue again and its
state register, and, where a result leaves the block or is a fault, its instance and the faults that have become precise. -/
def Obligations.ElementFrame : Prop :=
  ∀ (a : ElemArgs) (s t : State) (k e : Nat) (i : Instr),
    i ∈ typedInstrs a ++ flowInstrs a ++ [.steer a, .select a, .gate a, .sink a, .window a, .sacc a, .sswap a, .scount a, .smerge a] →
    s.agent = .elem k e → exec i s = .next t →
    OnlyCore s t k ∧
    (let c := s.core k
     let c' := t.core k
     c' = { c with transit := c'.transit, insts := c'.insts, precise := c'.precise, elems := c'.elems }) ∧
    (∀ e', e' ≠ e → t.elem k e' = s.elem k e') ∧
    t.elem k e = { s.elem k e with fired := (t.elem k e).fired, issueFrom := (t.elem k e).issueFrom, s := (t.elem k e).s,
                                   sd := (t.elem k e).sd } ∧
    (i ∉ [.sacc a, .sswap a, .scount a] → (t.elem k e).s = (s.elem k e).s ∧ (t.elem k e).sd = (s.elem k e).sd)

/-! ## Elements: memory, synchronisation, units and system -/

open Sys2Proof Machine Claims in
/-- R257, R260 to R268, R160: the memory instructions at firing. Where the address is aligned, the checks pass and an ordered access
finds its place in its wave, the access joins its core: at once ready, or held to commit. A check that fails gives an F token; that an
ordered access whose check fails takes its place in the wave all the same (`standIn`) is the model's choice (assumption log 15). -/
def Obligations.MemoryInstructionsFire : Prop :=
  ∀ (a : ElemArgs) (s : State) (k e : Nat) (x : Fired) (rest : List Fired), Fires s k e x rest →
    let o := operandsOf a true x
    o.firstF = none → ∀ f ∈ memForms a,
    let s1 := (s.takeShot k e rest).newId.2
    let id := s.nextId
    let sh := shotAt s k e a x 1
    (o.val 0 % f.align = 0 → ∀ p s2, s1.checkSpot k (o.val 0) f.bytes f.rd f.wr o.dAll = (.ok p, s2) → f.needs p = true →
      let y := { firedAccess s k e f.instr x id with region := p.region, va := p.va, width := f.bytes }
      (f.ordered = false → NextWith (exec f.instr s) fun t => Joins s2 t k y f.hold) ∧
      (∀ pr ow su, f.ordered = true → a.f6 = .wave pr ow su →
        let link := (s2.core k).acceptLink sh.frame sh.inst { pred := pr.toNat, own := ow.toNat, succ := su.toNat, access := id }
        link.1 = true → NextWith (exec f.instr s) fun t => Joins (s2.setCore k link.2) t k y f.hold)) ∧
    (f.ordered = false → o.val 0 % f.align ≠ 0 → exec f.instr s = .next (s1.raise sh 0x01 0 x.tag o.dAll)) ∧
    (f.ordered = false → o.val 0 % f.align = 0 → ∀ b s2, s1.checkSpot k (o.val 0) f.bytes f.rd f.wr o.dAll = (.error b, s2) →
      exec f.instr s = .next ((s2.noteBad k x.tag b).raise sh b.code b.detail x.tag o.dAll)) ∧
    (f.ordered = true → o.val 0 % f.align ≠ 0 → exec f.instr s = .next (s1.standIn sh o id { code := 0x01, detail := 0 })) ∧
    (f.ordered = true → o.val 0 % f.align = 0 → ∀ b s2, s1.checkSpot k (o.val 0) f.bytes f.rd f.wr o.dAll = (.error b, s2) →
      exec f.instr s = .next (s2.standIn sh o id b))

open Sys2Proof Machine Claims in
/-- R270, R272 to R274, R282, R284, R332, R347: the fences, the tile and ring instructions, the instructions of the synchronisation port and
those of the sequence and Serpent units at firing: the access joins its core, ready or held to commit, after the checks of its control
word; `wait.t` gives its value with status 0 where its value came in time (R341). -/
def Obligations.ControlInstructionsFire : Prop :=
  Yields .waitT false 1 (fun _ _ => True)
    (fun a o => .emit [some (BitVec.ofNat 32 (o.val 0)), some 0, some 0] (tagApply a.tagOp o.tag) o.dAll false true) ∧
  ∀ (a : ElemArgs) (s : State) (k e : Nat) (x : Fired) (rest : List Fired), Fires s k e x rest →
    let o := operandsOf a false x
    o.firstF = none →
    let taken := s.takeShot k e rest
    let s1 := taken.newId.2
    let id := s.nextId
    let sh := shotAt s k e a x 1
    (∀ i ∈ Instr.talloc a :: syncInstrs a, NextWith (exec i s) fun t => Joins s1 t k (firedAccess s k e i x id) false) ∧
    (∀ i ∈ Instr.relslot a :: unitInstrs a, NextWith (exec i s) fun t => Joins s1 t k (firedAccess s k e i x id) true) ∧
    (o.val 0 < 256 → NextWith (exec (.tfree a) s) fun t => Joins s1 t k (firedAccess s k e (.tfree a) x id) false) ∧
    (o.val 0 < 256 → (a.arity.toNat = 1 → o.val 1 < 4) →
      NextWith (exec (.tstate a) s) fun t => Joins s1 t k (firedAccess s k e (.tstate a) x id) false) ∧
    (256 ≤ o.val 0 → ∀ i ∈ [Instr.tfree a, .tstate a], exec i s = .next (taken.raise sh 0x04 0x6F x.tag o.dAll)) ∧
    (∀ pr ow su, a.f6 = .wave pr ow su →
      let link := (s1.core k).acceptLink sh.frame sh.inst { pred := pr.toNat, own := ow.toNat, succ := su.toNat, access := id }
      link.1 = true → NextWith (exec (.fence a) s) fun t => Joins (s1.setCore k link.2) t k (firedAccess s k e (.fence a) x id) false) ∧
    (∀ va n s2, taken.checkRing k (o.val 0) (o.val 1) o.dAll = (.ok (va, n), s2) →
      NextWith (exec (.ringInit a) s) fun t =>
        Joins s2.newId.2 t k { firedAccess s k e (.ringInit a) x s2.nextId with
          region := if inWindow va then .localWin else .device, va := va, width := n } true) ∧
    (∀ r s2, taken.ringView k (bits (o.val 0) 31 28) = (.ok r, s2) →
      NextWith (exec (.awaitf a) s) fun t =>
        let c := s2.newId.2.slotCount (o.val 0) r.rptr
        Joins c.2 t k { firedAccess s k e (.awaitf a) x s2.nextId with slotNo := c.1 } false) ∧
    (sendOk (o.val 0) (o.val 1) = true → bits (o.val 0) 23 22 ≠ 2 →
      NextWith (exec (.send a) s) fun t => Joins s1 t k (firedAccess s k e (.send a) x id) true) ∧
    (∀ p s2, sendOk (o.val 0) (o.val 1) = true → bits (o.val 0) 23 22 = 2 → o.val 1 % 256 = 0 →
      taken.checkSpot k (o.val 1) ((o.val 0 % 256 + 1) * 256) false true
        (o.dAll || ((taken.core k).tile (bits (o.val 0) 31 24)).dmark) = (.ok p, s2) →
      NextWith (exec (.send a) s) fun t => Joins s2.newId.2 t k { firedAccess s k e (.send a) x s2.nextId with va := p.va } true) ∧
    (sendOk (o.val 0) (o.val 1) = false → exec (.send a) s = .next (taken.raise sh 0x04 0x6F x.tag o.dAll))

open Sys2Proof Machine Claims in
/-- R290, R292, R296, R301, R318: the remote instructions at firing. The element counts as fired for its release set; after the checks of
R292 the access joins its core, `rld` ready and the others held to commit; a failed check gives its F token. The row form of `rst` checks
its tile between its form and the window conditions, and waits while the tile is being filled or copied. -/
def Obligations.RemoteInstructionsFire : Prop :=
  ∀ (a : ElemArgs) (s : State) (k e : Nat) (x : Fired) (rest : List Fired), Fires s k e x rest →
    let sh := shotAt s k e a x 1
    let noted := (s.takeShot k e rest).onCore k (·.onInst sh.frame sh.inst fun n => { n with rels := insertSorted sh.slot n.rels })
    (∀ f ∈ [(0x180, true, true, Instr.rst a), (0x182, true, true, .rat a), (0x183, true, true, .rred a), (0x184, true, false, .rcopen a),
            (0x185, true, false, .rrel a)],
      let o := operandsOf a f.2.2.1 x
      o.firstF = none →
      (f.1 = 0x180 → a.cond.toNat < 4 ∨
        (noted.newId.2.core k).tileGate (firedAccess s k e f.2.2.2 x s.nextId)
          { loc := true, va := windowBase + o.val 1 % 2 ^ 28, off := o.val 1 % 2 ^ 28 } 256 false = .go) →
      noted.remoteBad k f.1 a o = none →
      NextWith (exec f.2.2.2 s) fun t => Joins noted.newId.2 t k (firedAccess s k e f.2.2.2 x s.nextId) true) ∧
    (∀ f ∈ [(0x180, true, Instr.rst a), (0x182, true, .rat a), (0x183, true, .rred a), (0x184, false, .rcopen a), (0x185, false, .rrel a)],
      let o := operandsOf a f.2.1 x
      o.firstF = none → (f.1 = 0x180 → a.cond.toNat < 4) → ∀ b, noted.remoteBad k f.1 a o = some b →
        exec f.2.2 s = .next ((noted.noteBad k x.tag b).raise sh b.code b.detail x.tag o.dAll)) ∧
    (let o := operandsOf a true x
     let y := firedAccess s k e (.rst a) x s.nextId
     let gate := (noted.newId.2.core k).tileGate y { loc := true, va := windowBase + o.val 1 % 2 ^ 28, off := o.val 1 % 2 ^ 28 } 256 false
     o.firstF = none → 4 ≤ a.cond.toNat →
      (∀ b, noted.remoteForm k 0x180 a o = some b →
        exec (.rst a) s = .next ((noted.noteBad k x.tag b).raise sh b.code b.detail x.tag o.dAll)) ∧
      (∀ n, noted.remoteForm k 0x180 a o = none → gate = .wait n → NextWith (exec (.rst a) s) fun t =>
        (t.core k).access? s.nextId = some { y with stage := .firing, tileAt := .tile n } ∧ SameMemory s t) ∧
      (∀ b, noted.remoteForm k 0x180 a o = none → gate = .go → noted.remoteRest k 0x180 o = some b →
        exec (.rst a) s = .next ((noted.newId.2.noteBad k x.tag b).raise sh b.code b.detail x.tag o.dAll))) ∧
    ((operandsOf a true x).firstF = none → (s.takeShot k e rest).remoteBad k 0x181 a (operandsOf a true x) = none →
      NextWith (exec (.rld a) s) fun t => Joins (s.takeShot k e rest).newId.2 t k (firedAccess s k e (.rld a) x s.nextId) false) ∧
    ((operandsOf a true x).firstF = none → ∀ b, (s.takeShot k e rest).remoteBad k 0x181 a (operandsOf a true x) = some b →
      exec (.rld a) s = .next (((s.takeShot k e rest).noteBad k x.tag b).raise sh b.code b.detail x.tag (operandsOf a true x).dAll))

open Sys2Proof Machine Claims in
/-- R410, R437, R438: `sdec` and `senc` join the session engine's accesses after their checks; `trap` posts its record and emits a, `fault`
gives the F token that a names, both for software codes 0x80 to 0xFF alone; `sreg.rd` reads every special register, and `sreg.wr` is
held to commit for a register that may be written. That `sreg.wr` is checked as it fires, in the order 0xC1, 0xC2, DMARK, is the model's
choice (assumption log 74). -/
def Sys2Proof.Claims.SystemInstructionsIssue : Prop :=
  ∀ (a : ElemArgs) (s : State) (k e : Nat) (x : Fired) (rest : List Fired) (l : Nat) (L : Launch), Fires s k e x rest →
    s.coreLaunch k = some (l, L) →
    let o := operandsOf a false x
    o.firstF = none →
    let taken := s.takeShot k e rest
    let sh := shotAt s k e a x 1
    let v := o.val 0
    let cycles := s.now - (s.seq (k / 4)).start
    (∀ va n s2, L.cmd.sdv = true → taken.checkSdec k v (o.val 1) = (.ok (va, n), s2) →
      NextWith (exec (.sdec a) s) fun t => Joins s2.newId.2 t k { firedAccess s k e (.sdec a) x s2.nextId with va := va, width := n } true) ∧
    (∀ va n s2, L.cmd.sdv = true → taken.checkSenc k v (o.val 1) = (.ok (va, n), s2) →
      NextWith (exec (.senc a) s) fun t => Joins s2.newId.2 t k { firedAccess s k e (.senc a) x s2.nextId with va := va, width := n } true) ∧
    (L.cmd.sdv = false → ∀ i ∈ [Instr.sdec a, .senc a], exec i s = .next (taken.raise sh 0x04 0xB0 x.tag o.dAll)) ∧
    (∀ p, L.part = some p → v < 2 ^ 16 → 0x80 ≤ v % 256 →
      exec (.trap a) s = .next ((taken.postCore k p
          { kind := 1, queue := L.q, word := faultWord (v % 256) k (e % 32) (e / 32) (v / 256), otag := x.tag, itag := x.tag, score := k,
            x := e % 32, y := e / 32, node := 63, frame := sh.frame, slot := sh.slot, cid := L.cid, ctx := ctxOf x.inst, d := o.d 0 }).yield
        sh o (value a o v (o.d 0)))) ∧
    (v < 2 ^ 16 → 0x80 ≤ v % 256 → exec (.fault a) s = .next (taken.raise sh (v % 256) (v / 256) x.tag o.dAll)) ∧
    ((2 ^ 16 ≤ v ∨ v % 256 < 0x80) → ∀ i ∈ [Instr.trap a, .fault a], exec i s = .next (taken.raise sh 0x10 0xC0 x.tag o.dAll)) ∧
    (∀ r ∈ [(0x000, k), (0x001, e), (0x002, cycles % 2 ^ 32), (0x003, cycles / 2 ^ 32), (0x004, (s.core k).partw), (0x005, L.cid),
            (0x006, if L.cmd.sdv then 2 ^ 31 + L.cmd.sdom.toNat else 0)] ++
          (List.range 16).map (fun j => (0x010 + j, (Tab.get 0 (s.core k).user j).toNat)) ++
          (List.range 10).map (fun j => (0x100 + j, (Tab.get 0 (s.core k).counters j).toNat)) ++
          (List.range 10).map (fun j =>
            (0x180 + j, match L.part with | some p => (Tab.get 0 (s.part p).counters j).toNat | none => 0)),
      v = r.1 → exec (.sregRd a) s = .next (taken.yield sh o (value a o r.2 (o.d 0)))) ∧
    (v ∉ (List.range 7) ++ (List.range 16).map (0x010 + ·) ++ (List.range 10).map (0x100 + ·) ++ (List.range 10).map (0x180 + ·) →
      ∀ i ∈ [Instr.sregRd a, .sregWr a], exec i s = .next (taken.raise sh 0x04 0xC1 x.tag o.dAll)) ∧
    (v ∈ (List.range 16).map (0x010 + ·) ++ (List.range 10).map (0x100 + ·) → o.dAll = false →
      NextWith (exec (.sregWr a) s) fun t => Joins taken.newId.2 t k (firedAccess s k e (.sregWr a) x s.nextId) true) ∧
    (v ∈ (List.range 7) ++ (List.range 10).map (0x180 + ·) → exec (.sregWr a) s = .next (taken.raise sh 0x04 0xC2 x.tag o.dAll)) ∧
    (v ∈ (List.range 16).map (0x010 + ·) ++ (List.range 10).map (0x100 + ·) → o.dAll = true →
      exec (.sregWr a) s = .next (taken.raise sh 0x06 0 x.tag o.dAll))

open Sys2Proof Machine Claims in
/-- R393, R408 to R411: `sdec` and `senc` at the session engine. `sdec` faults PROT 0xB2 on a malformed header, 0xB1 where its session is not
open in the launch's domain, 0xB3 on a sequence number that is not newer and 0xB4 where the tag fails; otherwise it writes the plaintext with
D = 1 and counts. `senc` faults PROT 0xB5 without a binding of the launch's domain, 0xB6 where the buffer has no room and 0xB1 without its
session; otherwise the record stands in the buffer, with word 0 written last and the whole of it seen by the host (R236), and WOFF and RPSEQ
advance. -/
def Sys2Proof.Claims.SessionEngine : Prop :=
  ∀ (s : State) (k : Nat) (x : Access), Performs s k x → ∀ a,
    let v := x.opnds.val 0
    let b := x.opnds.val 1
    (x.instr = .sdec a → ∀ p s1 hb s2, s.checkRequest k v 64 = (.ok p, s1) → s1.readSpot k p 64 = (.ok hb, s2) →
      let w (i : Nat) : Nat := (((wordsOfBytes hb).getD i 0)).toNat
      let len := w 1
      let seq := w 2 + 2 ^ 32 * w 3
      let formOk := 1 ≤ len ∧ len ≤ 65536 ∧ ∀ i, 8 ≤ i → i < 16 → w i = 0
      hb.length = 64 →
      (¬ formOk → exec .memAccessComplete s = .next (failed s2 k x 0x04 0xB2)) ∧
      (formOk → s2.ownSession k (BitVec.ofNat 32 (w 0)) = none → exec .memAccessComplete s = .next (failed s2 k x 0x04 0xB1)) ∧
      (∀ se, formOk → s2.ownSession k (BitVec.ofNat 32 (w 0)) = some se →
        (seq ≤ se.rqseq.toNat → exec .memAccessComplete s = .next (failed s2 k x 0x04 0xB3)) ∧
        (∀ src s3 dst s4 data s5, se.rqseq.toNat < seq → s2.checkRequest k (v + 64) len = (.ok src, s3) →
          s3.checkSpot k b (4 * ((len + 3) / 4)) false true true = (.ok dst, s4) → s4.readSpot k src len = (.ok data, s5) →
          let plain := Crypto.gcmDecrypt se.krq (leBytes seq 8 ++ leBytes 0 4) (hb.take 16) data ((hb.drop 16).take 16)
          (plain = none → exec .memAccessComplete s = .next (failed s5 k x 0x04 0xB4)) ∧
          (∀ m s6, plain = some m → m.length = len →
            s5.engineSpot k dst (m ++ List.replicate (4 * ((len + 3) / 4) - len) 0#8) (fun _ => true) = (.ok (), s6) →
            exec .memAccessComplete s = .next (finished (s6.onSession (BitVec.ofNat 32 (w 0)) fun y =>
              { y with rqseq := BitVec.ofNat 64 seq, reqs := y.reqs + 1, prompt := y.prompt + BitVec.ofNat 64 ((len + 3) / 4) })
              k x len true).settle)))) ∧
    (x.instr = .senc a → b < 2 ^ 32 →
      let len := b % 2 ^ 17
      let n := 64 + 64 * ((len + 63) / 64)
      (s.ownBinding k (b / 2 ^ 24) = none → exec .memAccessComplete s = .next (failed s k x 0x04 0xB5)) ∧
      (∀ p g, s.ownBinding k (b / 2 ^ 24) = some (p, g) →
        (g.size < g.woff + n → exec .memAccessComplete s = .next (failed s k x 0x04 0xB6)) ∧
        (∀ src s1, g.woff + n ≤ g.size → s.checkSpot k v len true false false = (.ok src, s1) →
          (s1.session? g.sid = none → exec .memAccessComplete s = .next (failed s1 k x 0x04 0xB1)) ∧
          (∀ se data s2 ps s3, s1.session? g.sid = some se → s1.readSpot k src len = (.ok data, s2) →
            s2.replyPieces g n = (.ok ps, s3) →
              let aad := leBytes g.sid.toNat 4 ++ leBytes data.length 4 ++ leBytes se.rpseq.toNat 8
              let sealed := Crypto.gcmEncrypt se.krp (leBytes se.rpseq.toNat 8 ++ leBytes 0 4) aad data
              let record := (aad ++ (sealed.2 ++ List.replicate 16 0#8).take 16 ++ List.replicate 32 0#8 ++
                (sealed.1 ++ List.replicate data.length 0#8).take data.length ++ List.replicate n 0#8).take n
              let u : State := (s3.writeReply ps record).onSession g.sid fun y => { y with rpseq := y.rpseq + 1 }
              (∀ c, byteAt u.hostView c = byteAt u.hostMem c) ∧
              exec .memAccessComplete s = .next (finished (u.onPart p fun q =>
                { q with bindings := Tab.set q.bindings (b / 2 ^ 24) { g with woff := g.woff + n } }) k x v x.opnds.dAll).settle)))) ∧
  ∀ (s : State) (q : Piece) (qs : List Piece) (bs : List Byte), q.t.host = true → 4 ≤ q.n → 4 ≤ bs.length →
    s.writeReply (q :: qs) bs =
      ((s.putPieces ({ t := { q.t with pa := q.t.pa + 4 }, n := q.n - 4 } :: qs) (bs.drop 4)).putPieces [{ q with n := 4 }] (bs.take 4)).postAll

open Sys2Proof Machine Claims in
/-- R393, R408 to R411, R437, R438: the system instructions of the elements, as they issue and at the session engine. -/
def Obligations.SystemInstructions : Prop := SystemInstructionsIssue ∧ SessionEngine

open Sys2Proof Machine Claims in
/-- R229, R240, R254, R261, R262, R267: loads, stores and atomics performed in the local window. A load gives the little-endian bytes, sign-
extended under `.s32`, with the D bits of the words it touches, an ordered load those of the latest store before it in its chain for each
byte that one holds; a store changes exactly its bytes, in no other place of any memory, and
makes its words full; an atomic stores the new value, and `atom` gives the old one. -/
def Sys2Proof.Claims.WindowAccesses : Prop :=
  ∀ (s : State) (k : Nat) (x : Access), Performs s k x → ∀ a,
    let off := x.opnds.val 0 % 2 ^ 28
    let n := bytesOf a
    let old := numberAt (s.core k).cells off 4
    let new := atomicNew a old (x.opnds.val 1) (x.opnds.val 2)
    (x.instr = .ldx a → InWindow s k x n false →
      exec .memAccessComplete s = .next (finished s k x (extended a n (numberAt (s.core k).cells off n))
        (x.opnds.dAll || (wordsTouched off n).any (s.core k).scrD))) ∧
    (x.instr = .ld a → InWindow s k x n false → ChainInWindow s k x →
      exec .memAccessComplete s = .next (finished s k x (extended a n (chainNumber s k x off n)) (x.opnds.dAll || chainMark s k x off n))) ∧
    (x.instr = .stx a ∨ x.instr = .st a → InWindow s k x n true →
      exec .memAccessComplete s = .next
        (finished (s.onCore k (·.scrWrite off (leBytes (x.opnds.val 1) n) x.opnds.dAll)) k x (x.opnds.val 0) x.opnds.dAll).settle ∧
      NextWith (exec .memAccessComplete s) fun t => Stored s t k off n (x.opnds.val 1) ∧
        (∀ w ∈ wordsTouched off n, (t.core k).scrFull w = true)) ∧
    (x.instr = .atom a ∨ x.instr = .red a → InWindow s k x 4 true → off % 4 = 0 →
      exec .memAccessComplete s = .next
        (finished (s.onCore k (·.scrWrite off (leBytes new 4) x.opnds.dAll)) k x
          (if x.instr = .atom a then old else x.opnds.val 0)
          (x.opnds.dAll || (x.instr = .atom a && (s.core k).scrD (off / 4)))).settle ∧
      NextWith (exec .memAccessComplete s) fun t => Stored s t k off 4 new ∧ (t.core k).scrFull (off / 4) = true)

open Sys2Proof Machine Claims in
/-- R246, R247, R265, R266: the synchronising accesses in the local window. `iput` into a full word raises ISTW and writes nothing; into an
empty one it writes the word and fills it. `lds` and `iget` of a full word give its value (`lds` with the stores before it in its chain
laid over); of an empty word they wait for it. That a waiting `iget` takes one record of the SPILL pool, and ends in OVFL where there is
none, is the model's choice (assumption log 41). -/
def Sys2Proof.Claims.SynchronisingAccesses : Prop :=
  ∀ (s : State) (k : Nat) (x : Access), Performs s k x → ∀ a,
    let off := x.opnds.val 0 % 2 ^ 28
    off % 4 = 0 →
    (x.instr = .iput a → InWindow s k x 4 false → (s.core k).scrFull (off / 4) = true →
      exec .memAccessComplete s = .next
        ((((s.noteVa k x.tag 0x09 (windowBase + off)).onCore k (·.dropAccess x.id)).raise (x.shot k s.now) 0x09 0 x.tag x.opnds.dAll))) ∧
    (x.instr = .iput a → InWindow s k x 4 false → (s.core k).scrFull (off / 4) = false →
      NextWith (exec .memAccessComplete s) fun t => Stored s t k off 4 (x.opnds.val 1) ∧ (t.core k).scrFull (off / 4) = true) ∧
    (x.instr = .iget a → InWindow s k x 4 false → (s.core k).scrFull (off / 4) = true →
      exec .memAccessComplete s =
        .next (finished s k x (numberAt (s.core k).cells off 4) (x.opnds.dAll || (s.core k).scrD (off / 4)))) ∧
    (x.instr = .lds a → InWindow s k x 4 false → ChainInWindow s k x → (s.core k).scrFull (off / 4) = true →
      exec .memAccessComplete s = .next (finished s k x (chainNumber s k x off 4) (x.opnds.dAll || chainMark s k x off 4))) ∧
    (x.instr = .lds a → InWindow s k x 4 false → (s.core k).scrFull (off / 4) = false →
      NextWith (exec .memAccessComplete s) fun t => SameMemory s t ∧
        ((t.core k).access? x.id).map (fun y => (y.stage, y.instr)) = some (.waiting, x.instr)) ∧
    (∀ s2, x.instr = .iget a → InWindow s k x 4 false → (s.core k).scrFull (off / 4) = false → s.newId.2.spillTake k 1 = some s2 →
      NextWith (exec .memAccessComplete s) fun t => SameMemory s t ∧
        ((t.core k).access? x.id).map (fun y => (y.stage, y.instr)) = some (.waiting, x.instr)) ∧
    (x.instr = .iget a → InWindow s k x 4 false → (s.core k).scrFull (off / 4) = false → s.newId.2.spillTake k 1 = none →
      exec .memAccessComplete s = .next (failed s.newId.2 k x 0x08 0))

open Sys2Proof Machine Claims in
/-- R257, R258, R259, R261, R262, R267, R268, R388: loads, stores and atomics performed in translated memory, in HBM and at the host. A load
gives the bytes of its pieces, with D where a page is DERIVED; a store changes its bytes alone and makes its words of HBM full; an atomic
stores the new value. A check that now fails ends a load, and ends or parks a released access; the host takes some atomics only. -/
def Sys2Proof.Claims.TranslatedAccesses : Prop :=
  ∀ (s : State) (k : Nat) (x : Access), Performs s k x → ∀ a,
    let n := bytesOf a
    let v := x.opnds.val 0
    let d := x.opnds.dAll
    let marked (p : Spot) : Bool := p.pieces.any fun q => q.t.cls == 2
    (x.instr = .ldx a ∨ (x.instr = .ld a ∧ (s.core k).storesBefore x = []) → ∀ p s1, OnPages s k x n true false p s1 →
      (s1.piecesFault p.pieces false = none → SameMemory s (s1.readPieces p.pieces).2 ∧
        exec .memAccessComplete s = .next
          (finished (s1.readPieces p.pieces).2 k x (extended a n (heldNumber s p.pieces)) (d || marked p))) ∧
      (∀ f, s1.piecesFault p.pieces false = some f →
        exec .memAccessComplete s = .next (s1.fail k x { code := f.1, detail := f.2, va := some p.va }))) ∧
    (x.instr = .stx a ∨ x.instr = .st a → ∀ p s1, OnPages s k x n false true p s1 →
      (s1.piecesFault p.pieces true = none →
        exec .memAccessComplete s = .next
          (finished (s1.writePieces p.pieces (leBytes (x.opnds.val 1) n)) k x v d).settle ∧
        NextWith (exec .memAccessComplete s) fun t => Placed s t p.pieces (x.opnds.val 1 % 256 ^ n) ∧ PiecesFull t p.pieces) ∧
      (∀ f, s1.piecesFault p.pieces true = some f →
        exec .memAccessComplete s = .next (s1.failReleased k 61 x { code := f.1, detail := f.2, va := some p.va }))) ∧
    (x.instr = .atom a ∨ x.instr = .red a → ∀ p s1, OnPages s k x 4 true true p s1 →
      let old := heldNumber s p.pieces
      let new := atomicNew a old (x.opnds.val 1) (x.opnds.val 2)
      let allowed : Prop := p.region = .hostMem →
        a.ty ≠ .f32 ∧ (a.cond.toNat = 0 ∨ (x.instr = .atom a ∧ (a.cond.toNat = 6 ∨ a.cond.toNat = 7)))
      (allowed → s1.piecesFault p.pieces false = none → (s1.readPieces p.pieces).2.piecesFault p.pieces true = none →
        NextWith (exec .memAccessComplete s) fun t =>
          (∃ u, t = (finished u k x (if x.instr = .atom a then old else v) (d || (x.instr = .atom a && marked p))).settle) ∧
          Placed s t p.pieces (new % 2 ^ 32) ∧ PiecesFull t p.pieces) ∧
      (¬ allowed → exec .memAccessComplete s = .next (s1.fail k x { code := 0x04, detail := 0x65, va := some p.va }))) ∧
    (∀ f ∈ memForms a, f.instr = x.instr → ∀ b s1, s.checkSpot k v x.width f.rd f.wr d = (.error b, s1) →
      exec .memAccessComplete s = .next (if f.wr then s1.failReleased k 61 x b else s1.fail k x b))

open Sys2Proof Machine Claims in
/-- R246, R247, R263, R265, R388: the synchronising accesses in translated memory. A page without full/empty state gives PROT 0x60. `iput` into
a full word raises ISTW; into an empty one it writes the word and fills it. `lds` and `iget` of a full word give its value; of an empty
word they wait for it, `iget` with a record of the SPILL pool (the model's choice, assumption log 41). -/
def Sys2Proof.Claims.TranslatedSynchronisation : Prop :=
  ∀ (s : State) (k : Nat) (x : Access), Performs s k x → ∀ a,
    let isFull (s : State) (p : Spot) : Prop := ∀ q ∈ p.pieces, s.wordFull q.t.pa = true
    let waits (t : State) : Prop := SameMemory s t ∧ ((t.core k).access? x.id).map (fun y => (y.stage, y.instr)) = some (.waiting, x.instr)
    (x.instr = .lds a ∨ x.instr = .iget a → ∀ p s1, OnPages s k x 4 true false p s1 →
      (p.hasFull = false → exec .memAccessComplete s = .next (s1.fail k x { code := 0x04, detail := 0x60, va := some p.va })) ∧
      (p.hasFull = true → isFull s p → s1.piecesFault p.pieces false = none → (x.instr = .lds a → (s.core k).storesBefore x = []) →
        exec .memAccessComplete s = .next (finished (s1.readPieces p.pieces).2 k x (heldNumber s p.pieces)
          (x.opnds.dAll || p.pieces.any fun q => q.t.cls == 2))) ∧
      (p.hasFull = true → ¬ isFull s p → x.instr = .lds a → NextWith (exec .memAccessComplete s) waits) ∧
      (∀ s2, p.hasFull = true → ¬ isFull s p → x.instr = .iget a → s1.newId.2.spillTake k 1 = some s2 →
        NextWith (exec .memAccessComplete s) waits)) ∧
    (x.instr = .iput a → ∀ p s1, OnPages s k x 4 false true p s1 →
      (p.hasFull = false → exec .memAccessComplete s = .next (s1.fail k x { code := 0x04, detail := 0x60, va := some p.va })) ∧
      (p.hasFull = true → isFull s p → exec .memAccessComplete s = .next (s1.fail k x { code := 0x09, detail := 0, va := some p.va })) ∧
      (p.hasFull = true → ¬ isFull s p → s1.piecesFault p.pieces true = none →
        NextWith (exec .memAccessComplete s) fun t => Placed s t p.pieces (x.opnds.val 1 % 2 ^ 32) ∧ PiecesFull t p.pieces))

open Sys2Proof Machine Claims in
/-- R229, R240, R246, R247, R254, R257 to R268, R388: loads, stores, atomics and synchronising accesses when they are performed, in the local
window and in translated memory. -/
def Obligations.AccessesPerformed : Prop := WindowAccesses ∧ SynchronisingAccesses ∧ TranslatedAccesses ∧ TranslatedSynchronisation

open Sys2Proof Machine Claims in
/-- R229, R230: what a scratchpad write does to a core: its bytes, and no others, change; the words that it touches become full and take
the D bit, the old D bit staying beside it in a word that is written in part; no other word's full/empty state or D bit changes. -/
def Sys2Proof.Claims.ScratchpadWrite : Prop :=
  ∀ (c : Core) (off : Nat) (bs : List Byte) (d : Bool), bs ≠ [] →
    let c' := c.scrWrite off bs d
    let touched (w : Nat) : Bool := w * 4 < off + bs.length && off < w * 4 + 4
    (∀ a, byteAt c'.cells a = if off ≤ a ∧ a < off + bs.length then bs.getD (a - off) 0 else byteAt c.cells a) ∧
    (∀ w, c'.scrFull w = (c.scrFull w || touched w)) ∧
    (∀ w, c'.scrD w = if touched w then (d || (c.scrD w && !(off ≤ 4 * w && 4 * w + 4 ≤ off + bs.length))) else c.scrD w) ∧
    (Memory.wf c.cells = true → Memory.wf c'.cells = true)

open Sys2Proof Machine Claims in
/-- R8, R22, R230, R236, R245, R394: a write to a page of HBM changes the bytes of its address range alone and makes their words full, but that
the rest of an encrypted line that an OPEN write meets reads from then on as what HBM stored of it; a host page is written in host memory,
where the host itself sees the write only once it has left the outbound posted queue; a read gives what was written. -/
def Sys2Proof.Claims.TranslatedMemory : Prop :=
  ∀ (s : State) (t : Trans) (bs : List Byte),
    let s' := s.physWrite t bs
    (t.host = true →
      (∀ a, byteAt s'.hostMem a = if t.pa ≤ a ∧ a < t.pa + bs.length then bs.getD (a - t.pa) 0 else byteAt s.hostMem a) ∧
      (∀ a, byteAt s'.hbm a = byteAt s.hbm a) ∧ (s'.physRead t bs.length).1 = bs ∧
      (∀ a, byteAt s'.hostView a = byteAt s.hostView a) ∧ (∀ a, byteAt s'.postAll.hostView a = byteAt s'.hostMem a)) ∧
    (t.host = false →
      (∀ a, byteAt s'.hbm a = if t.pa ≤ a ∧ a < t.pa + bs.length then bs.getD (a - t.pa) 0
        else if t.cls = 0 ∧ a / 128 ∈ linesTouched t.pa bs.length then s.storedByte a else byteAt s.hbm a) ∧
      (∀ a, byteAt s'.hostMem a = byteAt s.hostMem a) ∧
      (∀ a, t.pa ≤ a → a < t.pa + bs.length → s'.wordFull a = true) ∧ (s'.physRead t bs.length).1 = bs) ∧
    (∀ k, s'.core k = s.core k) ∧
    (Memory.wf s.hbm = true → Memory.wf s'.hbm = true) ∧ (Memory.wf s.hostMem = true → Memory.wf s'.hostMem = true)

open Sys2Proof Machine Claims in
/-- R8, R22, R229, R230, R245: which bytes, states and D bits a write changes, in the scratchpad and in translated memory. -/
def Obligations.MemoryBytes : Prop := ScratchpadWrite ∧ TranslatedMemory

open Sys2Proof Machine Claims in
/-- R271 to R274: the tile instructions when they are performed. `talloc` gives a free region to an EMPTY tile, empty and without D bits,
READY, or FILLING where its control word asks for an engine; `tfree` of a READY tile zeroes its bytes and frees it; `tstate` gives the state
word. Their faults are PROT 0x31, 0x62, 0x66 and 0x67. -/
def Sys2Proof.Claims.TilesPerformed : Prop :=
  ∀ (s : State) (k : Nat) (x : Access), Performs s k x → ∀ a,
    let v := x.opnds.val 0
    let c := s.core k
    let no := v / 2 ^ 24
    let first := v % 2 ^ 11 * 16384
    let bytes := (v / 2 ^ 11 % 2 ^ 11 + 1) * 256
    v < 2 ^ 32 →
    (x.instr = .talloc a → (c.tile no).st = .empty → first + bytes ≤ c.scrBytes → c.tilesOf first bytes = [] →
      NextWith (exec .memAccessComplete s) fun t =>
        ((t.core k).tile no).st = (if v.testBit 23 then .filling else .ready) ∧ ((t.core k).tile no).isI = v.testBit 22 ∧
        ((t.core k).tile no).firstByte = first ∧ ((t.core k).tile no).bytes = bytes ∧
        (∀ w, first ≤ 4 * w → 4 * w < first + bytes → (t.core k).scrFull w = false ∧ (t.core k).scrD w = false) ∧ SameMemory s t) ∧
    (x.instr = .talloc a → (c.tile no).st ≠ .empty → exec .memAccessComplete s = .next (failed s k x 0x04 0x67)) ∧
    (x.instr = .talloc a → (c.tile no).st = .empty → c.scrBytes < first + bytes →
      exec .memAccessComplete s = .next (failed s k x 0x04 0x62)) ∧
    (x.instr = .talloc a → (c.tile no).st = .empty → first + bytes ≤ c.scrBytes → c.tilesOf first bytes ≠ [] →
      exec .memAccessComplete s = .next (failed s k x 0x04 0x66)) ∧
    (x.instr = .tfree a → (c.tile v).st = .ready →
      NextWith (exec .memAccessComplete s) fun t =>
        ((t.core k).tile v).st = .empty ∧
        (∀ b, (c.tile v).firstByte ≤ b → b < (c.tile v).firstByte + (c.tile v).bytes → byteAt (t.core k).cells b = 0) ∧
        (∀ b, (b < (c.tile v).firstByte ∨ (c.tile v).firstByte + (c.tile v).bytes ≤ b) →
          byteAt (t.core k).cells b = byteAt c.cells b)) ∧
    (x.instr = .tfree a → (c.tile v).st = .empty → exec .memAccessComplete s = .next (failed s k x 0x04 0x31)) ∧
    (x.instr = .tstate a → a.arity = 0 ∨ (c.tile v).st.code = x.opnds.val 1 →
      exec .memAccessComplete s = .next (finished s k x
        (if (c.tile v).st = .empty then 0
         else (c.tile v).nrow * 2 ^ 16 + (c.tile v).fill.toNat * 16 + (c.tile v).isI.toNat * 8 + (c.tile v).dmark.toNat * 4 +
           (c.tile v).st.code) x.opnds.dAll))

open Sys2Proof Machine Claims in
/-- R249, R250, R281 to R284, R424: the ring instructions when they are performed. `ring.init` waits while an engine fills a slot of the object;
then it writes words 0 to 5 of the object, empties its slots, has the claims that wait for room count from 0, and binds its entry. `awaitf`
gives the address of its slot once the slot is filled. `relslot` faults PROT 0x68 where its slot is not filled, waits for its turn, then
empties the slot and raises RPTR. An entry that names no object is PROT 0x69. That words 6 and 7 of an object keep their values, and which
slot count `relslot` takes where the rule fixes none (assumption log 16), are the model's readings, as is the order of the checks of
`ring.init` behind its waiting (assumption log 150). -/
def Sys2Proof.Claims.RingsPerformed : Prop :=
  ∀ (s : State) (k : Nat) (x : Access), Performs s k x → ∀ a,
    let v := x.opnds.val 0
    let b := x.opnds.val 1
    let rn := v / 2 ^ 28
    v < 2 ^ 32 → b < 2 ^ 32 →
    (x.instr = .ringInit a →
      (∀ e s1, s.checkRing k v b x.opnds.dAll = (.error e, s1) → e.resolvable = false →
        exec .memAccessComplete s = .next (refused s1 k x e)) ∧
      (∀ va n s1 p s2, s.checkRing k v b x.opnds.dAll = (.ok (va, n), s1) → s1.checkSpot k v 32 false true x.opnds.dAll = (.ok p, s2) →
        (s2.ringBusy (p.ringKey k) = true → NextWith (exec .memAccessComplete s) fun t =>
          SameMemory s t ∧ (t.core k).access? x.id = some { x with ringAt := some (p.ringKey k) }) ∧
        (∀ q s3 s4, s2.ringBusy (p.ringKey k) = false → s2.checkSpot k (v + 256) n false true x.opnds.dAll = (.ok q, s3) →
          s3.emptyFault q = none →
          s3.writeSpot k p (leBytes q.va 8 ++ leBytes (b / 2 ^ 8 % 2 ^ 12 * 2 ^ 8 + b / 2 ^ 20 % 2 ^ 8) 4 ++ leBytes 0 4 ++ leBytes 0 4 ++
            leBytes 0 4) x.opnds.dAll = (.ok (), s4) →
          exec .memAccessComplete s = .next (finished (((s4.restartClaims (p.ringKey k)).emptySpot k q n).onCore k fun c =>
            { c with rings := Tab.set c.rings (b / 2 ^ 28) v }) k x v x.opnds.dAll).settle))) ∧
    (x.instr = .awaitf a →
      (Tab.find? (s.core k).rings rn = none → exec .memAccessComplete s = .next (failed s k x 0x04 0x69)) ∧
      (∀ r s1, s.ringView k rn = (.ok r, s1) →
        let filled := 1 ≤ (r.wptr + 2 ^ 32 - x.slotNo) % 2 ^ 32 ∧ (r.wptr + 2 ^ 32 - x.slotNo) % 2 ^ 32 ≤ 2 ^ 31
        (filled → exec .memAccessComplete s = .next
          (finished s1 k x (r.addr + 256 + x.slotNo % (r.nslot + 1) * ((r.sz + 1) * 256)) x.opnds.dAll)) ∧
        (¬ filled → exec .memAccessComplete s = .next s1))) ∧
    (x.instr = .relslot a →
      (Tab.find? (s.core k).rings rn = none → exec .memAccessComplete s = .next (failed s k x 0x04 0x69)) ∧
      (∀ r s1, s.ringView k rn = (.ok r, s1) → ∀ n, (v + 2 ^ 28 - r.rptr % 2 ^ 28) % 2 ^ 28 < 2 ^ 27 →
        n = (r.rptr + (v + 2 ^ 28 - r.rptr % 2 ^ 28) % 2 ^ 28) % 2 ^ 32 →
        let filled := 1 ≤ (r.wptr + 2 ^ 32 - n) % 2 ^ 32 ∧ (r.wptr + 2 ^ 32 - n) % 2 ^ 32 ≤ 2 ^ 31
        (¬ filled → exec .memAccessComplete s = .next (failed s1 k x 0x04 0x68)) ∧
        (filled → r.rptr ≠ n → exec .memAccessComplete s = .next s1) ∧
        (∀ q s2, filled → r.rptr = n →
          s1.checkSpot k (r.addr + 256 + n % (r.nslot + 1) * ((r.sz + 1) * 256)) ((r.sz + 1) * 256) false true false = (.ok q, s2) →
          s2.emptyFault q = none → exec .memAccessComplete s = .next
            (finished ((s2.emptySpot k q ((r.sz + 1) * 256)).writeRing k r 5 ((n + 1) % 2 ^ 32)) k x v x.opnds.dAll))))

open Sys2Proof Machine Claims in
/-- R249, R250, R271 to R274, R281 to R284: the tile and ring instructions when they are performed. -/
def Obligations.TilesAndRingsPerformed : Prop := TilesPerformed ∧ RingsPerformed

open Sys2Proof Machine Claims in
/-- R236, R270, R334, R339, R340, R438: fences, barriers, the software count, `phase.wait` and register writes when they are performed. A
releasing fence of scope `.sys` has the posted writes reach the host. The last of NM1 + 1 arrivals ends the episode, whose DONE is 48 cycles
later; a count that would leave 0 to 2^32 - 1 is ARITH 0x81 or 0x82. -/
def Obligations.SynchronisationPerformed : Prop :=
  ∀ (s : State) (k : Nat) (x : Access), Performs s k x → ∀ a,
    let v := x.opnds.val 0
    let n := a.cond.toNat
    let waiting (t : State) : Prop := ((t.core k).access? x.id).map (·.stage) = some .waiting
    (x.instr = .fence a → exec .memAccessComplete s = .next
      (finished (if a.cond = 4 ∧ a.imm.toNat ≠ 1 then { s with posted := [] } else s) k x v (x.opnds.d 0))) ∧
    (∀ l L p nm1 r, s.coreLaunch k = some (l, L) → L.part = some p → Tab.find? L.routes n = some nm1 →
      Tab.get {} (s.part p).routes n = r →
      (x.instr = .barArrive a → NextWith (exec .memAccessComplete s) fun t =>
        let r' := Tab.get {} (t.part p).routes n
        (r.cnt = r.nm1 → r'.ep = r.ep + 1 ∧ r'.cnt = 0 ∧ r'.due = r.due ++ [s.now + 48]) ∧
        (r.cnt ≠ r.nm1 → r'.ep = r.ep ∧ r'.cnt = r.cnt + 1 ∧ r'.due = r.due) ∧ SameMemory s t) ∧
      (x.instr = .barWait a → r.isDone v = true → exec .memAccessComplete s = .next (finished s k x v x.opnds.dAll)) ∧
      (x.instr = .barWait a → r.isDone v = false → NextWith (exec .memAccessComplete s) waiting)) ∧
    (∀ l L, s.coreLaunch k = some (l, L) → Tab.find? L.routes n = none → x.instr = .barArrive a ∨ x.instr = .barWait a →
      exec .memAccessComplete s = .next (failed s k x 0x04 0x80)) ∧
    (x.instr = .censUp a → v < 2 ^ 16 → (s.core k).sc + v < 2 ^ 32 →
      exec .memAccessComplete s = .next (finished (s.onCore k fun c => { c with sc := c.sc + v }) k x v x.opnds.dAll)) ∧
    (x.instr = .censUp a → v < 2 ^ 16 → 2 ^ 32 ≤ (s.core k).sc + v → exec .memAccessComplete s = .next (failed s k x 0x10 0x82)) ∧
    (x.instr = .censDn a → v < 2 ^ 16 → v ≤ (s.core k).sc →
      exec .memAccessComplete s = .next (finished (s.onCore k fun c => { c with sc := c.sc - v }) k x v x.opnds.dAll)) ∧
    (x.instr = .censDn a → v < 2 ^ 16 → (s.core k).sc < v → exec .memAccessComplete s = .next (failed s k x 0x10 0x81)) ∧
    (x.instr = .censUp a ∨ x.instr = .censDn a → 2 ^ 16 ≤ v → exec .memAccessComplete s = .next (failed s k x 0x10 0x83)) ∧
    (x.instr = .phaseWait a → NextWith (exec .memAccessComplete s) fun t => waiting t ∧ SameMemory s t) ∧
    (x.instr = .sregWr a → 0x10 ≤ v → v < 0x20 → NextWith (exec .memAccessComplete s) fun t =>
      Tab.get 0 (t.core k).user (v - 0x10) = BitVec.ofNat 32 (x.opnds.val 1) ∧
      (∀ j, j ≠ v - 0x10 → Tab.get 0 (t.core k).user j = Tab.get 0 (s.core k).user j) ∧ SameMemory s t)

/-! ## Generation -/

open Sys2Proof Machine Claims in
/-- R350, R351, R356: `seq.open`. It reads its descriptor, and gives 0xFFFF_FFFE without a FREE slot, 0xFFFF_FFFF where the pool could not keep
RESV, 0xFFFF_FFFD without a free Serpent context; otherwise the lowest FREE slot becomes OPEN with the descriptor's fields, UNCLAIMED rises by
NEED, and a grammar binds the lowest free context in state START. -/
def Sys2Proof.Claims.SlotsOpened : Prop :=
  ∀ (s : State) (k : Nat) (x : Access) (a : ElemArgs) (l : Nat) (L : Launch) (p : Nat), Performs s k x → x.instr = .seqOpen a →
    s.coreLaunch k = some (l, L) → L.part = some p →
    let v := x.opnds.val 0
    (v % 32 ≠ 0 → exec .memAccessComplete s = .next (failed s k x 0x01 0)) ∧
    (∀ b s1, v % 32 = 0 → s.checkSpot k v 32 true false false = (.error b, s1) → exec .memAccessComplete s = .next (refused s1 k x b)) ∧
    ∀ sp s1 bs s2, v % 32 = 0 → s.checkSpot k v 32 true false false = (.ok sp, s1) → s1.readSpot k sp 32 = (.ok bs, s2) →
      let w (i : Nat) : Nat := ((wordsOfBytes bs).getD i 0).toNat
      let need := w 4 % 2 ^ 16
      let gtab := w 6 + 2 ^ 32 * w 7
      let d := x.opnds.dAll || s1.spotD k sp 32
      let formOk := w 4 / 2 ^ 16 = 0 ∧ w 5 / 2 ^ 16 = 0 ∧ w 2 ≠ 0 ∧ 1 ≤ need ∧ need ≤ 4096 ∧ gtab % 256 = 0
      let fields : SeqRec := { st := .opened, next := w 5 % 2 ^ 16, limit := BitVec.ofNat 32 (w 2), eos := BitVec.ofNat 32 (w 3),
                               seed := BitVec.ofNat 64 (w 0 + 2 ^ 32 * w 1), need := need, sdv := L.cmd.sdv,
                               sdom := if L.cmd.sdv then L.cmd.sdom.toNat else 0 }
      (¬ formOk → exec .memAccessComplete s = .next (failed s2 k x 0x04 0x9A)) ∧
      (∀ b s3, formOk → gtab ≠ 0 → s2.grammar k gtab = (.error b, s3) → exec .memAccessComplete s = .next (refused s3 k x b)) ∧
      ∀ (g : Option Grammar) s3, formOk →
        ((gtab = 0 ∧ g = none ∧ s3 = s2) ∨ (gtab ≠ 0 ∧ ∃ h, g = some h ∧ s2.grammar k gtab = (.ok h, s3))) →
        let pt := s3.part p
        let dr := d || g.any (·.d)
        let room := L.resv + pt.unclaimed + need ≤ pt.kvFree.length
        let lowest (q : Nat) : Prop := pt.slot0 ≤ q ∧ q < pt.slot0 + pt.nslot ∧ (s3.slot q).st = .free ∧
          ∀ r, pt.slot0 ≤ r → r < q → (s3.slot r).st ≠ .free
        let opened (u : State) (q : Nat) (r : SeqRec) : Prop := u.slot q = r ∧ (∀ y, y ≠ q → u.slot y = s3.slot y) ∧
          u.part p = { pt with unclaimed := pt.unclaimed + need } ∧ u.cores = s3.cores ∧ SameMemory s3 u
        ((∀ q, pt.slot0 ≤ q → q < pt.slot0 + pt.nslot → (s3.slot q).st ≠ .free) →
          exec .memAccessComplete s = .next (finished s3 k x 0xFFFFFFFE dr)) ∧
        ∀ q, lowest q →
          (¬ room → exec .memAccessComplete s = .next (finished s3 k x 0xFFFFFFFF dr)) ∧
          (room → gtab = 0 → EndsWith s k x q dr fun u => opened u q fields ∧ u.serpents = s3.serpents) ∧
          (room → gtab ≠ 0 → (∀ i < 64, s3.serpent? (k / 4 * 64 + i) ≠ none) →
            exec .memAccessComplete s = .next (finished s3 k x 0xFFFFFFFD dr)) ∧
          (∀ h i, room → g = some h → i < 64 → s3.serpent? (k / 4 * 64 + i) = none →
            (∀ j < i, s3.serpent? (k / 4 * 64 + j) ≠ none) → EndsWith s k x q dr fun u =>
              opened u q { fields with gv := true, gctx := k / 4 * 64 + i } ∧
              u.serpent? (k / 4 * 64 + i) = some { gaddr := gtab, st := h.start, stack := [h.bottom], d := d } ∧
              ∀ c, c ≠ k / 4 * 64 + i → u.serpent? c = s3.serpent? c)

open Sys2Proof Machine Claims in
/-- R352, R355, R360: `seq.close` and `commit`. A close records its END, unmaps every page of its slot, drops its prefix reference and waits for
the drain. A verdict is recorded after its checks, the bound context is rolled to its last accepted iteration, and the retire loop runs. That a
slot whose close has begun counts as neither OPEN nor ENDED is the model's reading (assumption log 66). -/
def Sys2Proof.Claims.SlotsClosedAndJudged : Prop :=
  ∀ (s : State) (k : Nat) (x : Access) (a : ElemArgs) (l : Nat) (L : Launch) (p : Nat), Performs s k x → s.coreLaunch k = some (l, L) →
    L.part = some p →
    let v := x.opnds.val 0
    v < 2 ^ 32 →
    (x.instr = .seqClose a →
      let r := s.slot v
      (1024 ≤ v → exec .memAccessComplete s = .next (failed s k x 0x04 0x9A)) ∧
      (v < 1024 → ¬ SlotOk s p v true → exec .memAccessComplete s = .next (failed s k x 0x04 0x90)) ∧
      (v < 1024 → SlotOk s p v true → NextWith (exec .memAccessComplete s) fun t =>
        t.slot v = { r with ending := if r.ending = 0 then 5 else r.ending, closing := true, pages := [], pv := false,
                            pfxe := if r.pv then 0 else r.pfxe } ∧
        DrainBegun s t k x v (r.pages.map (·.1)) r.pages ∧
        (∀ e, r.pv = true → Tab.find? (s.part p).prefixes r.pfxe = some e →
          Tab.find? (t.part p).prefixes r.pfxe = some (unreferenced s e)))) ∧
    (x.instr = .commit a →
      let n := v / 2 ^ 16
      let m := v % 2 ^ 16
      let i := iterOf x.tag
      (ctxOf x.tag < 0xC00 → exec .memAccessComplete s = .next (failed s k x 0x04 0x94)) ∧
      ∀ q, OnSlot s k x l L p q →
        let r := s.slot q
        let ready := (s.part p).slot0 ≤ q ∧ q < (s.part p).slot0 + (s.part p).nslot ∧ r.st ≠ .free ∧ r.closing = false
        let spanOk := 1 ≤ m ∧ m ≤ 64 ∧ n ≤ m
        let older := ∃ j < m, iterNewer r.next ((i + j) % 2 ^ 16) = true
        let overlaps := ∃ y ∈ r.verdicts, ∃ j < m, ((i + j) % 2 ^ 16 + 2 ^ 16 - y.iter) % 2 ^ 16 < y.span
        (¬ ready → exec .memAccessComplete s = .next (failed s k x 0x04 0x90)) ∧
        (∀ c, ready → Tab.find? L.bound q = some c → c ≠ k → exec .memAccessComplete s = .next (failed s k x 0x04 0x95)) ∧
        ∀ s1, ready → s.bindSlot k q = some s1 →
          let judged : State := s1.onSlot q fun r => { r with verdicts := r.verdicts ++ [{ iter := i, span := m, accepted := n }] }
          (¬ spanOk → exec .memAccessComplete s = .next (failed s1 k x 0x10 0x98)) ∧
          (spanOk → older → exec .memAccessComplete s = .next (failed s1 k x 0x10 0x97)) ∧
          (spanOk → ¬ older → overlaps → exec .memAccessComplete s = .next (failed s1 k x 0x10 0x96)) ∧
          (spanOk → ¬ older → ¬ overlaps →
            (r.gv = false → exec .memAccessComplete s = .next (finished (judged.retireAll k q) k x v x.opnds.dAll)) ∧
            (∀ c, r.gv = true → s.serpent? r.gctx = some c →
              (c.roll ((i + n + 65535) % 2 ^ 16) = none → exec .memAccessComplete s = .next (failed (judged.retireAll k q) k x 0x10 0xA1)) ∧
              (∀ c', c.roll ((i + n + 65535) % 2 ^ 16) = some c' → exec .memAccessComplete s = .next
                (finished ((judged.setSerpent r.gctx c').retireAll k q) k x v (x.opnds.dAll || c.d))))))

open Sys2Proof Machine Claims in
/-- R357 to R360: the page instructions. `kv.alloc` maps a frame of FREE, zeroed and full, with the launch's queue as its owner; `kv.free`
unmaps its page, or all pages with the prefix reference, and waits for the drain; `kv.attach` drains the pages that another queue owns. Each
faults in the order of R358. That a page whose freeing drains is mapped anew only after the drain is the model's reading (assumption
log 139). -/
def Sys2Proof.Claims.PagesPerformed : Prop :=
  ∀ (s : State) (k : Nat) (x : Access) (a : ElemArgs) (l : Nat) (L : Launch) (p : Nat), Performs s k x → s.coreLaunch k = some (l, L) →
    L.part = some p →
    (ctxOf x.tag < 0xC00 → x.instr = .kvAlloc a ∨ x.instr = .kvFree a ∨ x.instr = .kvAttach a →
      exec .memAccessComplete s = .next (failed s k x 0x04 0x94)) ∧
    ∀ q, OnSlot s k x l L p q →
      let v := x.opnds.val 0
      let b := x.opnds.val 1
      let r := s.slot q
      let entry (pg : Nat) : Nat := (Tab.get 0 r.pages pg).toNat
      let draining := ∃ d ∈ s.drains, d.slot = q ∧ Tab.find? d.freed v ≠ none
      v < 2 ^ 32 →
      (x.instr = .kvAlloc a →
        (¬ SlotOk s p q false → exec .memAccessComplete s = .next (failed s k x 0x04 0x90)) ∧
        (SlotOk s p q false → 4096 ≤ v → exec .memAccessComplete s = .next (failed s k x 0x04 0x9A)) ∧
        (SlotOk s p q false → v < 4096 → entry v ≠ 0 → exec .memAccessComplete s = .next (failed s k x 0x04 0x9B)) ∧
        (SlotOk s p q false → v < 4096 → entry v = 0 → r.need ≤ r.held → exec .memAccessComplete s = .next (failed s k x 0x04 0x9C)) ∧
        (SlotOk s p q false → v < 4096 → entry v = 0 → r.held < r.need → draining → StaysReady s) ∧
        (∀ f rest, SlotOk s p q false → v < 4096 → entry v = 0 → r.held < r.need → ¬ draining → (s.part p).kvFree = f :: rest →
          f < 2 ^ 24 → EndsWith s k x v x.opnds.dAll fun u =>
            (u.part p).kvFree = rest ∧ (u.part p).unclaimed = (s.part p).unclaimed - 1 ∧
            u.slot q = { r with held := r.held + 1, pages := Tab.set r.pages v (kvEntry false L.q f) } ∧
            (∀ c, f * 65536 ≤ c → c < f * 65536 + 65536 → byteAt u.hbm c = 0 ∧ u.wordFull c = true) ∧ u.cores = s.cores)) ∧
      (x.instr = .kvFree a →
        let pg := v % 4096
        (¬ SlotOk s p q true → exec .memAccessComplete s = .next (failed s k x 0x04 0x90)) ∧
        (SlotOk s p q true → v / 4096 % 2 ^ 19 ≠ 0 → exec .memAccessComplete s = .next (failed s k x 0x04 0x9A)) ∧
        (SlotOk s p q true → v / 4096 % 2 ^ 19 = 0 → 2 ^ 31 ≤ v → NextWith (exec .memAccessComplete s) fun t =>
          t.slot q = { r with pages := [], pv := false, pfxe := if r.pv then 0 else r.pfxe } ∧
          DrainBegun s t k x q (r.pages.map (·.1)) r.pages ∧
          (∀ e, r.pv = true → Tab.find? (s.part p).prefixes r.pfxe = some e →
            Tab.find? (t.part p).prefixes r.pfxe = some (unreferenced s e))) ∧
        (SlotOk s p q true → v < 4096 → entry pg = 0 → exec .memAccessComplete s = .next (failed s k x 0x04 0x9F)) ∧
        (SlotOk s p q true → v < 4096 → entry pg ≠ 0 → (entry pg).testBit 62 = true →
          exec .memAccessComplete s = .next (failed s k x 0x04 0x9E)) ∧
        (SlotOk s p q true → v < 4096 → entry pg ≠ 0 → (entry pg).testBit 62 = false → NextWith (exec .memAccessComplete s) fun t =>
          t.slot q = { r with pages := Tab.del r.pages pg } ∧ DrainBegun s t k x q [pg] (r.pages.filter fun e => e.1 == pg))) ∧
      (x.instr = .kvAttach a →
        let inRange (pg : Nat) : Prop := v ≤ pg ∧ pg < v + b
        let spanOk := 1 ≤ b ∧ v + b ≤ 4096
        (L.cmd.role = false → exec .memAccessComplete s = .next (failed s k x 0x04 0xA2)) ∧
        (L.cmd.role = true → ¬ SlotOk s p q true → exec .memAccessComplete s = .next (failed s k x 0x04 0x90)) ∧
        (L.cmd.role = true → SlotOk s p q true → ¬ spanOk → exec .memAccessComplete s = .next (failed s k x 0x04 0x9A)) ∧
        (L.cmd.role = true → SlotOk s p q true → spanOk → (∃ pg, inRange pg ∧ entry pg = 0) →
          exec .memAccessComplete s = .next (failed s k x 0x04 0x9F)) ∧
        (L.cmd.role = true → SlotOk s p q true → spanOk → (∀ pg, inRange pg → entry pg ≠ 0) → NextWith (exec .memAccessComplete s) fun t =>
          t.slot q = r ∧ ∃ pages, DrainBegun s t k x q pages [] ∧
            ∀ pg, pg ∈ pages ↔ inRange pg ∧ entry pg / 2 ^ 41 % 2 ^ 17 ≠ L.q % 2 ^ 17))

open Sys2Proof Machine Claims in
/-- R360, R361: the prefix instructions. `pfx.attach` maps the pages of an entry shared and counts a reference, or publishes the first N pages
of its slot, which become shared, as a new entry; a miss, an existing key and a full table change nothing. `pfx.evict` removes entries without a
reference, the one that was released first before the others, until enough frames are back in FREE. That an attach waits for a page whose
freeing drains is the model's reading (assumption log 139). -/
def Sys2Proof.Claims.PrefixesPerformed : Prop :=
  ∀ (s : State) (k : Nat) (x : Access) (a : ElemArgs) (l : Nat) (L : Launch) (p : Nat), Performs s k x → s.coreLaunch k = some (l, L) →
    L.part = some p →
    let v := x.opnds.val 0
    let b := x.opnds.val 1
    (ctxOf x.tag < 0xC00 → x.instr = .pfxAttach a ∨ x.instr = .pfxEvict a → exec .memAccessComplete s = .next (failed s k x 0x04 0x94)) ∧
    ∀ q, OnSlot s k x l L p q → b < 2 ^ 32 →
      (x.instr = .pfxAttach a →
        (v % 8 ≠ 0 → exec .memAccessComplete s = .next (failed s k x 0x01 0)) ∧
        (∀ e s1, v % 8 = 0 → s.checkSpot k v 8 true false false = (.error e, s1) → exec .memAccessComplete s = .next (refused s1 k x e)) ∧
        ∀ sp s1 bs u, v % 8 = 0 → s.checkSpot k v 8 true false false = (.ok sp, s1) → s1.readSpot k sp 8 = (.ok bs, u) →
          let d := x.opnds.dAll || s1.spotD k sp 8
          let r := u.slot q
          let table := (u.part p).prefixes
          let entry (pg : Nat) : Nat := (Tab.get 0 r.pages pg).toNat
          let publish := 2 ^ 31 ≤ b
          let n := b % 4096
          let formOk := if publish then b / 4096 % 2 ^ 19 = 0 ∧ 1 ≤ n else b = 0
          let key : DWord := BitVec.ofNat 64 (ofLeBytes bs)
          let ready := formOk ∧ SlotOk u p q false
          let bad (detail : Nat) : Prop := exec .memAccessComplete s = .next (failed u k x 0x04 detail)
          (¬ formOk → bad 0x9A) ∧ (formOk → ¬ SlotOk u p q false → bad 0x90) ∧ (ready → r.pv = true → bad 0xA0) ∧
          (ready → r.pv = false → ¬ publish →
            ((∀ e ∈ table, e.2.key ≠ key) → exec .memAccessComplete s = .next (finished u k x 0xFFFFFFFF d)) ∧
            (∀ e, List.find? (fun e : Nat × PrefixEntry => e.2.key == key) table = some e →
              let m := e.2.frames.length
              ((∃ pg < m, entry pg ≠ 0) → bad 0x9B) ∧
              ((∀ pg < m, entry pg = 0) → (∃ o ∈ u.drains, o.slot = q ∧ ∃ pg < m, Tab.find? o.freed pg ≠ none) →
                exec .memAccessComplete s = .next u) ∧
              ((∀ pg < m, entry pg = 0) → (∀ o ∈ u.drains, o.slot = q → ∀ pg < m, Tab.find? o.freed pg = none) →
                EndsWith s k x m d fun t =>
                  Tab.find? (t.part p).prefixes e.1 = some { e.2 with count := e.2.count + 1 } ∧
                  t.slot q = { r with pages := (t.slot q).pages, pv := true, pfxe := e.1 } ∧
                  (∀ pg f, e.2.frames[pg]? = some f → Tab.find? (t.slot q).pages pg = some (kvEntry true L.q f)) ∧
                  (∀ pg, m ≤ pg → Tab.find? (t.slot q).pages pg = Tab.find? r.pages pg) ∧ t.cores = u.cores ∧ SameMemory u t))) ∧
          (ready → r.pv = false → publish →
            let mapped := ∀ pg < n, entry pg ≠ 0
            let unshared := ∀ pg < n, (entry pg).testBit 62 = false
            (¬ mapped → bad 0x9F) ∧ (mapped → ¬ unshared → bad 0x9E) ∧
            (mapped → unshared → (∃ e ∈ table, e.2.key = key) → exec .memAccessComplete s = .next (finished u k x 0xFFFFFFFE d)) ∧
            (mapped → unshared → (∀ e ∈ table, e.2.key ≠ key) → 65536 ≤ table.length →
              exec .memAccessComplete s = .next (finished u k x 0xFFFFFFFD d)) ∧
            (mapped → unshared → (∀ e ∈ table, e.2.key ≠ key) → table.length < 65536 → EndsWith s k x n d fun t =>
              Tab.find? (t.part p).prefixes (t.slot q).pfxe =
                some { key := key, frames := (List.range n).map fun pg => entry pg / 2 ^ 16 % 2 ^ 24, count := 1 } ∧
              t.slot q = { r with pages := (t.slot q).pages, pv := true, pfxe := (t.slot q).pfxe, held := r.held - n, need := r.need - n } ∧
              (∀ pg < n, (Tab.get 0 (t.slot q).pages pg).toNat = entry pg + 2 ^ 62) ∧
              (∀ pg, n ≤ pg → Tab.find? (t.slot q).pages pg = Tab.find? r.pages pg) ∧ t.cores = u.cores ∧ SameMemory u t))) ∧
      (x.instr = .pfxEvict a →
        let table := (s.part p).prefixes
        (v = 0 ∨ 65536 < v → exec .memAccessComplete s = .next (failed s k x 0x04 0x9A)) ∧
        (1 ≤ v → v ≤ 65536 → ∃ n, EndsWith s k x n x.opnds.dAll fun u =>
          (∀ e ∈ (u.part p).prefixes, e ∈ table) ∧
          (∀ e ∈ table, e ∈ (u.part p).prefixes ∨ ∃ y ∈ table, y.1 = e.1 ∧ y.2.count = 0) ∧
          (v ≤ n ∨ ∀ e ∈ (u.part p).prefixes, e.2.count ≠ 0) ∧ u.cores = s.cores ∧ SameMemory s u) ∧
        (∀ e, 1 ≤ v → v ≤ 65536 → e ∈ table → e.2.count = 0 → (∀ y ∈ table, y.2.count = 0 → y ≠ e → e.2.released < y.2.released) →
          v ≤ e.2.frames.length → exec .memAccessComplete s = .next
            (finished (s.onPart p fun t => { t with prefixes := Tab.del t.prefixes e.1,
                                                    kvFree := t.kvFree ++ e.2.frames.filter fun f => !s.frameDead f })
              k x e.2.frames.length x.opnds.dAll)))

open Sys2Proof Machine Claims in
/-- R363 to R366: `g.step`, `g.fork` and `g.roll`. A step takes the action that the context's mode has for the token's class: it changes state
and stack, adds to the journal and gives the step word; a token without an action changes nothing and gives status 2, and a stack that would
leave 1 to 256 symbols is ARITH 0x92. A fork copies a context into the lowest free one of its unit. A roll undoes the journal steps newer than an
iteration, ARITH 0xA1 where the journal no longer keeps them, or releases the context. Another cluster's context is PROT 0x93. -/
def Sys2Proof.Claims.SerpentSteps : Prop :=
  ∀ (s : State) (k : Nat) (x : Access) (a : ElemArgs), Performs s k x →
    let v := x.opnds.val 0
    let b := x.opnds.val 1
    v < 2 ^ 32 → b < 2 ^ 32 →
    (x.instr = .gStep a →
      (1024 ≤ b → exec .memAccessComplete s = .next (failed s k x 0x04 0x9A)) ∧
      (b < 1024 → (∀ c, ¬ OwnContext s k b c) → exec .memAccessComplete s = .next (failed s k x 0x04 0x93)) ∧
      ∀ c, b < 1024 → OwnContext s k b c →
        (∀ e s1, s.grammar k c.gaddr = (.error e, s1) → exec .memAccessComplete s = .next (refused s1 k x e)) ∧
        ∀ g s1, s.grammar k c.gaddr = (.ok g, s1) →
          let d := x.opnds.dAll || c.d || g.d
          let depth := c.stack.length
          (g.vocab ≤ v → exec .memAccessComplete s = .next (finished s1 k x (2 + 4 * c.st + 2 ^ 14 * depth) d)) ∧
          ∀ mb md s2 cb cd s3, v < g.vocab →
            s1.readVa k (g.base + g.modeOfs + 8 * (c.st * (g.nsym + 1) + c.stack.headD 0)) 8 = (.ok (mb, md), s2) →
            s2.readVa k (g.base + g.clsOfs + 2 * v) 2 = (.ok (cb, cd), s3) →
            let mode := ofLeBytes mb
            let cls := ofLeBytes cb
            (g.nclass < cls → exec .memAccessComplete s = .next (failed s3 k x 0x04 0x99)) ∧
            (∀ dd s4, cls ≤ g.nclass → s3.findAction k g cls (d || md || cd) (mode / 2 ^ 32 % 2 ^ 16) (mode % 2 ^ 32) = (.ok (none, dd), s4) →
              exec .memAccessComplete s = .next (finished s4 k x (2 + 4 * c.st + 2 ^ 14 * depth) dd)) ∧
            (∀ act dd s4, cls ≤ g.nclass →
              s3.findAction k g cls (d || md || cd) (mode / 2 ^ 32 % 2 ^ 16) (mode % 2 ^ 32) = (.ok (some act, dd), s4) →
              let pops := (act / 2 ^ 34 % 4) / 2 = 1
              let pushes := (act / 2 ^ 34 % 4) % 2 = 1
              let rest := if pops then c.stack.tail else c.stack
              let stack := if pushes then (act / 2 ^ 24 % 256) :: rest else rest
              let faults := (pops ∧ depth ≤ 1) ∨ (pushes ∧ 256 ≤ rest.length)
              (faults → exec .memAccessComplete s = .next (failed s4 k x 0x10 0x92)) ∧
              (¬ faults → EndsWith s k x (act % 2 + 4 * (act / 2 ^ 36 % 2 ^ 12) + 2 ^ 14 * stack.length) dd fun u =>
                ∃ c', u = s4.setSerpent b c' ∧ c'.gaddr = c.gaddr ∧ c'.st = act / 2 ^ 36 % 2 ^ 12 ∧ c'.stack = stack ∧
                  c'.d = (c.d || x.opnds.d 0) ∧
                  let step : JournalStep := { iter := iterOf x.tag, st := c.st, stack := c.stack }
                  (c.journal.length < 64 → c'.journal = c.journal ++ [step] ∧ c'.dropped = c.dropped) ∧
                  (∀ o js, c.journal = o :: js → js.length = 63 → c'.journal = js ++ [step] ∧ c'.dropped = some o.iter)))) ∧
    (x.instr = .gFork a →
      ((∀ c, ¬ OwnContext s k (v % 1024) c) → exec .memAccessComplete s = .next (failed s k x 0x04 0x93)) ∧
      (∀ c, OwnContext s k (v % 1024) c → (∀ i < 64, s.serpent? (k / 4 * 64 + i) ≠ none) →
        exec .memAccessComplete s = .next (finished s k x 0xFFFFFFFF (x.opnds.dAll || c.d))) ∧
      (∀ c i, OwnContext s k (v % 1024) c → i < 64 → s.serpent? (k / 4 * 64 + i) = none →
        (∀ j < i, s.serpent? (k / 4 * 64 + j) ≠ none) →
        exec .memAccessComplete s = .next
          (finished (s.setSerpent (k / 4 * 64 + i) c) k x (k / 4 * 64 + i) (x.opnds.dAll || c.d)))) ∧
    (x.instr = .gRoll a →
      let n := v % 1024
      ((∀ c, ¬ OwnContext s k n c) → exec .memAccessComplete s = .next (failed s k x 0x04 0x93)) ∧
      ∀ c, OwnContext s k n c →
        let d := x.opnds.dAll || c.d
        (b = 2 ^ 31 → exec .memAccessComplete s = .next (finished { s with serpents := Tab.del s.serpents n } k x v d)) ∧
        (b ≠ 2 ^ 31 → b % 2 ^ 31 / 2 ^ 16 ≠ 0 → exec .memAccessComplete s = .next (failed s k x 0x04 0x9A)) ∧
        (b ≠ 2 ^ 31 → b % 2 ^ 31 / 2 ^ 16 = 0 →
          (∀ o, c.dropped = some o → iterNewer o (b % 2 ^ 16) = true → exec .memAccessComplete s = .next (failed s k x 0x10 0xA1)) ∧
          ∀ kept undone, (∀ o, c.dropped = some o → iterNewer o (b % 2 ^ 16) = false) → c.journal = kept ++ undone →
            (∀ y ∈ undone, iterNewer y.iter (b % 2 ^ 16) = true) → (∀ y, kept.getLast? = some y → iterNewer y.iter (b % 2 ^ 16) = false) →
            exec .memAccessComplete s = .next (finished (s.setSerpent n
              { c with journal := kept, st := (undone.head?.map (·.st)).getD c.st, stack := (undone.head?.map (·.stack)).getD c.stack })
              k x v d)))

open Sys2Proof Machine Claims in
/-- R198, R363, R366: `g.mask`, `g.save` and `g.load`. A mask writes the mask row of the context's mode to the first rows of a tile as an engine
does; a save writes the 512-byte image of the slot's context, and a load takes it back with an empty journal. That a save changes no full/empty
state (R245) is as in the model's other writes, and the newest iteration that it gives of an empty journal is a free value (assumption
log 27). -/
def Sys2Proof.Claims.SerpentImages : Prop :=
  (∀ (s : State) (k : Nat) (x : Access) (a : ElemArgs), Performs s k x → x.instr = .gMask a →
    let v := x.opnds.val 0
    v < 2 ^ 32 →
    (v / 2 ^ 10 % 2 ^ 14 ≠ 0 → exec .memAccessComplete s = .next (failed s k x 0x04 0x9A)) ∧
    (v / 2 ^ 10 % 2 ^ 14 = 0 → (∀ c, ¬ OwnContext s k (v % 1024) c) → exec .memAccessComplete s = .next (failed s k x 0x04 0x93)) ∧
    ∀ c g s1, v / 2 ^ 10 % 2 ^ 14 = 0 → OwnContext s k (v % 1024) c → s.grammar k c.gaddr = (.ok g, s1) →
      let tile := (s1.core k).tile (v / 2 ^ 24)
      (tile.st = .empty → exec .memAccessComplete s = .next (failed s1 k x 0x04 0x31)) ∧
      (tile.st = .filling ∨ tile.st = .draining → exec .memAccessComplete s = .next s1) ∧
      (tile.st = .ready → tile.nrow + 1 < g.vocab / 2048 → exec .memAccessComplete s = .next (failed s1 k x 0x04 0x30)) ∧
      ∀ mb md s2, tile.st = .ready → g.vocab / 2048 ≤ tile.nrow + 1 →
        s1.readVa k (g.base + g.modeOfs + 8 * (c.st * (g.nsym + 1) + c.stack.headD 0)) 8 = (.ok (mb, md), s2) →
        let row := ofLeBytes mb / 2 ^ 48 % 2 ^ 16
        (g.nmask < row → exec .memAccessComplete s = .next (failed s2 k x 0x04 0x99)) ∧
        (∀ bs pd s3, row ≤ g.nmask → s2.readVa k (g.base + g.maskOfs + row * (g.vocab / 8)) (g.vocab / 8) = (.ok (bs, pd), s3) →
          exec .memAccessComplete s = .next
            (finished (s3.onCore k (·.engineWrite ((s3.core k).tile (v / 2 ^ 24)).firstByte bs (c.d || x.opnds.d 0)))
              k x v (c.d || x.opnds.d 0 || g.d || md || pd)).settle)) ∧
  (∀ (s : State) (k : Nat) (x : Access) (a : ElemArgs) (l : Nat) (L : Launch) (p : Nat), Performs s k x →
    x.instr = .gSave a ∨ x.instr = .gLoad a → s.coreLaunch k = some (l, L) → L.part = some p →
    let v := x.opnds.val 0
    (ctxOf x.tag < 0xC00 → exec .memAccessComplete s = .next (failed s k x 0x04 0x94)) ∧
    ∀ q, OnSlot s k x l L p q →
      let r := s.slot q
      (¬ SlotOk s p q true → exec .memAccessComplete s = .next (failed s k x 0x04 0x90)) ∧
      (SlotOk s p q true → r.gv = false ∨ (∀ c, ¬ OwnContext s k r.gctx c) → exec .memAccessComplete s = .next (failed s k x 0x04 0x93)) ∧
      ∀ c, SlotOk s p q true → r.gv = true → OwnContext s k r.gctx c →
        (∀ y, x.instr = .gSave a → c.journal.getLast? = some y →
          let d := c.d || x.opnds.d 0
          (v % 256 ≠ 0 → exec .memAccessComplete s = .next (failed s k x 0x01 0)) ∧
          (∀ e s1, v % 256 = 0 → s.checkSpot k v 512 false true d = (.error e, s1) →
            exec .memAccessComplete s = .next (refused s1 k x e)) ∧
          (∀ sp s1 s2, v % 256 = 0 → s.checkSpot k v 512 false true d = (.ok sp, s1) →
            s1.putSpot false k sp (c.image y.iter) d = (.ok (), s2) →
            exec .memAccessComplete s = .next (finished s2 k x v d).settle)) ∧
        (x.instr = .gSave a → c.journal = [] → ∃ n < 2 ^ 16, ∀ sp s1 s2, v % 256 = 0 →
          ({ s with free := s.free + 1 } : State).checkSpot k v 512 false true (c.d || x.opnds.d 0) = (.ok sp, s1) →
          s1.putSpot false k sp (c.image n) (c.d || x.opnds.d 0) = (.ok (), s2) →
          exec .memAccessComplete s = .next (finished s2 k x v (c.d || x.opnds.d 0)).settle) ∧
        (x.instr = .gLoad a →
          (v % 256 ≠ 0 → exec .memAccessComplete s = .next (failed s k x 0x01 0)) ∧
          (∀ e s1, v % 256 = 0 → s.checkSpot k v 512 true false false = (.error e, s1) →
            exec .memAccessComplete s = .next (refused s1 k x e)) ∧
          (∀ sp s1 bs s2, v % 256 = 0 → s.checkSpot k v 512 true false false = (.ok sp, s1) → s1.readSpot k sp 512 = (.ok bs, s2) →
            let w (i : Nat) : Nat := ((wordsOfBytes bs).getD i 0).toNat
            let depth := w 1 / 2 ^ 16 % 2 ^ 9
            let formOk := w 0 = 0x47534156 ∧ 1 ≤ depth ∧ depth ≤ 256
            let d := c.d || x.opnds.d 0 || s1.spotD k sp 512
            (¬ formOk → exec .memAccessComplete s = .next (failed s2 k x 0x04 0x99)) ∧
            (∀ e s3, formOk → s2.grammar k (w 4 + 2 ^ 32 * w 5) = (.error e, s3) → exec .memAccessComplete s = .next (refused s3 k x e)) ∧
            (∀ g s3, formOk → s2.grammar k (w 4 + 2 ^ 32 * w 5) = (.ok g, s3) →
              EndsWith s k x v (d || g.d) fun u => ∃ c', u = s3.setSerpent r.gctx c' ∧ c'.gaddr = w 4 + 2 ^ 32 * w 5 ∧
                c'.st = w 1 % 2 ^ 12 ∧ c'.d = d ∧ c'.journal = [] ∧ c'.dropped = some (w 2 % 2 ^ 16) ∧ c'.stack.length = depth ∧
                ∀ i < depth, c'.stack.reverse[i]? = some (bs.getD (64 + i) 0).toNat)))) ∧
  ∀ (c : Serpent) (n : Nat), c.st < 2 ^ 12 → 1 ≤ c.stack.length → c.stack.length ≤ 256 → n < 2 ^ 16 → c.gaddr < 2 ^ 64 →
    let im := c.image n
    let number (i m : Nat) : Nat := ofLeBytes ((im.drop i).take m)
    im.length = 512 ∧ number 0 4 = 0x47534156 ∧ number 4 4 = c.st + 2 ^ 16 * c.stack.length ∧ number 8 4 = n ∧ number 12 4 = 0 ∧
    number 16 8 = c.gaddr ∧ (∀ i, 24 ≤ i → i < 64 → im[i]? = some 0) ∧
    (∀ i sym, c.stack.reverse[i]? = some sym → im[64 + i]? = some (BitVec.ofNat 8 sym)) ∧
    ∀ i, 64 + c.stack.length ≤ i → i < 512 → im[i]? = some 0

open Sys2Proof Machine Claims in
/-- R198, R347 to R366: the instructions of the sequence and Serpent units when they are performed. -/
def Obligations.GenerationPerformed : Prop := SlotsOpened ∧ SlotsClosedAndJudged ∧ PagesPerformed ∧ PrefixesPerformed ∧ SerpentSteps ∧ SerpentImages

open Sys2Proof Machine Claims in
/-- R286, R288 to R294, R296, R301 to R303: what the remote unit does with an access. A rank without an entry is TRANS 0x73; a D packet without a
SECURE route is DMARK. `rld` and `rat` send a request and wait for its reply, `rred` to a window sends its contribution, `rcopen` opens an epoch
on a segment without one, and `rst`, `rred` and `rrel` join the open epoch: a write takes its sequence number and leaves or is held until
OPENACK, a release starts or is held. Their faults are PROT 0x70 to 0x72, OVFL and, on a FAILED epoch, FABRIC 0x01. That the route is looked at
before the conditions of R294 (assumption log 131), and the request id and the records that a write takes (assumption logs 23, 20), are the
model's choices. -/
def Obligations.RemoteUnit : Prop :=
  ∀ (s : State) (k : Nat) (x : Access) (a : ElemArgs) (l : Nat) (L : Launch), Performs s k x → s.coreLaunch k = some (l, L) →
    x.instr ∈ [Instr.rst a, .rld a, .rat a, .rred a, .rcopen a, .rrel a] →
    let v := x.opnds.val 0
    let g := s.remoteSeg k v
    let waits (t : State) : Prop := ((t.core k).access? x.id).map (·.stage) = some .waiting
    v < 2 ^ 32 →
    (s.rankOf g.job g.rank = none → exec .memAccessComplete s = .next (failed s k x 0x03 0x73)) ∧
    ∀ r p s1, s.rankOf g.job g.rank = some r → s.packetOf L x g r (remotePtype x.opc g.win) = (p, s1) →
      let noRoute (d : Bool) : Prop := d = true ∧ s1.route r.ports true = none
      let dmark : Prop := exec .memAccessComplete s = .next (failed s1 k x 0x06 0)
      let rowD := a.cond.toNat.testBit 2 = true ∧ (s.core k).scrDs (x.opnds.val 1 % 2 ^ 28) 256 = true
      let d (e : Option Epoch) : Bool := x.opnds.dAll || (decide (x.instr = .rst a) && decide rowD) ||
        (decide (x.instr = .rrel a) && (e.map (·.d)).getD false)
      let requests (q : Packet) : Prop := NextWith (exec .memAccessComplete s) fun t => waits t ∧ SameMemory s t ∧ ∃ rq,
        t.requests = s1.requests ++ [{ core := k, access := x.id, packet := { q with reqid := rq }, due := s1.board.micros + 2 * q.timeout }]
      let first := s1.epochs.findIdx? fun e => e.core == k && e.seg == v / 2 ^ 28 && e.st != .releasing
      (p.job = BitVec.ofNat 12 g.job ∧ p.drank = BitVec.ofNat 12 g.rank ∧ p.dpart = BitVec.ofNat 3 r.part ∧ p.tag = x.tag ∧
        p.d = x.opnds.dAll ∧ p.sdv = L.cmd.sdv ∧ p.va = BitVec.ofNat 57 (g.base + v % 2 ^ 28) ∧ p.tmo = BitVec.ofNat 10 g.tmo ∧
        SameMemory s s1) ∧
      (x.instr = .rld a → (noRoute x.opnds.dAll → dmark) ∧ (¬ noRoute x.opnds.dAll → requests p)) ∧
      (x.instr = .rat a → (noRoute x.opnds.dAll → dmark) ∧
        (¬ noRoute x.opnds.dAll → (s1.requests.filter fun y => y.core == k && y.packet.ptype == 0x0A).length < 256 →
          requests (p.withOperands x)) ∧
        (¬ noRoute x.opnds.dAll → 256 ≤ (s1.requests.filter fun y => y.core == k && y.packet.ptype == 0x0A).length →
          exec .memAccessComplete s = .next s1)) ∧
      (x.instr = .rred a → g.win = true → (noRoute x.opnds.dAll → dmark) ∧
        (¬ noRoute x.opnds.dAll → exec .memAccessComplete s = .next (s1.sendWrite k (p.contribution (x.opnds.val 1)) x.id))) ∧
      (first = none →
        (x.instr = .rst a ∨ x.instr = .rrel a ∨ (x.instr = .rred a ∧ g.win = false) →
          (noRoute (d none) → dmark) ∧ (¬ noRoute (d none) → exec .memAccessComplete s = .next (failed s1 k x 0x04 0x70))) ∧
        (x.instr = .rcopen a → (noRoute x.opnds.dAll → dmark) ∧
          (¬ noRoute x.opnds.dAll → s1.freeCid (L.part.getD 0) p.drank.toNat = none → exec .memAccessComplete s = .next s1) ∧
          (∀ c, ¬ noRoute x.opnds.dAll → s1.freeCid (L.part.getD 0) p.drank.toNat = some c → NextWith (exec .memAccessComplete s) fun t =>
            let gen := Tab.get 0 s1.gens (genKey (L.part.getD 0) p.drank.toNat c) + 1
            let opening : Epoch := { core := k, seg := v / 2 ^ 28, part := L.part.getD 0, hdr := { p with cid := BitVec.ofNat 8 c, gen := gen }
                                     due := s1.board.micros + 2 * p.timeout, openAcc := some x.id }
            waits t ∧ SameMemory s t ∧ Tab.get 0 t.gens (genKey (L.part.getD 0) p.drank.toNat c) = gen ∧
            t.epochs = s1.epochs ++ [opening]))) ∧
      ∀ i e, first = some i → s1.epochs[i]? = some e →
        x.instr = .rst a ∨ x.instr = .rrel a ∨ x.instr = .rcopen a ∨ (x.instr = .rred a ∧ g.win = false) →
        (e.relAcc ≠ none → exec .memAccessComplete s = .next s1) ∧
        (e.relAcc = none → e.st = .failed → x.instr = .rst a ∨ x.instr = .rred a →
          exec .memAccessComplete s = .next (failed s1 k x 0x0D 0x01)) ∧
        (e.relAcc = none → e.st = .failed → x.instr = .rrel a →
          exec .memAccessComplete s = .next (failed { s1 with epochs := s1.epochs.eraseIdx i } k x 0x0D 0x01)) ∧
        (e.relAcc = none → e.st ≠ .failed → noRoute (d (some e)) → dmark) ∧
        (e.relAcc = none → ¬ noRoute (d (some e)) → x.instr = .rcopen a → exec .memAccessComplete s = .next (failed s1 k x 0x04 0x71)) ∧
        (e.relAcc = none → e.st = .opening ∨ e.st = .opened → ¬ noRoute (d (some e)) → x.instr = .rrel a →
          (e.st = .opening → NextWith (exec .memAccessComplete s) fun t => waits t ∧
            t.epochs = s1.epochs.modify i fun e => { e with relAcc := some x.id }) ∧
          (e.st = .opened → exec .memAccessComplete s =
            .next ((s1.onCore k (·.onAccess x.id fun y => { y with stage := .waiting })).startRelease i x.id))) ∧
        (e.relAcc = none → e.st = .opening ∨ e.st = .opened → ¬ noRoute (d (some e)) → x.instr = .rst a ∨ x.instr = .rred a →
          let row := x.instr = .rst a ∧ a.cond.toNat.testBit 2 = true
          let off := x.opnds.val 1 % 2 ^ 28
          let width := if x.instr = .rred a then 4 else bytesOf a
          let bytes := if row then (s1.core k).scrRead off 256 else leBytes (x.opnds.val 1) width
          let op := if x.instr = .rred a then BitVec.ofNat 4 (8 + a.cond.toNat) else p.op
          let q : Packet := { p.withData bytes with
            d := p.d || (decide row && (s1.core k).scrDs off 256), cid := e.hdr.cid, gen := e.hdr.gen, seq := BitVec.ofNat 13 e.writes, op := op }
          (4096 ≤ e.writes → exec .memAccessComplete s = .next (failed s1 k x 0x04 0x72)) ∧
          (e.writes < 4096 → row → (s1.core k).scrPoisoned off 256 = true → exec .memAccessComplete s = .next (failed s1 k x 0x0E 0)) ∧
          (e.writes < 4096 → ¬ (row ∧ (s1.core k).scrPoisoned off 256 = true) →
            (s1.poolTake e.part q.records = none → exec .memAccessComplete s = .next (failed s1 k x 0x08 0)) ∧
            (∀ s2, s1.poolTake e.part q.records = some s2 →
              let s3 := s2.onEpoch i fun e => { e with writes := e.writes + 1, window := e.window ++ [(e.writes, q)], d := e.d || q.d }
              (e.st = .opened → exec .memAccessComplete s = .next (s3.sendWrite k q x.id)) ∧
              (e.st = .opening → NextWith (exec .memAccessComplete s) fun t => waits t ∧ SameMemory s t ∧
                t.epochs = s1.epochs.modify i fun e => { e with writes := e.writes + 1, window := e.window ++ [(e.writes, q)],
                                                                d := e.d || q.d, held := e.held ++ [(e.writes, x.id)] }))))

/-! ## Configuration words -/

open Sys2Proof Machine Claims in
/-- R73 to R76: the words that a core takes while a frame is open, and OPEN and WIDE. Each leaves the FIFO and changes the configuration
of the open frame alone. That CNEXT of the kinds 1, 2 and 3 completes whatever its frame field holds, and drops the tag operation of kind
2, is the model's choice (assumption log 35). -/
def Obligations.ConfigurationWords : Prop :=
  ∀ (s : State) (k : Nat) (rest : List (Nat × Word)), Takes s k rest →
    let s1 := wordTaken s k rest
    let c := s1.core k
    (∀ u, c.wideHalf = none → NextWith (exec (.wide u) s) fun t =>
      OnlyCore s1 t k ∧ t.core k = { c with wideHalf := some u }) ∧
    (∀ (f : BitVec 3) (nin nout : BitVec 6), c.wideHalf = none → nin.toNat ≤ 32 → nout.toNat ≤ 32 → c.openFrame = none →
      c.frameBusy f.toNat = false → NextWith (exec (.frameOpen f nin nout) s) fun t =>
        OnlyCore s1 t k ∧ (t.core k).openFrame = some f.toNat ∧
        (t.core k).frame f.toNat = { status := .opened, nin := nin.toNat, nout := nout.toNat } ∧
        (∀ j, j ≠ f.toNat → (t.core k).frame j = c.frame j) ∧
        (∀ x ∈ (t.core k).elems, frameOf x.1 ≠ f.toNat)) ∧
    (∀ n, c.openFrame = some n →
      (∀ (slot : BitVec 7) (f : BitVec 3) (v : BitVec 20), c.wideHalf = none →
        NextWith (exec (.field slot f v) s) fun t => Edits s1 t k n fun fr =>
          let g := Tab.get {} fr.slots slot.toNat
          { fr with fieldSeen := true
                    slots := Tab.set fr.slots slot.toNat
                      { g with f := g.f.set f.toNat (some v.toNat), wide := if f = 4 then none else g.wide } }) ∧
      (∀ (slot : BitVec 7) (v u : BitVec 20), c.wideHalf = some u → u.toNat < 2 ^ 16 →
        NextWith (exec (.field slot 4 v) s) fun t =>
          Edits (s1.onCore k fun c => { c with wideHalf := none }) t k n fun fr =>
            let g := Tab.get {} fr.slots slot.toNat
            { fr with fieldSeen := true
                      slots := Tab.set fr.slots slot.toNat { g with f := g.f.set 4 (some v.toNat), wide := some (u.setWidth 16) } }) ∧
      (c.wideHalf = none →
        (∀ p, (c.frame n).fieldSeen = false →
          NextWith (exec (.framePlace p) s) fun t => Edits s1 t k n fun fr => { fr with place := p }) ∧
        (∀ (i : BitVec 5) (slot : BitVec 7) (os : BitVec 2), i.toNat < (c.frame n).nin →
          NextWith (exec (.frameBin i slot os) s) fun t => Edits s1 t k n fun fr =>
            { fr with bins := Tab.set fr.bins i.toNat (slot.toNat, os.toNat) }) ∧
        (∀ (o : BitVec 5) (f : BitVec 3) (i : BitVec 5), o.toNat < (c.frame n).nout →
          NextWith (exec (.boutFrameInput o f i) s) fun t => Edits s1 t k n fun fr =>
            { fr with bouts := Tab.set fr.bouts o.toNat (.frame f.toNat i.toNat) }) ∧
        (∀ (o i : BitVec 5), o.toNat < (c.frame n).nout → i.toNat < (c.frame n).nin →
          NextWith (exec (.boutThisInput o i) s) fun t => Edits s1 t k n fun fr =>
            { fr with bouts := Tab.set fr.bouts o.toNat (.here i.toNat) }) ∧
        (∀ (o : BitVec 5) (nd : BitVec 7) (os : BitVec 2), o.toNat < (c.frame n).nout → nd.toNat ≤ 35 → s.coreLost k = false →
          NextWith (exec (.boutNodePort o nd os) s) fun t => Edits s1 t k n fun fr =>
            { fr with bouts := Tab.set fr.bouts o.toNat (.node nd.toNat os.toNat) }) ∧
        (∀ (kind : BitVec 2) (f : BitVec 3) (op : TagOp),
          NextWith (exec (.cnext kind f op) s) fun t => Edits s1 t k n fun fr =>
            { fr with cnext := some (if kind = 0 then .frame f.toNat op else if kind = 1 then .here op else if kind = 2 then .last else .entry) }) ∧
        (∀ (half : Bool) (m : BitVec 16),
          (∀ j < 16, m.getLsbD j = true → (if half then 16 else 0) + j < (c.frame n).nout) →
          NextWith (exec (.cset half m) s) fun t =>
            let lo := if half then 16 else 0
            Edits s1 t k n (fun fr => { fr with cset := ((t.core k).frame n).cset }) ∧
            (∀ j, ((t.core k).frame n).cset.testBit j = if lo ≤ j ∧ j < lo + 16 then m.getLsbD (j - lo) else (c.frame n).cset.testBit j))))

open Sys2Proof Machine Claims in
/-- R74 to R77: the words that fail a launch: a reserved word, a word after WIDE that may not follow it, a word that needs an open frame
without one, a command outside its frame's inputs and outputs, PLACE behind FIELD, CLOSE of a frame that is not open or that lacks its commit
output or a binding (BADCFG), and OPEN of a frame whose elements hold tokens (FRAMEBUSY). That OPEN while any frame is open is BADCFG, and
that a fired set counts as a token, is the model's choice (assumption log 55). -/
def Obligations.ConfigurationFailures : Prop :=
  ∀ (s : State) (k : Nat) (rest : List (Nat × Word)), Takes s k rest →
    let s1 := wordTaken s k rest
    let c := s1.core k
    let bad : Failure := { status := 0x06, detail0 := k * 2 ^ 24 }
    (NextWith (exec .reservedFrameWord s) fun t => Fails s1 t k bad) ∧
    (∀ u, c.wideHalf = some u → ∀ i : Instr,
      (∃ v, i = .wide v) ∨ (∃ f a b, i = .frameOpen f a b) ∨ (∃ f, i = .frameClose f) ∨ (∃ p, i = .framePlace p) ∨
        (∃ n h t, i = .hbind n h t) ∨ (∃ n t, i = .hfree n t) ∨ (∃ a b d, i = .frameBin a b d) ∨ (∃ a b d, i = .boutFrameInput a b d) ∨
        (∃ a b, i = .boutThisInput a b) ∨ (∃ a b d, i = .boutNodePort a b d) ∨ (∃ a b d, i = .cnext a b d) ∨ (∃ a b, i = .cset a b) →
      NextWith (exec i s) fun t => Fails s1 t k bad) ∧
    (c.wideHalf = none → c.openFrame = none → ∀ i : Instr,
      (∃ a b v, i = .field a b v) ∨ (∃ p, i = .framePlace p) ∨ (∃ a b d, i = .frameBin a b d) ∨ (∃ a b d, i = .boutFrameInput a b d) ∨
        (∃ a b, i = .boutThisInput a b) ∨ (∃ a b d, i = .boutNodePort a b d) ∨ (∃ a b, i = .cset a b) ∨
        (∃ a b d, i = .cnext a b d) ∨ (∃ f, i = .frameClose f) →
      NextWith (exec i s) fun t => Fails s1 t k bad) ∧
    (∀ (f : BitVec 3) (nin nout : BitVec 6), c.wideHalf = none → 32 < nin.toNat ∨ 32 < nout.toNat ∨ c.openFrame ≠ none →
      NextWith (exec (.frameOpen f nin nout) s) fun t => Fails s1 t k bad) ∧
    (∀ (f : BitVec 3) (nin nout : BitVec 6), c.wideHalf = none → nin.toNat ≤ 32 → nout.toNat ≤ 32 → c.openFrame = none →
      c.frameBusy f.toNat = true → NextWith (exec (.frameOpen f nin nout) s) fun t =>
        Fails s1 t k { status := 0x07, detail0 := k * 2 ^ 24 + f.toNat }) ∧
    (∀ n, c.wideHalf = none → c.openFrame = some n → ∀ i : Instr,
      (∃ a slot os, i = .frameBin a slot os ∧ (c.frame n).nin ≤ a.toNat) ∨
        (∃ o f a, i = .boutFrameInput o f a ∧ (c.frame n).nout ≤ o.toNat) ∨
        (∃ o a, i = .boutThisInput o a ∧ ((c.frame n).nout ≤ o.toNat ∨ (c.frame n).nin ≤ a.toNat)) ∨
        (∃ o nd os, i = .boutNodePort o nd os ∧ ((c.frame n).nout ≤ o.toNat ∨ 35 < nd.toNat ∨ s.coreLost k = true)) ∨
        (∃ half m, i = .cset half m ∧ ∃ j < 16, m.getLsbD j = true ∧ (c.frame n).nout ≤ (if half then 16 else 0) + j) ∨
        (∃ p, i = .framePlace p ∧ (c.frame n).fieldSeen = true) ∨
        (∃ f, i = .frameClose f ∧ (f.toNat ≠ n ∨ (c.frame n).cnext = none ∨ ∃ o < (c.frame n).nout, Tab.find? (c.frame n).bouts o = none)) →
      NextWith (exec i s) fun t => Fails s1 t k bad)

open Sys2Proof Machine Claims in
/-- R70, R76, R78: CLOSE configures a frame's elements where every load check passes, and fails the launch with BLOCKED, naming the first
element, where one does not; HBIND writes a node's handler entry once the image is read, checked and signed, and HFREE clears one. That a
mapped-out element is BLOCKED at CLOSE, behind those of the load checks (assumption log 77), and the order among elements that share a
breach (assumption logs 56 and 123), are the model's choice. -/
def Obligations.CloseAndHandlers : Prop :=
  ∀ (s : State) (k : Nat) (rest : List (Nat × Word)), Takes s k rest →
    let s1 := wordTaken s k rest
    let c := s1.core k
    c.wideHalf = none →
    (∀ f : BitVec 3, c.openFrame = some f.toNat →
      let fr := c.frame f.toNat
      let ps := fr.slots.map fun (x : Nat × SlotCfg) => fr.placed f.toNat x.1 x.2
      let blocked := fr.blockedElems f.toNat ps ++ (ps.filter fun p => s1.elemLost k p.elem).map (·.elem)
      fr.cnext ≠ none → (∀ o < fr.nout, Tab.find? fr.bouts o ≠ none) →
      (∀ m ∈ cnextLevel fr.cnext, ∀ x ∈ ps.flatMap Placed.levels, levelsClash m x = false) →
      (blocked = [] → Tab.wf fr.slots = true → NextWith (exec (.frameClose f) s) fun t =>
        OnlyCore s1 t k ∧ (t.core k).openFrame = none ∧ ((t.core k).frame f.toNat).status = .closed ∧
        ((t.core k).frame f.toNat).acceptFrom = some (s.now + 1) ∧
        (∀ p ∈ ps, t.elem k p.elem = { instr := p.instr, frame := f.toNat, slot := p.slot }) ∧
        (∀ e, (∀ p ∈ ps, p.elem ≠ e) → t.elem k e = s1.elem k e)) ∧
      (∀ e es, blocked = e :: es → NextWith (exec (.frameClose f) s) fun t =>
        ∃ l L, s1.coreLaunch k = some (l, L) ∧ (t.launch l).st = .failing ∧
          (t.launch l).failure = some { status := 0x0E, detail0 := k * 2 ^ 24 + e % 32 * 2 ^ 16 + e / 32 * 2 ^ 8, code := 0x0A,
                                        score := k, sx := e % 32, sy := e / 32 })) ∧
    (∀ (n ty : BitVec 6), (s1.bindable k n.toNat).isSome → NextWith (exec (.hfree n ty) s) fun t =>
      OnlyCore s1 t k ∧ Tab.find? (t.node k n.toNat).handlers ty.toNat = none ∧
      (∀ j, j ≠ ty.toNat → Tab.find? (t.node k n.toNat).handlers j = Tab.find? (s1.node k n.toNat).handlers j)) ∧
    (∀ (n ty : BitVec 6) (h : BitVec 14), s1.bindable k n.toNat = none → NextWith (exec (.hbind n ty h) s) fun t =>
      Fails s1 t k { status := 0x08, detail0 := k * 2 ^ 24 + n.toNat }) ∧
    (∀ (n ty : BitVec 6) (h : BitVec 14) (kind : NodeKind) (li : Nat) (l : Launch) (hb b : List Byte) (s2 s3 s4 : State) (hd : Handler),
      let va := l.cmd.hbase.toNat + 256 * h.toNat
      let w (i : Nat) : Nat := wordAt (wordsOfBytes hb) i
      s1.bindable k n.toNat = some kind → s1.coreLaunch k = some (li, l) →
      s1.sysRead (some (k / 4)) l.asid va 16 clsImage = (.ok hb, s2) →
      imageHeaderOk (wordsOfBytes hb) = true → bit (w 2) 0 = true → 1 ≤ w 2 / 2 ^ 16 → w 2 / 2 ^ 16 ≤ 32 →
      bits (w 2) 4 2 = kindCode kind →
      s2.sysRead (some (k / 4)) l.asid (va + 16) (4 * (w 2 / 2 ^ 16)) clsImage = (.ok b, s3) →
      s3.imageLocked (some (k / 4)) li va (16 + 4 * (w 2 / 2 ^ 16)) = (.ok (), s4) →
      handlerOf l k n.toNat kind va (wordsOfBytes b) = some hd →
      NextWith (exec (.hbind n ty h) s) fun t => Tab.find? (t.node k n.toNat).handlers ty.toNat = some hd)

/-! ## Sequencers -/

open Sys2Proof Machine Claims in
/-- R108, R110 to R113: the scalar instructions. The result of A and B goes to xd alone, x0 reads zero and takes no write; the next
instruction issues after the stall time; every other register of the sequencer and all other state stay. -/
def Sys2Proof.Claims.SequencerArithmetic : Prop :=
  ∀ (s : State) (c : Nat) (l : Nat × Launch) (stall : BitVec 3) (xd xa xb : BitVec 5), SeqRuns s c l → GoodPc (s.seq c) ((s.seq c).pc + 4) →
    let q := s.seq c
    let a := q.reg xa
    let done (i : Instr) (v : DWord) (lat : Nat) : Prop := NextWith (exec i s) fun t =>
      Retires s t c stall.toNat (q.pc + 4) xd v ∧ Readable s t c xd lat true
    (RegsReady s c [xa, xb] →
      let b := q.reg xb
      let n := b.toNat % 64
      done (.seqAdd stall xd xa xb) (a + b) 1 ∧ done (.seqSub stall xd xa xb) (a - b) 1 ∧ done (.seqAnd stall xd xa xb) (a &&& b) 1 ∧
      done (.seqOr stall xd xa xb) (a ||| b) 1 ∧ done (.seqXor stall xd xa xb) (a ^^^ b) 1 ∧
      done (.seqShl stall xd xa xb) (BitVec.ofNat 64 (a.toNat * 2 ^ n)) 1 ∧ done (.seqShr stall xd xa xb) (BitVec.ofNat 64 (a.toNat / 2 ^ n)) 1 ∧
      done (.seqSra stall xd xa xb) (BitVec.ofInt 64 (a.toInt / (2 ^ n : Nat))) 1 ∧ done (.seqMul stall xd xa xb) (a * b) 3 ∧
      done (.seqSlt stall xd xa xb) (if a.toInt < b.toInt then 1 else 0) 1 ∧
      done (.seqSltu stall xd xa xb) (if a.toNat < b.toNat then 1 else 0) 1) ∧
    (RegsReady s c [xa] → ∀ (imm : BitVec 12) (sh : BitVec 6),
      let b : DWord := BitVec.ofInt 64 imm.toInt
      done (.seqAddi stall xd xa imm) (a + b) 1 ∧ done (.seqAndi stall xd xa imm) (a &&& b) 1 ∧ done (.seqOri stall xd xa imm) (a ||| b) 1 ∧
      done (.seqXori stall xd xa imm) (a ^^^ b) 1 ∧
      done (.seqShli stall xd xa sh) (BitVec.ofNat 64 (a.toNat * 2 ^ sh.toNat)) 1 ∧
      done (.seqShri stall xd xa sh) (BitVec.ofNat 64 (a.toNat / 2 ^ sh.toNat)) 1 ∧
      done (.seqSrai stall xd xa sh) (BitVec.ofInt 64 (a.toInt / (2 ^ sh.toNat : Nat))) 1 ∧
      done (.seqSlti stall xd xa imm) (if a.toInt < b.toInt then 1 else 0) 1) ∧
    (∀ imm : BitVec 17, done (.seqLui stall xd imm) (BitVec.ofInt 64 (imm.toInt * 4096)) 1)

open Sys2Proof Machine Claims in
/-- R112: the interlock. An instruction that reads a register whose result is not ready does not issue, whatever its stall field: its
sequencer keeps its pc and its registers; a hold behind a producer of fixed latency counts SEQ.SHORTSTALL once, and a hold behind none of
fixed latency does not. A register that is ready, and x0, hold nothing up: the arithmetic above says so. -/
def Sys2Proof.Claims.SequencerInterlock : Prop :=
  ∀ (s : State) (c : Nat) (l : Nat × Launch) (stall : BitVec 3) (xd xa xb : BitVec 5) (imm : BitVec 12) (sh : BitVec 6) (ap : BitVec 4)
    (port : BitVec 6) (num : BitVec 8), SeqRuns s c l → xa ≠ 0 →
    let q := s.seq c
    let held (i : Instr) : Prop := NextWith (exec i s) fun t => OnlySeq s t c ∧
      t.seq c = { q with issueFrom := (t.seq c).issueFrom, shortstall := (t.seq c).shortstall } ∧
      ((Tab.get {} q.ready xa.toNat).fixed = true → (t.seq c).shortstall = q.shortstall + 1 ∧ s.now < (t.seq c).issueFrom) ∧
      ((∀ y ∈ [xa, xb], y ≠ 0 → (Tab.get {} q.ready y.toNat).fixed = true → (Tab.get {} q.ready y.toNat).from_ ≤ q.issueFrom) →
        (t.seq c).shortstall = q.shortstall)
    s.now < (Tab.get {} q.ready xa.toNat).from_ →
      (∀ p ∈ [(xa, xb), (xb, xa)], ∀ i ∈ [Instr.seqAdd stall xd p.1 p.2, .seqSub stall xd p.1 p.2, .seqAnd stall xd p.1 p.2,
        .seqOr stall xd p.1 p.2, .seqXor stall xd p.1 p.2, .seqShl stall xd p.1 p.2, .seqShr stall xd p.1 p.2, .seqSra stall xd p.1 p.2,
        .seqMul stall xd p.1 p.2, .seqSlt stall xd p.1 p.2, .seqSltu stall xd p.1 p.2, .seqBeq stall p.1 p.2 imm,
        .seqBne stall p.1 p.2 imm, .seqBlt stall p.1 p.2 imm, .seqBge stall p.1 p.2 imm, .seqBltu stall p.1 p.2 imm,
        .seqBgeu stall p.1 p.2 imm, .seqSd stall p.1 p.2 imm, .seqSw stall p.1 p.2 imm, .cwait stall p.1 p.2, .cosig stall p.1 p.2,
        .cosigAdd stall p.1 p.2], held i) ∧
      ∀ i ∈ [Instr.seqAddi stall xd xa imm, .seqAndi stall xd xa imm, .seqOri stall xd xa imm, .seqXori stall xd xa imm,
        .seqShli stall xd xa sh, .seqShri stall xd xa sh, .seqSrai stall xd xa sh, .seqSlti stall xd xa imm, .seqJalr stall xd xa imm,
        .seqLd stall xd xa imm, .seqLw stall xd xa imm, .sbind stall xa ap port, .sgo stall xa ap, .bpush stall xa, .swr stall xa num],
        held i

open Sys2Proof Machine Claims in
/-- R108, R110 to R113: the scalar arithmetic of the sequencer, and the interlock before it. -/
def Obligations.SequencerIssueArithmetic : Prop := SequencerArithmetic ∧ SequencerInterlock

open Sys2Proof Machine Claims in
/-- R110, R116: branches and jumps. A taken branch goes to pc + 4 × OFS, `jal` to pc + 4 × IMM with pc + 4 in xd, `jalr` to a + SignExt(IMM)
with pc + 4 in xd; a branch or jump that is taken leaves at least two cycles. -/
def Obligations.SequencerBranches : Prop :=
  ∀ (s : State) (c : Nat) (l : Nat × Launch) (stall : BitVec 3) (xd xa xb : BitVec 5), SeqRuns s c l →
    let q := s.seq c
    let a := q.reg xa
    let b := q.reg xb
    let next : Int := q.pc + 4
    (RegsReady s c [xa, xb] → ∀ ofs : BitVec 12,
      ∀ f ∈ [(Instr.seqBeq stall xa xb ofs, decide (a = b)), (.seqBne stall xa xb ofs, decide (a ≠ b)),
             (.seqBlt stall xa xb ofs, decide (a.toInt < b.toInt)), (.seqBge stall xa xb ofs, decide (b.toInt ≤ a.toInt)),
             (.seqBltu stall xa xb ofs, decide (a.toNat < b.toNat)), (.seqBgeu stall xa xb ofs, decide (b.toNat ≤ a.toNat))],
        (f.2 = true → GoodPc q (q.pc + 4 * ofs.toInt) →
          NextWith (exec f.1 s) fun t => Retires s t c (max stall.toNat 2) (q.pc + 4 * ofs.toInt) 0 0) ∧
        (f.2 = false → GoodPc q next → NextWith (exec f.1 s) fun t => Retires s t c stall.toNat next 0 0)) ∧
    (∀ imm : BitVec 17, GoodPc q (q.pc + 4 * imm.toInt) →
      NextWith (exec (.seqJal stall xd imm) s) fun t =>
        Retires s t c (max stall.toNat 2) (q.pc + 4 * imm.toInt) xd (BitVec.ofNat 64 (q.pc + 4)) ∧ Readable s t c xd 1 true) ∧
    (RegsReady s c [xa] → ∀ imm : BitVec 12, GoodPc q (a + BitVec.ofInt 64 imm.toInt).toNat →
      NextWith (exec (.seqJalr stall xd xa imm) s) fun t =>
        Retires s t c (max stall.toNat 2) (a + BitVec.ofInt 64 imm.toInt).toNat xd (BitVec.ofNat 64 (q.pc + 4)) ∧
        Readable s t c xd 1 true)

open Sys2Proof Machine Claims in
/-- R97, R116, R127, R129, R133: what ends a program with BADSEQ: a jump or a taken branch to a pc that R116 does not allow, a program that
runs on past 0xFFFC, `eret` outside a trap, a word that no instruction has, and a system register that does not exist. The launch fails with
the pc in DETAIL0, and the sequencer stops; that it is the pc of the instruction that issued is the model's choice (assumption log 144). -/
def Sys2Proof.Claims.SequencerFailures : Prop :=
  ∀ (s : State) (c : Nat) (l : Nat × Launch) (stall : BitVec 3) (x : BitVec 5), SeqRuns s c l → (s.seq c).ranNative = true →
    let q := s.seq c
    (NextWith (exec .illegalSequencerInstruction s) fun t => SeqFails s t c 0x09 q.pc) ∧
    (∀ imm : BitVec 17, q.pc % 4 = 0 → ((q.pc + 4 * imm.toInt : Int) < 0 ∨ 0x10000 ≤ (q.pc + 4 * imm.toInt : Int)) →
      NextWith (exec (.seqJal stall 0 imm) s) fun t => SeqFails s t c 0x09 q.pc) ∧
    (RegsReady s c [x] → (q.reg x).toNat % 4 ≠ 0 ∨ 0x10000 ≤ (q.reg x).toNat →
      NextWith (exec (.seqJalr stall 0 x 0) s) fun t => SeqFails s t c 0x09 q.pc) ∧
    (q.intrap = false → NextWith (exec (.eret stall) s) fun t => SeqFails s t c 0x09 q.pc) ∧
    (∀ n : BitVec 8, 0x0F < n.toNat → NextWith (exec (.srd stall x n) s) fun t => SeqFails s t c 0x09 q.pc) ∧
    (∀ (xa xb : BitVec 5) (ofs : BitVec 12), RegsReady s c [xa, xb] →
      let a := q.reg xa
      let b := q.reg xb
      ∀ f ∈ [(Instr.seqBeq stall xa xb ofs, decide (a = b)), (.seqBne stall xa xb ofs, decide (a ≠ b)),
             (.seqBlt stall xa xb ofs, decide (a.toInt < b.toInt)), (.seqBge stall xa xb ofs, decide (b.toInt ≤ a.toInt)),
             (.seqBltu stall xa xb ofs, decide (a.toNat < b.toNat)), (.seqBgeu stall xa xb ofs, decide (b.toNat ≤ a.toNat))],
        (f.2 = true → q.pc % 4 = 0 → ((q.pc + 4 * ofs.toInt : Int) < 0 ∨ 0x10000 ≤ (q.pc + 4 * ofs.toInt : Int)) →
          NextWith (exec f.1 s) fun t => SeqFails s t c 0x09 q.pc) ∧
        (f.2 = false → q.pc = 0xFFFC → NextWith (exec f.1 s) fun t => SeqFails s t c 0x09 q.pc)) ∧
    (∀ (xd xa xb : BitVec 5) (imm : BitVec 12) (sh : BitVec 6) (u : BitVec 17), RegsReady s c [xa, xb] → q.pc = 0xFFFC →
      ∀ i ∈ [Instr.seqAdd stall xd xa xb, .seqSub stall xd xa xb, .seqAnd stall xd xa xb, .seqOr stall xd xa xb, .seqXor stall xd xa xb,
             .seqShl stall xd xa xb, .seqShr stall xd xa xb, .seqSra stall xd xa xb, .seqMul stall xd xa xb, .seqSlt stall xd xa xb,
             .seqSltu stall xd xa xb, .seqAddi stall xd xa imm, .seqAndi stall xd xa imm, .seqOri stall xd xa imm, .seqXori stall xd xa imm,
             .seqShli stall xd xa sh, .seqShri stall xd xa sh, .seqSrai stall xd xa sh, .seqSlti stall xd xa imm, .seqLui stall xd u],
        NextWith (exec i s) fun t => (t.seq c).mode = .stopped ∧ SameMemory s t ∧ (t.launch l.1).st = .failing ∧
          (t.launch l.1).failure = some { status := 0x09, detail0 := 0xFFFC })

open Sys2Proof Machine Claims in
/-- R109, R127, R128: taking an exception at a sequencer and returning from it. `trap` saves pc + 4 in EPC and its code in ECAUSE, sets
INTRAP and goes to TVEC; a pending CTXFAULT saves the pc of the instruction that it comes before, or that waits, and the context in EVAL;
`eret` clears INTRAP and goes to EPC. A trap with TVEC 0 or inside a trap fails the launch with SEQTRAP. The gap of max(s, 2) cycles after
`trap` and `eret`, and none after a CTXFAULT, is the model's choice (assumption log 124), as is that a CTXFAULT interrupts a waiting `halt`
(assumption log 28). -/
def Sys2Proof.Claims.SequencerTraps : Prop :=
  ∀ (s : State) (c : Nat) (l : Nat × Launch) (stall : BitVec 3) (code : BitVec 8),
    let q := s.seq c
    (SeqRuns s c l → q.tvec ≠ 0 → q.intrap = false → q.tvec.toNat % 4 = 0 → q.tvec.toNat < 0x10000 →
      NextWith (exec (.seqTrap stall code) s) fun t => OnlySeq s t c ∧
        t.seq c = { q with epc := BitVec.ofNat 64 (q.pc + 4), ecause := BitVec.ofNat 64 (code.toNat * 256), eval := 0, intrap := true
                           pc := q.tvec.toNat, issueFrom := s.now + 1 + max stall.toNat 2 }) ∧
    (SeqRuns s c l → q.tvec = 0 ∨ q.intrap = true →
      NextWith (exec (.seqTrap stall code) s) fun t => (t.launch l.1).st = .failing ∧
        (t.launch l.1).failure = some { status := 0x0D, detail0 := code.toNat } ∧ (t.seq c).mode = .stopped) ∧
    (SeqRuns s c l → q.intrap = true → q.epc.toNat % 4 = 0 → q.epc.toNat < 0x10000 →
      NextWith (exec (.eret stall) s) fun t => OnlySeq s t c ∧
        t.seq c = { q with intrap := false, pc := q.epc.toNat, issueFrom := s.now + 1 + max stall.toNat 2 }) ∧
    (∀ ctx rest, s.agent = .seq c → c < 16 → s.seqLaunch c = some l → l.2.st = .running → q.mode = .run ∨ q.mode = .wait →
      q.ctxfaults = ctx :: rest → q.tvec ≠ 0 → q.intrap = false → q.tvec.toNat % 4 = 0 → q.tvec.toNat < 0x10000 →
      NextWith (exec .ctxfaultTake s) fun t => OnlySeq s t c ∧
        t.seq c = { q with epc := BitVec.ofNat 64 q.pc, ecause := 1, eval := BitVec.ofNat 64 ctx, intrap := true, pc := q.tvec.toNat
                           mode := .run, waitFor := .none, ctxfaults := rest })

open Sys2Proof Machine Claims in
/-- R97, R109, R116, R127 to R129, R133: how a control program fails with BADSEQ or SEQTRAP, how it traps, and how it returns. -/
def Obligations.SequencerFailuresTraps : Prop := SequencerFailures ∧ SequencerTraps

open Sys2Proof Machine Claims in
/-- R114, R115: loads and stores of the sequencer at an aligned address of an OPEN page. A load gives the little-endian value, zero-
extended; a store changes exactly its bytes and no full/empty state (R245). A misaligned address, and a store to a page of the KV range that
another queue owns or that is shared (R357), fail the launch with SEQFAULT. -/
def Obligations.SequencerLoadsStores : Prop :=
  ∀ (s : State) (c : Nat) (l : Nat × Launch) (stall : BitVec 3) (xd xa : BitVec 5) (imm : BitVec 12), SeqRuns s c l →
    GoodPc (s.seq c) ((s.seq c).pc + 4) →
    let q := s.seq c
    let va := (q.reg xa + BitVec.ofInt 64 imm.toInt).toNat
    (∀ f ∈ [(Instr.seqLd stall xd xa imm, 8), (.seqLw stall xd xa imm, 4)], RegsReady s c [xa] → va % f.2 = 0 → ∀ p s2,
      (gated s c [xa]).translateAll none (some c) l.2.asid [(va, f.2)] = (some [p], s2) →
      s2.sysCheck [p] false clsOpen = none → (p.t.host = false → Tab.find? s.lines (p.t.pa / 128) = none) →
      NextWith (exec f.1 s) fun t =>
        (∀ y, (t.seq c).reg y =
          if y ≠ 0 ∧ y = xd then BitVec.ofNat 64 (numberAt (if p.t.host then s.hostMem else s.hbm) p.t.pa f.2) else q.reg y) ∧
        (t.seq c).issueFrom = s.now + 1 + stall.toNat ∧ (q.ranNative = true → (t.seq c).pc = q.pc + 4) ∧ SameMemory s t) ∧
    (∀ f ∈ [(Instr.seqSd stall xd xa imm, 8), (.seqSw stall xd xa imm, 4)], RegsReady s c [xd, xa] → va % f.2 = 0 → ∀ p s2,
      (gated s c [xd, xa]).translateAll none (some c) l.2.asid [(va, f.2)] = (some [p], s2) →
      kvForeign (some l.2.q) p.t = false → s2.sysCheck [p] true clsOpen = none →
      (p.t.host = false → Tab.find? s.lines (p.t.pa / 128) = none) →
      NextWith (exec f.1 s) fun t =>
        let put (m : List Host.Cell) (b : Nat) : Byte :=
          if p.t.pa ≤ b ∧ b < p.t.pa + f.2 then BitVec.ofNat 8 ((q.reg xd).toNat / 256 ^ (b - p.t.pa)) else byteAt m b
        (∀ b, byteAt t.hostMem b = if p.t.host then put s.hostMem b else byteAt s.hostMem b) ∧
        (∀ b, byteAt t.hbm b = if p.t.host then byteAt s.hbm b else put s.hbm b) ∧
        (∀ j b, byteAt (t.core j).cells b = byteAt (s.core j).cells b) ∧ t.fullWords = s.fullWords ∧
        (∀ y, (t.seq c).reg y = q.reg y) ∧ (q.ranNative = true → (t.seq c).pc = q.pc + 4)) ∧
    (∀ f ∈ [(Instr.seqSd stall xd xa imm, 8), (.seqSw stall xd xa imm, 4)], RegsReady s c [xd, xa] → va % f.2 = 0 → ∀ p s2,
      (gated s c [xd, xa]).translateAll none (some c) l.2.asid [(va, f.2)] = (some [p], s2) → kvForeign (some l.2.q) p.t = true →
      NextWith (exec f.1 s) fun t => (t.launch l.1).st = .failing ∧ (t.seq c).mode = .stopped ∧ SameMemory s t ∧
        (t.launch l.1).failure = some { status := 0x0C, detail0 := 0x04, detail1 := va, code := 0x04, va := some va }) ∧
    (∀ f ∈ [(Instr.seqLd stall xd xa imm, [xa], 8), (.seqLw stall xd xa imm, [xa], 4), (.seqSd stall xd xa imm, [xd, xa], 8),
            (.seqSw stall xd xa imm, [xd, xa], 4)], RegsReady s c f.2.1 → va % f.2.2 ≠ 0 →
      NextWith (exec f.1 s) fun t => (t.launch l.1).st = .failing ∧ (t.seq c).mode = .stopped ∧ SameMemory s t ∧
        (t.launch l.1).failure = some { status := 0x0C, detail0 := 0x01, detail1 := va, code := 0x01, va := some va })

open Sys2Proof Machine Claims in
/-- R118 to R120, R234: the stream instructions and the emission of a stream's next element. `sbind` stores the descriptor of a FREE or BOUND
register, `sgo` starts its stream with the tag named, `swait` gives the token count of the latest run, and what R119 refuses fails the launch with
BADSTREAM. Each element leaves with the words at its address, in the local window or in translated memory, the stream's tag and the D bits
read (R120, R234); an element that cannot be read leaves an F token that ends the stream. -/
def Obligations.SequencerStreams : Prop :=
  ∀ (s : State) (c : Nat) (l : Nat × Launch), 
    (∀ (stall : BitVec 3) (xa xd : BitVec 5) (ap : BitVec 4) (port : BitVec 6), SeqRuns s c l → GoodPc (s.seq c) ((s.seq c).pc + 4) →
      let q := s.seq c
      let r := q.ap ap.toNat
      (∀ bs s2 d, RegsReady s c [xa] → r.st ≠ .running → (q.reg xa).toNat % 64 = 0 →
        (gated s c [xa]).sysRead (some c) l.2.asid (q.reg xa).toNat 64 clsOpen = (.ok bs, s2) → descrOf (wordsOfBytes bs) = some d →
        NextWith (exec (.sbind stall xa ap port) s) fun t =>
          (t.seq c).ap ap.toNat = { r with descr := d, port := port.toNat, st := .bound } ∧
          (∀ j, j ≠ ap.toNat → (t.seq c).ap j = q.ap j) ∧ (q.ranNative = true → (t.seq c).pc = q.pc + 4)) ∧
      (RegsReady s c [xa] → r.st = .bound → q.phase ≠ 0 → (∀ x ∈ q.aps, x.2.st = .running → x.2.port ≠ r.port) →
        let tag : Tag := if xa = 0 then r.descr.tag else q.reg xa
        streamTagOk tag r.descr.tagOp = true →
        NextWith (exec (.sgo stall xa ap) s) fun t =>
          (t.seq c).ap ap.toNat = { r with st := .running, pos := 0, tag := tag, count := 0, parked := false, nextEmit := s.now
                                           tile := none, lines := [] } ∧
          (∀ j, j ≠ ap.toNat → (t.seq c).ap j = q.ap j) ∧ (q.ranNative = true → (t.seq c).pc = q.pc + 4)) ∧
      (r.st ≠ .running → NextWith (exec (.swait stall xd ap) s) fun t =>
        Retires s t c stall.toNat (q.pc + 4) xd (BitVec.ofNat 64 r.count)) ∧
      (RegsReady s c [xa] → r.st ≠ .running →
        (q.reg xa).toNat % 64 ≠ 0 ∨
          (∃ f s2, (gated s c [xa]).sysRead (some c) l.2.asid (q.reg xa).toNat 64 clsOpen = (.error f, s2)) ∨
          (∃ bs s2, (gated s c [xa]).sysRead (some c) l.2.asid (q.reg xa).toNat 64 clsOpen = (.ok bs, s2) ∧ descrOf (wordsOfBytes bs) = none) →
        NextWith (exec (.sbind stall xa ap port) s) fun t => SeqFails s t c 0x0B q.pc) ∧
      (RegsReady s c [xa] → r.st = .free ∨ (r.st = .bound ∧ (q.phase = 0 ∨
          streamTagOk (if xa = 0 then r.descr.tag else q.reg xa) r.descr.tagOp = false)) →
        NextWith (exec (.sgo stall xa ap) s) fun t => SeqFails s t c 0x0B q.pc)) ∧
    (∀ ap, s.agent = .ap c ap → c < 16 → ap < 16 → s.seqLaunch c = some l → l.2.st = .running →
      let r := (s.seq c).ap ap
      let k := 4 * c + r.port / 16
      let va := r.descr.addr r.pos
      let off := va - windowBase
      let n := r.descr.size
      let leaves (t : State) (p : Msg → Prop) : Prop := ∃ m, (t.core k).transit = (s.core k).transit ++ [m] ∧ m.ready = s.now + 1 ∧
        m.dest = (if r.descr.kind = 0 then Dest.input r.descr.frame r.descr.index else .node r.descr.index r.descr.os) ∧ p m.msg
      let gives (t : State) (lane : Nat → Nat) (d : Bool) : Prop :=
        leaves t (fun m => match m with
          | .narrow x _ => r.descr.wide = false ∧ x.val = BitVec.ofNat 32 (lane 0) ∧ x.tag = r.tag ∧ x.d = d ∧ x.origin = none ∧
              x.ma = r.descr.ma
          | .wide w => r.descr.wide = true ∧ w.tag = r.tag ∧ w.d = d ∧ w.f = false ∧ ∀ j < 64, w.lane j = BitVec.ofNat 32 (lane j)) ∧
        (let r' := (t.seq c).ap ap
         if r.descr.total ≤ r.pos + 1 then r'.st = .bound ∧ r'.count = r.pos + 1
         else r'.st = .running ∧ r'.pos = r.pos + 1 ∧ r'.nextEmit = s.now + 1) ∧
        SameMemory s t
      r.st = .running → r.parked = false → r.nextEmit ≤ s.now →
      (r.descr.src = 1 → windowBase ≤ va → off + n ≤ (s.core k).scrBytes → (∀ t ∈ r.tile, ((s.core k).tile t).st ≠ .empty) →
        (∀ t ∈ (s.core k).tilesOf off n, t.2.st = .ready) → (s.core k).scrPoisoned off n = false →
        NextWith (exec .streamEmit s) fun t =>
          gives t (fun j => numberAt (s.core k).cells (off + 4 * j) 4) ((wordsTouched off n).any (s.core k).scrD)) ∧
      (∀ ps s2, r.descr.src ≠ 1 → r.lines = [] → s.translateAll none (some c) l.2.asid (pageParts va n) = (some ps, s2) →
        (∀ p ∈ ps, p.t.r = true ∧ (p.t.cls = 0 ∨ (p.t.cls = 2 ∧ l.2.sdom? = some p.t.sdom))) →
        (∀ p ∈ ps, ∀ p' ∈ ps, p.t.cls = p'.t.cls ∧ p.t.sdom = p'.t.sdom) →
        (∀ p ∈ ps, ∀ i ∈ linesTouched p.t.pa p.n, s2.physFault { p.t with pa := 128 * i } 128 false = none) →
        NextWith (exec .streamEmit s) fun t =>
          gives t (fun j => heldNumber s ps / 2 ^ (32 * j)) (ps.any fun p => p.t.cls == 2)) ∧
      (∀ code detail m s2, r.descr.src ≠ 1 → s.streamMem c l.2 r.lines va n = ((.bad code detail, m), s2) →
        detail ≠ 0 ∨ (code ≠ 0x03 ∧ code ≠ 0x04) ∨ l.2.cmd.kpol = true →
        NextWith (exec .streamEmit s) fun t =>
          leaves t (fun m => match m with
            | .narrow x _ => r.descr.wide = false ∧ x.val.toNat / 2 ^ 24 = code % 2 ^ 8 ∧ x.val.toNat % 2 ^ 8 = detail % 2 ^ 8 ∧ x.tag = r.tag ∧
                x.origin = some r.tag
            | .wide w => r.descr.wide = true ∧ w.tag = r.tag ∧ w.f = true ∧ w.origin = r.tag) ∧
          ((t.seq c).ap ap).st = .bound ∧ ((t.seq c).ap ap).count = r.pos + 1 ∧ SameMemory s t))

open Sys2Proof Machine Claims in
/-- R122 to R126: pushing blocks, parameters, completion objects and waiting points. -/
def Sys2Proof.Claims.SequencerQueueInstructions : Prop :=
  ∀ (s : State) (c : Nat) (l : Nat × Launch) (stall : BitVec 3) (xd xa xb : BitVec 5), SeqRuns s c l → GoodPc (s.seq c) ((s.seq c).pc + 4) →
    let q := s.seq c
    let goesOn (t : State) : Prop := (t.seq c).mode = .run ∧ (q.ranNative = true → (t.seq c).pc = q.pc + 4) ∧
      ∀ y, (t.seq c).reg y = q.reg y
    let stops (t : State) (w : SeqWait) : Prop := OnlySeq s t c ∧ (t.seq c).mode = .wait ∧ (t.seq c).waitFor = w ∧ (t.seq c).pc = q.pc
    (∀ f : BitVec 3, NextWith (exec (.bframe stall f) s) fun t => Retires (s.onSeq c fun q => { q with bframe := f.toNat }) t c stall.toNat
      (q.pc + 4) 0 0) ∧
    (∀ p ps, q.params = p :: ps → ∀ i ∈ [Instr.qpop stall xd, .qpopNb stall xd], NextWith (exec i s) fun t =>
      Retires (s.onSeq c fun q => { q with params := ps }) t c stall.toNat (q.pc + 4) xd p) ∧
    (q.params = [] → NextWith (exec (.qpopNb stall xd) s) fun t => Retires s t c stall.toNat (q.pc + 4) xd (BitVec.allOnes 64)) ∧
    (q.params = [] → q.chainEnded = true →
      NextWith (exec (.qpop stall xd) s) fun t => Retires s t c stall.toNat (q.pc + 4) xd (BitVec.allOnes 64)) ∧
    (NextWith (exec (.pbar stall xd) s) fun t => stops t (.pbar xd)) ∧
    (NextWith (exec (.pbarFinal stall xd) s) fun t => stops t (.pbarFinal xd)) ∧
    (l.2.isOpen = true → NextWith (exec (.halt stall) s) fun t => stops t .halt) ∧
    (l.2.isOpen = false → (∃ d ∈ l.2.clusters, d ≠ c ∧ (s.seq d).mode ≠ .halted) →
      NextWith (exec (.halt stall) s) fun t => OnlySeq s t c ∧ (t.seq c).mode = .halted) ∧
    (l.2.isOpen = false → (∀ d ∈ l.2.clusters, d ≠ c → (s.seq d).mode = .halted) → (∀ k ∈ l.2.cores, s.wordsTaken k = true) →
      NextWith (exec (.halt stall) s) fun t => ∃ u, OnlySeq s u c ∧ (u.seq c).mode = .halted ∧ t = u.haltLaunch l.1) ∧
    (∀ v s2, RegsReady s c [xa, xb] → (gated s c [xa, xb]).seqRead c (q.reg xa).toNat 8 = (some v, s2) →
      ((q.reg xb).toNat ≤ v → NextWith (exec (.cwait stall xa xb) s) goesOn) ∧
      (v < (q.reg xb).toNat → NextWith (exec (.cwait stall xa xb) s) fun t => (t.seq c).mode = .wait ∧
        (t.seq c).waitFor = .cwait (q.reg xa).toNat (q.reg xb).toNat)) ∧
    (∀ s2, RegsReady s c [xa, xb] → (gated s c [xa, xb]).seqStore c (q.reg xa).toNat 8 (q.reg xb).toNat = (true, s2) →
      NextWith (exec (.cosig stall xa xb) s) fun t => goesOn t ∧ SameMemory s2 t) ∧
    (∀ v s2 s3, RegsReady s c [xa, xb] → (gated s c [xa, xb]).seqRead c (q.reg xa).toNat 8 = (some v, s2) →
      s2.seqStore c (q.reg xa).toNat 8 (v + (q.reg xb).toNat) = (true, s3) →
      NextWith (exec (.cosigAdd stall xa xb) s) fun t => goesOn t ∧ SameMemory s3 t) ∧
    (∀ hdr ws s2, RegsReady s c [xa] → (gated s c [xa]).readImage (some c) l.1 (q.reg xa).toNat = (.ok (hdr, ws), s2) →
      elementImageOk hdr ws = true → (∀ w ∈ ws, wordRefused w = false) →
      NextWith (exec (.bpush stall xa) s) fun t => goesOn t ∧ ∀ j < 4,
        (t.core (4 * c + j)).fifo = (s2.core (4 * c + j)).fifo ++
          ws.zipIdx.map fun w => (s.now + w.2 + 4 * j, wordPlaced q.bframe w.1))

open Sys2Proof Machine Claims in
/-- R109, R129: `srd` reads every system register, and `swr` writes TVEC, EPC and SHORTSTALL and nothing else. -/
def Sys2Proof.Claims.SystemRegisters : Prop :=
  ∀ (s : State) (c : Nat) (l : Nat × Launch) (stall : BitVec 3) (xd xa : BitVec 5), SeqRuns s c l → GoodPc (s.seq c) ((s.seq c).pc + 4) →
    let q := s.seq c
    (∀ r ∈ [(0x00#8, BitVec.ofNat 64 (s.now - q.start)), (0x01#8, BitVec.ofNat 64 c),
            (0x02#8, BitVec.ofNat 64 (l.2.cid % 2 ^ 16 + l.2.q % 2 ^ 17 * 2 ^ 16)), (0x03#8, BitVec.ofNat 64 q.phase),
            (0x04#8, BitVec.ofNat 64 (s.core (4 * c)).partw), (0x05#8, BitVec.ofNat 64 (s.core (4 * c + 1)).partw),
            (0x06#8, BitVec.ofNat 64 (s.core (4 * c + 2)).partw), (0x07#8, BitVec.ofNat 64 (s.core (4 * c + 3)).partw),
            (0x08#8, l.2.cmd.hbase), (0x09#8, q.tvec), (0x0A#8, q.epc), (0x0B#8, q.ecause), (0x0C#8, q.eval),
            (0x0D#8, if q.intrap then 1 else 0), (0x0E#8, q.shortstall),
            (0x0F#8, if l.2.cmd.sdv then BitVec.ofNat 64 (2 ^ 63 + l.2.cmd.sdom.toNat) else 0)],
      NextWith (exec (.srd stall xd r.1) s) fun t => Retires s t c stall.toNat (q.pc + 4) xd r.2 ∧ Readable s t c xd 2 true) ∧
    (RegsReady s c [xa] →
      let v := q.reg xa
      let wrote (n : BitVec 8) (f : Seq → Seq) : Prop := NextWith (exec (.swr stall xa n) s) fun t => OnlySeq s t c ∧
        (t.seq c) = { f q with pc := (t.seq c).pc, gen := (t.seq c).gen, issueFrom := s.now + 1 + stall.toNat
                               shortstall := (t.seq c).shortstall } ∧
        (q.ranNative = true → (t.seq c).pc = q.pc + 4)
      wrote 0x09 (fun q => { q with tvec := v }) ∧ wrote 0x0A (fun q => { q with epc := v }) ∧
      (NextWith (exec (.swr stall xa 0x0E) s) fun t => (t.seq c).shortstall = v) ∧
      ∀ n ∈ [0x00#8, 0x01, 0x02, 0x03, 0x04, 0x05, 0x06, 0x07, 0x08, 0x0B, 0x0C, 0x0D, 0x0F], wrote n id)

open Sys2Proof Machine Claims in
/-- R109, R122 to R126, R129: the queue instructions of a sequencer and its system registers. -/
def Obligations.SequencerQueuesAndRegisters : Prop := SequencerQueueInstructions ∧ SystemRegisters

/-! ## Nodes: vector commands -/

open Sys2Proof Machine Claims in
/-- R193, R194: the element-wise vector commands, lane by lane or half-lane by half-lane. -/
def Obligations.VectorLanes : Prop :=
  let bin (i : VArgs → Instr) (f : FFmt → Nat → Nat → Nat) (g : Int → Int → Int) : Prop :=
    VecGives i (fun _ => 2) 4 (fun _ => True) (·.vt) fun v a b _ j => laneOp v.vt f g (vecLane v.vt a j) (vecLane v.vt b j)
  let idx (v : VArgs) (x : Nat) : Nat := x % (if wideLanes v.vt then 64 else 128)
  let one (i : VArgs → Instr) (f : FFmt → Nat → Nat) : Prop :=
    VecGives i (fun _ => 1) 8 (fun v => v.vt ≠ .s32) (·.vt) fun v a _ _ j => f (laneFmt v.vt) (vecLane v.vt a j)
  bin .vadd fadd (· + ·) ∧ bin .vsub fsub (· - ·) ∧ bin .vmul fmul (· * ·) ∧ bin .vmax fmax max ∧ bin .vmin fmin min ∧
  VecGives .vfma (fun _ => 3) 4 (fun _ => True) (·.vt) (fun v a b c j =>
    if v.vt = .s32 then (vecLane v.vt a j * vecLane v.vt b j + vecLane v.vt c j) % 2 ^ 32
    else ffma (laneFmt v.vt) (vecLane v.vt a j) (vecLane v.vt b j) (vecLane v.vt c j)) ∧
  VecGives .vscl (fun _ => 2) 4 (fun _ => True) (·.vt)
    (fun v a b _ j => laneOp v.vt fmul (· * ·) (vecLane v.vt a j) (vecLane v.vt b 0)) ∧
  VecGives .vcmp (fun _ => 2) 4 (fun v => v.vt ≠ .s32 ∨ v.mod.toNat < 6) (·.vt) (fun v a b _ j =>
    if (if v.vt = .s32 then holds v.mod.toNat (s32 (vecLane v.vt a j)) (s32 (vecLane v.vt b j))
        else floatCond (laneFmt v.vt) v.mod.toNat (vecLane v.vt a j) (vecLane v.vt b j))
    then (if wideLanes v.vt then 2 ^ 32 else 2 ^ 16) - 1 else 0) ∧
  VecGives .vsel (fun _ => 3) 4 (fun _ => True) (·.vt)
    (fun v a b c j => if vecLane v.vt c j ≠ 0 then vecLane v.vt a j else vecLane v.vt b j) ∧
  VecGives .vperm (fun _ => 2) 3 (fun _ => True) (·.vt) (fun v a b _ j => vecLane v.vt a (idx v (vecLane v.vt b j))) ∧
  VecGives .vbcast (fun _ => 2) 3 (fun _ => True) (·.vt) (fun v a b _ _ => vecLane v.vt a (idx v (vecLane v.vt b 0))) ∧
  one .vexp vexpLane ∧ one .vrcp frcp ∧ one .vrsq frsq ∧ one .vtanh vtanhLane

open Sys2Proof Machine Claims in
/-- R195, R196: the reductions over the fixed pairwise tree, with 16-bit lanes widened to FP32 and the result rounded back, and the
conversions between vector types. -/
def Sys2Proof.Claims.VectorReductionsAndConversion : Prop :=
  let red (i : VArgs → Instr) (f : Nat → Nat → Nat) (g : Int → Int → Int) : Prop :=
    VecGives i (fun _ => 1) 12 (fun _ => True) (·.vt) fun v a _ _ _ =>
      if v.vt = .s32 then tree (fun x y => u32 (g (s32 x) (s32 y))) 6 (vecLane .s32 a)
      else if v.vt = .f32 then tree f 6 (vecLane .f32 a)
      else fconvert fp32 (laneFmt v.vt) .rne (tree f 7 fun j => widenTo32 (laneFmt v.vt) (vecLane v.vt a j))
  let mode (v : VArgs) : RMode := if v.mod.getLsbD 2 then .rto else .rne
  let dst (v : VArgs) : VType := if v.mod.toNat % 4 = 0 then .f32 else if v.mod.toNat % 4 = 1 then .bf16x2 else .f16x2
  let cvt (v : VArgs) (x : Nat) : Nat :=
    if v.vt = .s32 then fofInt (laneFmt (dst v)) (mode v) (s32 x) else fconvert (laneFmt v.vt) (laneFmt (dst v)) (mode v) x
  red .vsum (fadd fp32) (· + ·) ∧ red .vmaxr (fmax fp32) max ∧
  VecGives .vcvt (fun _ => 2) 4 (fun v => v.mod.toNat % 4 < 3 ∧ wideLanes v.vt = true ∧ wideLanes (dst v) = false) dst
    (fun v a b _ j => cvt v (if j < 64 then a.getD j 0 else b.getD (j - 64) 0)) ∧
  VecGives .vcvt (fun _ => 1) 4 (fun v => v.vt = .s32 ∧ dst v = .f32) dst (fun v a _ _ j => cvt v (a.getD j 0)) ∧
  VecGives .vcvt (fun _ => 1) 4 (fun v => wideLanes v.vt = false ∧ dst v = .f32) dst
    (fun v a _ _ j => widenTo32 (laneFmt v.vt) (vecLane v.vt a (j + if v.mod.getLsbD 2 then 64 else 0))) ∧
  VecGives .vcvt (fun _ => 1) 4 (fun v => v.mod.toNat % 4 < 3 ∧ wideLanes v.vt = false ∧ wideLanes (dst v) = false ∧ v.vt ≠ dst v) dst
    (fun v a _ _ j => cvt v (vecLane v.vt a j))

open Sys2Proof Machine Claims in
/-- R226: the sampling commands. `vnoise` adds the noise of a key and a counter to each lane, `vmask` keeps the lanes whose mask bit is 1,
and `vargmax` leaves the greatest value, its index and a status. -/
def Sys2Proof.Claims.VectorSampling : Prop :=
  VecGives .vnoise (fun _ => 2) 8 (fun _ => True) (fun _ => .f32) (fun _ a b _ j =>
    fadd fp32 (a.getD j 0) (gumbel (mix (b.getD 1 0 * 2 ^ 32 + b.getD 0 0) (b.getD 3 0 * 2 ^ 32 + (b.getD 2 0 + j) % 2 ^ 32)))) ∧
  VecGives .vmask (fun _ => 3) 4 (fun _ => True) (fun _ => .f32) (fun _ a b c j =>
    if (b.getD (2 * (c.getD 0 0 % 32) + j / 32) 0).testBit (j % 32) then a.getD j 0 else 0xFF800000) ∧
  ∀ (v : VArgs) (s : State) (k n : Nat) (r : Running), Issues s k n .vector r → NodeRegsReady s k n [v.a, v.b] →
    let a := (s.node k n).source r.task (4 * s.free) v.a.toNat
    let b := (s.node k n).source r.task (4 * s.free + 1) v.b.toNat
    let sent (x y z : Nat) : Out :=
      .next ((({ s with free := s.free + 1 } : State).sinkVec k n r.task.tag v.d.toNat 12 ([x, y, z] ++ List.replicate 61 0)
        (a.2 || b.2)).advance k n)
    ((∃ j < 64, isNan fp32 (a.1.getD j 0) = true) → exec (.vargmax v) s = sent 0x7FC00000 0xFFFFFFFF 2) ∧
    ((∀ j < 64, a.1.getD j 0 = 0xFF800000) → exec (.vargmax v) s = sent 0xFF800000 0xFFFFFFFF 1) ∧
    (∀ m < 64, (∀ j < 64, isNan fp32 (a.1.getD j 0) = false) → a.1.getD m 0 ≠ 0xFF800000 →
      (∀ j < 64, fkey fp32 (a.1.getD j 0) ≤ fkey fp32 (a.1.getD m 0)) → (∀ j < m, fkey fp32 (a.1.getD j 0) < fkey fp32 (a.1.getD m 0)) →
      exec (.vargmax v) s = sent (a.1.getD m 0) ((b.1.getD 0 0 + m) % 2 ^ 32) 0)

open Sys2Proof Machine Claims in
/-- R195, R196, R226: reductions, conversions and sampling of vector nodes. -/
def Obligations.VectorReduceConvertSample : Prop := VectorReductionsAndConversion ∧ VectorSampling

open Sys2Proof Machine Claims in
/-- R189, R191, R192: the frame of the vector commands. One that names a register writes that register alone; it leaves its node's other
registers, the other nodes and cores and every memory as they were, and the handler goes on with its next command. A register that it
writes is ready a latency later (R191). -/
def Sys2Proof.Claims.VectorFrame : Prop :=
  ∀ (v : VArgs) (s : State) (k n : Nat) (r : Running), Issues s k n .vector r → v.d.toNat < 16 →
    ∀ i ∈ vectorInstrs v, NodeRegsReady s k n (codesRead v i) → NextWith (exec i s) fun t =>
      let nd := s.node k n
      let nd' := t.node k n
      OnlyNode s t k n ∧ nd' = { nd with w := nd'.w, wReady := nd'.wReady, running := nd'.running } ∧
      (∀ c, c ≠ v.d.toNat → Tab.get {} nd'.w c = Tab.get {} nd.w c ∧ Tab.get 0 nd'.wReady c = Tab.get 0 nd.wReady c) ∧
      (Tab.get {} nd'.w v.d.toNat).lanes.length = 64 ∧ s.now < Tab.get 0 nd'.wReady v.d.toNat ∧
      (r.cmds.tail ≠ [] → nd'.running = some { r with cmds := r.cmds.tail, next := s.now + if s.board.mode = 3 then 2 else 1 }) ∧
      (r.cmds.tail = [] → r.stream = none → nd'.running = none)

open Sys2Proof Machine Claims in
/-- R197, R198, R443: `vtile.rd` copies a row of a tile and its D mark to a register, and `vtile.wr` writes a register to a row of a tile,
changing no other byte and no full/empty state (R245), once the register is ready (R191). An EMPTY tile, or a row past the tile's last,
faults. -/
def Sys2Proof.Claims.VectorTiles : Prop :=
  ∀ (s : State) (k n : Nat) (r : Running) (w : BitVec 4) (tile : BitVec 8) (row : BitVec 14), Issues s k n .vector r →
    let c := s.core k
    let t := c.tile tile.toNat
    let first := t.firstByte + 256 * row.toNat
    let bad (code detail : Nat) (d : Bool) : Out :=
      .next ((s.emitDests k n r.dests (s.now + 6) (wideFault (nodeWord k n code detail) r.task.tag r.task.tag d)).endHandler k n)
    let dw := (Tab.get {} (s.node k n).w w.toNat).d
    let written := Tab.get 0 (s.node k n).wReady w.toNat ≤ s.now
    (t.st = .ready → row.toNat ≤ t.nrow → c.scrPoisoned first 256 = false → NextWith (exec (.vtileRd w tile row) s) fun t' =>
      OnlyNode s t' k n ∧ (∀ x, x ≠ w.toNat → Tab.get {} (t'.node k n).w x = Tab.get {} (s.node k n).w x) ∧
      (Tab.get {} (t'.node k n).w w.toNat).d = t.dmark ∧ Tab.get 0 (t'.node k n).wReady w.toNat = s.now + 6 ∧
      (∀ j < 64, (Tab.get {} (t'.node k n).w w.toNat).lanes.getD j 0 = BitVec.ofNat 32 (numberAt c.cells (first + 4 * j) 4))) ∧
    (t.st = .ready → row.toNat ≤ t.nrow → written → NextWith (exec (.vtileWr w tile row) s) fun t' =>
      (∀ j < 64, numberAt (t'.core k).cells (first + 4 * j) 4 = ((Tab.get {} (s.node k n).w w.toNat).lanes.getD j 0).toNat) ∧
      (∀ a, (a < first ∨ first + 256 ≤ a) → byteAt (t'.core k).cells a = byteAt c.cells a) ∧
      (∀ x, (t'.core k).scrFull x = c.scrFull x) ∧
      (∀ a, byteAt t'.hbm a = byteAt s.hbm a) ∧ (∀ a, byteAt t'.hostMem a = byteAt s.hostMem a)) ∧
    (t.st = .empty → exec (.vtileRd w tile row) s = bad 0x04 0x31 false ∧ (written → exec (.vtileWr w tile row) s = bad 0x04 0x31 dw)) ∧
    (t.st = .ready → t.nrow < row.toNat → exec (.vtileRd w tile row) s = bad 0x04 0x30 false ∧
      (written → exec (.vtileWr w tile row) s = bad 0x04 0x30 dw)) ∧
    (¬ written → exec (.vtileWr w tile row) s = .next s) ∧
    (t.st = .filling ∨ t.st = .draining → exec (.vtileRd w tile row) s = .next s ∧ exec (.vtileWr w tile row) s = .next s)

open Sys2Proof Machine Claims in
/-- R189, R191, R192, R197, R198, R245, R443: what vector commands change in their node, and the commands between registers and tiles. -/
def Obligations.VectorRegistersAndTiles : Prop := VectorFrame ∧ VectorTiles

/-! ## Nodes: matrix, accumulator and converter commands -/

open Sys2Proof Machine Claims in
/-- R203, R204, R207, R219: the loading commands of a matrix handler. `mw.load` fills the bank that it names through its record once the
checks of the record and its pages pass, `mm.rec` through the record of the packet's context, or keeps a bank that holds it, `mm.zp` takes
entries from a tile, and `mw.swap` makes a bank active. A failed check poisons the bank and ends the handler. -/
def Obligations.MatrixLoads : Prop :=
  ∀ (s : State) (k n : Nat) (r : Running) (l : Nat) (L : Launch), Issues s k n .matrix r → s.coreLaunch k = some (l, L) →
    let nd := s.node k n
    let busy (b : Bool) : Prop := r.stream.isSome = true ∧ nd.active = b
    let fails (s : State) (b : Bool) (detail : Nat) : Out := .next (s.loadFails k n b r.task 0x04 detail none)
    let filled (s : State) (b : Bool) (x : Bank) : Out := .next ((s.onNode k n fun nd => { nd.setBank b x with lb := b }).advance k n)
    (∀ (fmt : Fmt) (grp : BitVec 2) (b : Bool) (i : BitVec 12), ¬ busy b →
      (∀ s1, s.opRecord k i.toNat = (none, s1) → exec (.mwLoad fmt grp b i) s = fails s1 b 0x53) ∧
      (∀ rc s1, s.opRecord k i.toNat = (some rc, s1) → s1.coreLaunch k = some (l, L) →
        let dom := rc.sv = true → L.sdom? = some rc.sdom
        (rc.fmt ≠ fmt ∨ rc.grp ≠ grp.toNat → exec (.mwLoad fmt grp b i) s = fails s1 b 0x53) ∧
        (rc.fmt = fmt → rc.grp = grp.toNat → ¬ dom → exec (.mwLoad fmt grp b i) s = fails s1 b 0x50) ∧
        (rc.fmt = fmt → rc.grp = grp.toNat → dom → rc.wport = false → exec (.mwLoad fmt grp b i) s = fails s1 b 0x51) ∧
        (rc.fmt = fmt → rc.grp = grp.toNat → dom → rc.wport = true →
          ∀ x s2, s1.loadBank k L i.toNat rc = (.ok x, s2) →
            exec (.mwLoad fmt grp b i) s = filled s2 b x ∧ x.fmt = fmt ∧ x.record = i.toNat ∧ x.cv = true ∧ x.poison = false ∧
            (x.ev = true ↔ rc.szbase ≠ 0)))) ∧
    (∀ b, busy b → (∀ fmt grp i, exec (.mwLoad fmt grp b i) s = .next s) ∧ exec (.mmRec b) s = .next s) ∧
    (∀ b, r.stream = none → exec (.mwSwap b) s = .next ((s.onNode k n fun nd => { nd with active := b }).advance k n)) ∧
    (∀ b, r.stream.isSome = true → exec (.mwSwap b) s = .next s) ∧
    (∀ b, ¬ busy b →
      let ctx := r.task.tag.toNat / 2 ^ 52
      let e := if 0xC00 ≤ ctx then Tab.get 0 L.adapters (ctx - 0xC00) else 0
      let x := nd.bank b
      (e.testBit 31 = false → exec (.mmRec b) s = fails s b 0x52) ∧
      (e.testBit 31 = true → x.cv = true → x.poison = false → x.record = e % 4096 →
        exec (.mmRec b) s = .next ((s.onNode k n fun nd => { nd with lb := b }).advance k n)) ∧
      (∀ rc s1 y s2, e.testBit 31 = true → ¬ (x.cv = true ∧ x.poison = false ∧ x.record = e % 4096) →
        s.opRecord k (e % 4096) = (some rc, s1) → s1.coreLaunch k = some (l, L) → (rc.sv = true → L.sdom? = some rc.sdom) →
        rc.wport = true → rc.slot = true → s1.loadBank k L (e % 4096) rc = (.ok y, s2) → exec (.mmRec b) s = filled s2 b y)) ∧
    (∀ tile : BitVec 8, ¬ busy nd.lb →
      let x := nd.bank nd.lb
      let t := (s.core k).tile tile.toNat
      let g := (if x.fmt = .q4 then 256 else 128) / (32 * 2 ^ x.grp)
      let es := chunks g 128 (wordsOfBytes ((s.core k).scrRead t.firstByte (512 * g)))
      (x.cv = false ∨ x.fmt = .bf16 → exec (.mmZp tile) s = fails s nd.lb 0x53) ∧
      (x.cv = true → x.fmt ≠ .bf16 → t.st = .empty → exec (.mmZp tile) s = fails s nd.lb 0x31) ∧
      (x.cv = true → x.fmt ≠ .bf16 → t.st = .ready → 2 * g ≤ t.nrow + 1 → (s.core k).scrPoisoned t.firstByte (512 * g) = false →
        (∀ c ∈ es, ∀ w ∈ c, entryBad x.fmt w = false) →
        exec (.mmZp tile) s = .next ((s.onNode k n fun nd =>
          nd.setBank nd.lb { x with entries := es, ev := true, zp := true, wd := x.wd || t.dmark }).advance k n)))

open Sys2Proof Machine Claims in
/-- R147, R210, R211: the pass value of finite activations and weights is their exact sum of products rounded once to FP32. NaN, infinities
of both signs and infinity times zero give the quiet NaN, and infinities of one sign give that infinity. -/
def Obligations.PassValues : Prop :=
  (∀ acts ws : List FVal, acts.length = ws.length → (∀ v ∈ acts ++ ws, ∃ s m e, v = .fin s m e ∧ -300 ≤ e) →
    let sum : ℚ := ((List.zip acts ws).map fun p => finVal p.1 * finVal p.2).sum
    (∀ m : Nat, |sum| * 2 ^ 600 = m → sum ≠ 0 → passValue acts ws = fround fp32 .rne (decide (sum < 0)) m (-600) false) ∧
    (sum = 0 → passValue acts ws = 0 ∨ passValue acts ws = 0x80000000)) ∧
  (∀ acts ws : List FVal, acts.length = ws.length →
    let ps := List.zip acts ws
    let inf (p : FVal × FVal) (neg : Bool) : Prop :=
      (∃ a b, (p.1 = .inf a ∧ b = p.2.sign ∨ p.2 = .inf a ∧ b = p.1.sign) ∧ neg = (a != b))
    ((∃ v ∈ acts ++ ws, ∃ a f, v = .nan a f) → passValue acts ws = 0x7FC00000) ∧
    ((∃ p ∈ ps, (∃ a b e, p = (.inf a, .fin b 0 e)) ∨ ∃ a b e, p = (.fin b 0 e, .inf a)) → passValue acts ws = 0x7FC00000) ∧
    ((∃ p ∈ ps, inf p true) → (∃ p ∈ ps, inf p false) → passValue acts ws = 0x7FC00000) ∧
    (∀ neg, (∀ v ∈ acts ++ ws, ∀ a f, v ≠ .nan a f) →
      (∀ p ∈ ps, ∀ a b e, p ≠ (.inf a, .fin b 0 e) ∧ p ≠ (.fin b 0 e, .inf a)) →
      (∃ p ∈ ps, inf p neg) → (¬ ∃ p ∈ ps, inf p !neg) → passValue acts ws = if neg then 0xFF800000 else 0x7F800000)) ∧
  (∀ (b : Bank) (c i : Nat), i < (b.codes.getD c []).length → (b.column c).length = (b.codes.getD c []).length ∧
    ((∃ s m e, (b.column c)[i]? = some (.fin s m e)) → ∃ v, (b.column c)[i]? = some v ∧ finVal v = weightVal b c i))

open Sys2Proof Machine Claims in
/-- R210, R211, R217 to R219: `mm.run` takes the array for its vectors, or faults with ARITH 0x40, 0x46 or 0x41, in that order, poisoning
its rows; `mm.end` sends its count behind the passes; a later command of a busy array waits; `acc.cfg` sets the window's exponent where no
row is in use; `acc.rel` releases every row and sets RC to 0. -/
def Sys2Proof.Claims.MatrixRuns : Prop :=
  (∀ (s : State) (k n : Nat) (r : Running) (fmt : Fmt) (acc : BitVec 2) (n1 : BitVec 13), Issues s k n .matrix r →
    let nd := s.node k n
    let b := nd.bank nd.active
    let count := n1.toNat + 1
    let unfit := b.cv = false ∨ b.poison = true ∨ (b.fmt ≠ .bf16 ∧ b.ev = false)
    let pairing := b.fmt = .bf16 ∧ fmt ≠ .bf16
    let rows := s.accRows k
    let fails (detail : Nat) : Out :=
      .next (((s.poisonRows k acc.toNat (List.range (min count rows)) r.task.tag).nodeFault k n 0x10 detail r.task.tag
        r.task.dAll).endHandler k n)
    (r.stream.isSome = true → exec (.mmRun fmt acc n1) s = .next s ∧ ∀ c, exec (.mmEnd acc c) s = .next s) ∧
    (r.stream = none →
      (pairing → exec (.mmRun fmt acc n1) s = fails 0x40) ∧
      (¬ pairing → unfit → exec (.mmRun fmt acc n1) s = fails 0x46) ∧
      (¬ pairing → ¬ unfit → rows < count → exec (.mmRun fmt acc n1) s = fails 0x41) ∧
      (¬ pairing → ¬ unfit → count ≤ rows → (∀ p ∈ r.task.packets, p.1 ≠ 0) → s.pendingA k n = none →
        NextWith (exec (.mmRun fmt acc n1) s) fun t => OnlyNode s t k n ∧
          t.node k n = { nd with running := some { r with cmds := r.cmds.tail, next := s.now + 1,
                                                          stream := some { acc := acc.toNat, fmt := fmt, n := count } } }) ∧
      (∀ w : Wide, ¬ pairing → ¬ unfit → count = 1 → 1 ≤ rows → r.task.packets = [(0, w)] →
        ¬ (b.fmt = .q4 ∧ (fmt = .bf16 ∨ fmt = .fp16)) →
        let d := if b.fmt = .q4 then 256 else 128
        NextWith (exec (.mmRun fmt acc n1) s) fun t =>
          (t.node k (28 + acc.toNat)).passes = (s.node k (28 + acc.toNat)).passes ++
            [.row acc.toNat 0 ((List.range 128).map fun c => BitVec.ofNat 32 (passValue (actsOf fmt d [w]) (b.column c))) w.tag
              (b.wd || w.d) r.task.tag]) ∧
      (∀ c : BitVec 16, exec (.mmEnd acc c) s = .next ((s.onNode k (28 + acc.toNat) fun nd =>
        { nd with passes := nd.passes ++ [.fin acc.toNat c.toNat r.task.tag] }).advance k n)))) ∧
  ∀ (s : State) (k n : Nat) (r : Running), Issues s k n .acc r →
    let nd := s.node k n
    let used := ∃ x ∈ nd.rows, x.2.used = true
    (∀ e : BitVec 8, ¬ used → exec (.accCfg e) s = .next ((s.onNode k n fun nd => { nd with e := (e.toNat : Int) - 127 }).advance k n)) ∧
    (∀ e : BitVec 8, used → exec (.accCfg e) s = .next ((s.nodeFault k n 0x10 0x43 r.task.tag r.task.dAll).endHandler k n)) ∧
    (NextWith (exec .accRel s) fun t => (t.node k n).rc = 0 ∧ (t.node k n).e = nd.e ∧ ∀ j, (rowAt t k n j).used = false)

open Sys2Proof Machine Claims in
/-- R202, R213, R215 to R217: a pass that arrives adds each value on the window's grid, exactly, counts, and releases its row at the count in
force; one of another tag poisons the row; a row past its count is poisoned. An end token with RC = 0 puts its count in force; one with
another count than RC is ARITH 0x42. -/
def Sys2Proof.Claims.AccumulatorArrivals : Prop :=
  ∀ (s : State) (k n : Nat) (rest : List Pass), s.agent = .node k n → k < 64 → nodeKindOf n = some .acc →
    let nd := s.node k n
    let s1 := s.onNode k n fun nd => { nd with passes := rest }
    (∀ acc j vals tag d origin, nd.passes = .row acc j vals tag d origin :: rest → s.vanishes k tag = false →
      let r := rowAt s k n j
      (r.poison = false → r.bad = false → (r.used = true → r.tag = tag) → nd.rc = 0 → NextWith (exec .passArrival s) fun t =>
        let r' := rowAt t k n j
        OnlyNode s t k n ∧ (∀ i, i ≠ j → rowAt t k n i = rowAt s k n i) ∧ r'.used = true ∧ r'.tag = tag ∧ r'.cnt = r.cnt + 1 ∧
        (t.node k n).passes = rest ∧ r'.d = (r.d || d) ∧
        ∀ c < 128, ∀ sg m e, fdecode fp32 (vals.getD c 0).toNat = .fin sg m e →
          let q := roundAt .rne sg m (e + 64 - nd.e) 0 false
          r'.a.getD c 0 = r.a.getD c 0 + if q < 2 ^ 111 then (if sg then -(q : Int) else q) else 0) ∧
      (r.poison = true → nd.rc = 0 ∨ r.cnt + 1 < nd.rc → NextWith (exec .passArrival s) fun t =>
        rowAt t k n j = { r with cnt := r.cnt + 1, d := r.d || d }) ∧
      (r.poison = true → nd.rc ≠ 0 → nd.rc ≤ r.cnt + 1 → NextWith (exec .passArrival s) fun t => rowAt t k n j = {}) ∧
      (r.poison = false → r.bad = true → NextWith (exec .passArrival s) fun t =>
        (rowAt t k n j).poison = true ∧ (t.core k).cells = (s.core k).cells ∧
        exec .passArrival s = .next ((s1.onNode k n fun nd => { nd with rows := Tab.set nd.rows j (rowAt t k n j) }).nodeFault k n 0x0E 0
          origin true)) ∧
      (r.poison = false → r.bad = false → r.used = true → r.tag ≠ tag →
        exec .passArrival s = .next ((s1.onNode k n fun nd => { nd with rows := Tab.set nd.rows j { r with poison := true } }).nodeFault
          k n 0x10 0x44 origin d)) ∧
      (r.poison = false → r.bad = false → (r.used = true → r.tag = tag) → nd.rc = r.cnt + 1 → NextWith (exec .passArrival s) fun t =>
        rowAt t k n j = {})) ∧
    (∀ acc count origin, nd.passes = .fin acc count origin :: rest →
      (nd.rc = 0 → (∀ x ∈ nd.rows, x.2.used = true → x.2.fresh = false ∧ x.2.cnt < count) → NextWith (exec .endTokenArrival s) fun t =>
        (t.node k n).rc = count ∧ (t.node k n).passes = rest) ∧
      (∀ j x, nd.rc = 0 → nd.rows = [(j, x)] → x.used = true → x.fresh = false → count < x.cnt → NextWith (exec .endTokenArrival s) fun t =>
        (t.node k n).rc = count ∧ rowAt t k n j = { x with poison := true }) ∧
      (∀ j x, nd.rc = 0 → nd.rows = [(j, x)] → x.used = true → x.fresh = false → x.cnt = count →
        exec .endTokenArrival s =
          .next (((s1.clearFresh k n).onNode k n fun nd => { nd with rc := count }).releaseRow k n j)) ∧
      (nd.rc = count → count ≠ 0 → NextWith (exec .endTokenArrival s) fun t => (t.node k n).rc = count ∧ (t.node k n).passes = rest) ∧
      (nd.rc ≠ 0 → nd.rc ≠ count →
        exec .endTokenArrival s = .next ((s1.clearFresh k n).nodeFault k n 0x10 0x42 origin false)))

open Sys2Proof Machine Claims in
/-- R202, R213, R216, R315, R444: what a release of an accumulator row emits. Element c of a good row leaves as its sum rounded once to
FP32 in the window's exponent, as the quiet NaN where it met a NaN or infinities of both signs, or as its infinity; elements 0 to 63 leave
on the node's own entry and 64 to 127 on its HI entry where that is valid, with the row's tag and D bit. A poisoned row leaves nothing, and
one whose storage cannot be read is an ECCU fault (assumption log 140). The row is cleared, and RC with the last. Where the entry is
neither of KIND 0 nor of KIND 1 the packet is discarded and counted. -/
def Sys2Proof.Claims.RowReleases : Prop :=
  (∀ (s : State) (k n j : Nat),
    let nd := s.node k n
    let r := rowAt s k n j
    let cleared (s : State) : State := s.onNode k n fun nd => { nd with rows := Tab.del nd.rows j }
    let out (c : Nat) : Word :=
      let a := r.a.getD c 0
      if r.nan = true ∨ (r.pos = true ∧ r.neg = true) then 0x7FC00000 else if r.pos then 0x7F800000 else if r.neg then 0xFF800000
      else BitVec.ofNat 32 (fround fp32 .rne (decide (a < 0)) a.natAbs (nd.e - 64) false)
    let half (h : Nat) : Wide := { lanes := (List.range 64).map fun c => out (64 * h + c), tag := r.tag, d := r.d }
    (r.poison = true → s.releaseRow k n j = cleared s) ∧
    (r.poison = false → r.bad = true → s.releaseRow k n j = cleared (s.nodeFault k n 0x0E 0 r.tag true)) ∧
    (∀ l L, r.poison = false → r.bad = false → 28 ≤ n → n < 32 → s.coreLaunch k = some (l, L) →
      let hi := if (L.binding k (144 + (n - 28))).testBit 31 then 144 + (n - 28) else 4 * n
      s.releaseRow k n j = (cleared ((s.accEmit k (4 * n) (half 0)).accEmit k hi (half 1))).onNode k n fun nd =>
        if ∃ x ∈ nd.rows, x.2.used = true then nd else { nd with rc := 0 })) ∧
  (∀ (s : State) (k entry l : Nat) (L : Launch) (w : Wide), s.coreLaunch k = some (l, L) →
    let b := L.binding k entry
    let kind := b / 2 ^ 29 % 4
    (b.testBit 31 = false ∨ 2 ≤ kind → s.accEmit k entry w = s.countCore k cntNoBind) ∧
    (b.testBit 31 = true → kind = 0 → s.accEmit k entry w = s.leave (k / 4 * 4 + b / 2 ^ 27 % 4)
      { chan := [1, k, entry], dest := .node (b / 2 ^ 20 % 2 ^ 7) (b / 2 ^ 15 % 4), ready := s.now + 1,
        msg := .wide { w with task := b / 2 ^ 9 % 2 ^ 6 } }) ∧
    (b.testBit 31 = true → kind = 1 → b / 2 ^ 7 % 4 = 0 → w.f = false → s.accEmit k entry w = s.leave k
      { chan := [1, k, entry], dest := .input (b / 2 ^ 17 % 2 ^ 3) (b / 2 ^ 20 % 2 ^ 5), ready := s.now + 1,
        msg := .narrow { tag := w.tag, val := w.lane 0, d := w.d } (b / 2 ^ 9 % 2 ^ 6) })) ∧
  ∀ (s : State) (k n : Nat) (r : Running) (j : Nat) (x : AccRow), Issues s k n .acc r → (s.node k n).rows = [(j, x)] → x.used = true →
    x.fresh = false → exec .accRel s =
      .next (((((s.clearFresh k n).releaseRow k n j).onNode k n fun nd => { nd with rc := 0 })).advance k n)

open Sys2Proof Machine Claims in
/-- R202, R210 to R219: the runs of a matrix array, and what its passes and its releases do at an accumulator node. -/
def Obligations.MatrixPasses : Prop := MatrixRuns ∧ AccumulatorArrivals ∧ RowReleases

open Sys2Proof Machine Claims in
/-- R220, R221, R223: the converter commands convert each element of the read set's packets once, in port order, and emit the results packed
in wide packets 8 cycles later, with the tag of the task and the OR of the D bits; where an element has no value, F packets leave in their
place. That the handler goes on behind F packets (assumption log 46), and that a bad entry of a group gives its detail before a NaN among the
group's elements does (assumption log 112), are the model's readings. -/
def Obligations.ConverterCommands : Prop :=
  ∀ (s : State) (k n : Nat) (r : Running), Issues s k n .conv r →
    (∀ p ∈ r.reads, ∃ w, r.task.packets.find? (fun x => x.1 = p) = some (p, w)) →
    let ps := r.reads.map fun p => ((r.task.packets.find? fun x => x.1 = p).map (·.2)).getD {}
    let s1 : State := { s with free := s.free + 1 }
    let els (f : Fmt) : List Nat := ps.flatMap fun p => p.all.flatMap fun w =>
      (List.range (32 / fmtBits f)).map fun j => w.toNat / 2 ^ (fmtBits f * j) % 2 ^ fmtBits f
    let d := ps.any (·.d)
    let mode (rto : Bool) : RMode := if rto then .rto else .rne
    let given (dst : Fmt) (d : Bool) (ys : List Nat) : Out :=
      .next (((packElems dst ys).foldl (fun s ws => s.emitPort k n 0 (s.now + 8) { lanes := ws, tag := r.task.tag, d := d }) s1).advance
        k n)
    let none_ (src dst : Fmt) (d : Bool) (code detail : Nat) : Out :=
      .next (((List.range (packetsOf dst (els src).length)).foldl
        (fun s _ => s.emitPort k n 0 (s.now + 8) (wideFault (nodeWord k n code detail) r.task.tag r.task.tag d)) s1).advance k n)
    (∀ (src dst : Fmt) (rto : Bool) (ys : List Nat),
      List.Forall₂ (fun x y => cvfElem src dst (mode rto) x = .ok y) (els src) ys → exec (.cvf src dst rto) s = given dst d ys) ∧
    (∀ (src dst : Fmt) (rto : Bool) (pre post ys : List Nat) (x e : Nat), els src = pre ++ x :: post →
      List.Forall₂ (fun x y => cvfElem src dst (mode rto) x = .ok y) pre ys → cvfElem src dst (mode rto) x = .error e →
      exec (.cvf src dst rto) s = none_ src dst d 0x10 e) ∧
    ∀ c : CvArgs,
      let t := (s.core k).tile c.tile.toNat
      let entry (i : Nat) : Nat := numberAt (s.core k).cells (t.firstByte + 4 * (i / (32 * 2 ^ c.grp.toNat))) 4
      let scale (i : Nat) : FVal := fdecode fp16 (entry i % 2 ^ 16)
      let zero (i : Nat) : Int := (entry i / 2 ^ 16 % 2 ^ 8 : Nat)
      t.st = .ready → (s.core k).scrPoisoned t.firstByte 256 = false →
      (∀ i < (els c.s).length, i / (32 * 2 ^ c.grp.toNat) < 64) →
      (∀ (f : FFmt) (ys : List Nat), fmtFloat c.s = some f → ys.length = (els c.s).length →
        (∀ i < ys.length, entryBad c.d (BitVec.ofNat 32 (entry i)) = false ∧ ∃ sg m x sg' m' x',
          scale i = .fin sg m x ∧ fdecode f ((els c.s).getD i 0) = .fin sg' m' x' ∧
          let q := roundQuot (mode c.rto) (sg != sg') m' m (x' - x)
          ((ys.getD i 0 : Nat) : Int) = max 0 (min (((2 ^ fmtBits c.d : Nat) : Int) - 1) ((if sg != sg' then -(q : Int) else q) + zero i))) →
        exec (.cvq c) s = given c.d (d || t.dmark) ys) ∧
      (∀ (f : FFmt) (ys : List Nat), fmtFloat c.d = some f → ys.length = (els c.s).length →
        (∀ i < ys.length, entryBad c.s (BitVec.ofNat 32 (entry i)) = false ∧ ∃ sg m x,
          scale i = .fin sg m x ∧
          let v : Int := ((els c.s).getD i 0 : Nat) - zero i
          ys.getD i 0 = if v = 0 then fround f (mode c.rto) false 0 0 false
                        else fround f (mode c.rto) (sg != decide (v < 0)) (v.natAbs * m) x false) →
        exec (.cvdq c) s = given c.d (d || t.dmark) ys) ∧
      (els c.s ≠ [] → entryBad c.d (BitVec.ofNat 32 (entry 0)) = true → exec (.cvq c) s = none_ c.s c.d (d || t.dmark) 0x10 0x21) ∧
      (els c.s ≠ [] → entryBad c.s (BitVec.ofNat 32 (entry 0)) = true → exec (.cvdq c) s = none_ c.s c.d (d || t.dmark) 0x10 0x21)

/-! ## Elements: matching -/

open Sys2Proof Machine Claims in
/-- R44 to R49, R51, R326: what a matcher does with the NORMAL token that it takes, at an ordinary instruction of at least two operands: it
completes a set, which fires and consumes the NORMAL tokens of the set and leaves the STICKY ones, or it is stored in tier 1, or it meets a
NORMAL token of its slot and tag and is a DUPTAG. A token of a one-operand instruction fires alone. That a stored token of equal tag is
taken before a STICKY one that covers the tag is the model's reading (assumption log 18). -/
def Sys2Proof.Claims.MatcherTakesToken : Prop :=
  ∀ (s : State) (k e opc : Nat) (a : ElemArgs) (q : Queued), TakesToken s k e opc a q → q.tok.ma = .normal → a.sub = none →
    opc ≠ 0x102 → opc ≠ 0x1A5 → q.tok.slot ≤ a.arity.toNat →
    let el := s.elem k e
    let ts := (s.core k).stored e
    let t := { q.tok with ord := s.nextId }
    let here (x : Token) : Prop := x.slot = t.slot ∧ x.tag = t.tag ∧ x.ma ≠ .sticky
    let covers (x : Token) (sl : Nat) : Prop := x.slot = sl ∧ x.ma = .sticky ∧ stickyCovers x t.tag = true
    let set (f : Nat → Option Token) : List (Option Token) := [f 0, f 1, f 2, f 3]
    (a.arity = 0 → ts = [] → NextWith (exec .matcherTake s) fun u =>
      OnlyCore { s with nextId := s.nextId + 1 } u k ∧
      u.elem k e = { tookToken s k e q with fired := el.fired ++ [{ toks := set fun j => if j = 0 then some t else none, tag := t.tag,
                                                                    inst := t.inst.getD t.tag, due := s.now + 1 }] }) ∧
    (a.arity = 1 → (∀ x ∈ ts, ¬ here x ∧ ¬ covers x t.slot) →
      (∀ x, ts.filter (fun x => x.slot = 1 - t.slot ∧ x.tag = t.tag ∧ x.ma ≠ .sticky) = [x] → x.elem = e → x.fab = false →
        t.fab = false → NextWith (exec .matcherTake s) fun u =>
          (u.elem k e).fired = el.fired ++ [{ toks := set fun j => if j = t.slot then some t else if j = 1 - t.slot then some x else none
                                              tag := (if t.slot = 0 then t else x).tag
                                              inst := (if t.slot = 0 then t else x).inst.getD t.tag
                                              due := s.now + 1
                                              search := if (s.core k).tier2.contains x then some (s.now + 8) else none }] ∧
          (u.core k).stored e = ts.erase x) ∧
      (∀ x, ts.filter (fun x => x.slot = 1 - t.slot) = [x] → covers x (1 - t.slot) → x.fab = false → t.fab = false →
        NextWith (exec .matcherTake s) fun u =>
          (u.elem k e).fired = el.fired ++ [{ toks := set fun j => if j = t.slot then some t else if j = 1 - t.slot then some x else none
                                              tag := t.tag, inst := t.inst.getD t.tag, due := s.now + 1
                                              search := if (s.core k).tier2.contains x then some (s.now + 8) else none }] ∧
          (u.core k).stored e = ts)) ∧
    (1 ≤ a.arity.toNat → (∀ x ∈ ts, ¬ here x ∧ ¬ covers x t.slot) → (∀ x ∈ ts, x.slot ≠ t.slot → x.tag ≠ t.tag ∧ x.ma ≠ .sticky) →
      (s.core k).room1 e = true → NextWith (exec .matcherTake s) fun u =>
        u.elem k e = { tookToken s k e q with tier1 := el.tier1 ++ [t] } ∧ (u.core k).tier2 = (s.core k).tier2) ∧
    ((∃ x ∈ ts, here x ∨ covers x t.slot) →
      exec .matcherTake s = .next
        (((({ s with nextId := s.nextId + 1 } : State).onElem k e fun _ => tookToken s k e q).dupTag k e a t).onCore k Core.trimReserve))

open Sys2Proof Machine Claims in
/-- R44, R49, R50, R69, R327, R341: a STICKY token is stored, and one in b of a timed wait starts its timer (assumption log 121), and a
PURGE token removes it; the search of tier 2 comes back; tier 3 gives
its oldest token of an element back to a free entry; held tokens enter their queues in the order of arrival once their frame accepts tokens;
an expired timer removes its b token, leaves a tombstone and gives TIMEOUT. -/
def Sys2Proof.Claims.MatcherEvents : Prop :=
  (∀ (s : State) (k e opc : Nat) (a : ElemArgs) (q : Queued), TakesToken s k e opc a q → opc ≠ 0x102 → a.sub = none →
    q.tok.slot ≤ a.arity.toNat → a.arity ≠ 0 →
    let ts := (s.core k).stored e
    let t := { q.tok with ord := s.nextId }
    (q.tok.ma = .sticky → opc ≠ 0x1A5 ∨ q.tok.slot ≠ 1 → (s.core k).room1 e = true → ts = [] → NextWith (exec .matcherTake s) fun u =>
      u.elem k e = { tookToken s k e q with tier1 := [t] }) ∧
    (q.tok.ma = .sticky → opc = 0x1A5 → q.tok.slot = 1 → q.tok.origin = none → (s.core k).room1 e = true → ts = [] →
      (∀ x ∈ (s.elem k e).timers, x.tag ≠ t.tag) → NextWith (exec .matcherTake s) fun u =>
      u.elem k e = { tookToken s k e q with
        tier1 := [t], timers := (s.elem k e).timers ++ [{ tag := t.tag, expiry := s.timerNow k + t.val.toNat }] }) ∧
    (∀ x, q.tok.ma = .purge → ts = [x] → x.elem = e → x.ma = .sticky → x.slot = t.slot → sameSticky x t = true →
      NextWith (exec .matcherTake s) fun u => (u.core k).stored e = [] ∧ (u.elem k e).fired = (s.elem k e).fired)) ∧
  (∀ (s : State) (k e : Nat), s.agent = .elem k e → k < 64 → e < 1024 →
    (∀ pre f post c, (s.elem k e).fired = pre ++ f :: post → f.search = some c → c ≤ s.now →
      (∀ x ∈ pre, ∀ d, x.search = some d → s.now < d) → NextWith (exec .tier2SearchReturn s) fun u =>
        OnlyCore s u k ∧ u.elem k e = { s.elem k e with fired := pre ++ { f with search := none, due := s.now + 1 } :: post }) ∧
    (∀ opc a x b, (s.elem k e).instr.bind elemParts = some (opc, a) → (s.elem k e).expired (s.timerNow k) = some x →
      exactMatch ((s.core k).stored e) 1 x.tag = some b →
      exec .waitTTimeout s = .next
        (((s.onElem k e fun el => { el with timers := el.timers.erase x }).onCore k fun c =>
            ((c.unstore b).onElem e fun el => { el with tombs := el.tombs ++ [x.tag] }).trimReserve).yield
          { k := k, e := e, args := a, frame := (s.elem k e).frame, slot := (s.elem k e).slot, inst := b.inst.getD b.tag,
            ready := s.now + 1 }
          { vals := [0, b.val.toNat, 0, 0], toks := [none, some b, none, none], tag := b.tag }
          (.emit [some 0, some 1, some 1] (tagApply a.tagOp b.tag) b.d false true)))) ∧
  ∀ (s : State) (k : Nat), s.agent = .core k → k < 64 →
    let c := s.core k
    (∀ t in2, c.nextReinject = some (t, in2) → NextWith (exec .tier3Reinject s) fun u => t ∈ c.tier3 ∧
      (u.core k).tier3 = c.tier3.erase t ∧
      (u.elem k t.elem).queue = (s.elem k t.elem).queue ++ [{ tok := t, entered := s.now, hold := some in2 }]) ∧
    (∀ t, c.tier3 = [t] → (c.elem t.elem).tier1.length + (c.elem t.elem).flying1 < 8 → NextWith (exec .tier3Reinject s) fun u =>
      (u.core k).tier3 = [] ∧ (u.elem k t.elem).queue = (s.elem k t.elem).queue ++ [{ tok := t, entered := s.now, hold := some false }]) ∧
    (∀ t t', c.tier3 = [t, t'] → t'.elem = t.elem → tagOlder (c.frame (c.elem t.elem).frame).levels t'.tag t.tag = true →
      (c.elem t.elem).tier1.length + (c.elem t.elem).flying1 < 8 → NextWith (exec .tier3Reinject s) fun u =>
      (u.core k).tier3 = [t] ∧ (u.elem k t.elem).queue = (s.elem k t.elem).queue ++ [{ tok := t', entered := s.now, hold := some false }]) ∧
    ((∀ t ∈ c.tier3, c.entryFor (c.oldestOf t) = none) → exec .tier3Reinject s = .next s) ∧
    (let go (h : Held) : Bool := match destFrame h.dest with | some f => c.accepts s.now f | none => false
     c.lost = [] → (∀ h ∈ c.arrival, ∃ e sl, h.dest = .elem e sl) →
      NextWith (exec .arrivalBufferRelease s) fun u =>
        (u.core k).arrival = c.arrival.filter (fun h => !go h) ∧
        ∀ e, (s.elem k e).blocked = false → (s.elem k e).instr.isSome = true →
          (u.elem k e).queue = (s.elem k e).queue ++ (c.arrival.filter go).filterMap fun h =>
            match h.dest with
            | .elem e' sl => if e' = e then some { tok := { h.tok with elem := e, slot := sl }, entered := s.now } else none
            | _ => none)

open Sys2Proof Machine Claims in
/-- R44 to R51, R69, R326, R327, R341: what the matching store does with tokens. -/
def Obligations.Matching : Prop := MatcherTakesToken ∧ MatcherEvents

open Sys2Proof Machine Claims in
/-- R60, R61, R62, R428, R429, R433, R434: an instance that is complete and holds its commit token commits, releases every access that it
held and passes the token on by its frame's CNEXT; one that is not stays. A fault that may be reported writes its record, and its context is
suspended, or killed where the launch asks for it; the record of a stream's fault names the element that its block input leads to now
(R429). -/
def Sys2Proof.Claims.CommitsAndPreciseFaults : Prop :=
  (∀ (s : State) (k f : Nat) (t : Tag), s.agent = .inst k f t → k < 64 → f < 8 →
    let c := s.core k
    (∀ i, c.inst? f t = some i → c.complete i = true → (f, t) ∈ c.commits → s.ctxRuns k (ctxOf t) = true →
      NextWith (exec .commitInstance s) fun u =>
        (∃ i', (u.core k).inst? f t = some i' ∧ i'.committed = true) ∧
        (∀ x ∈ (u.core k).accesses, x.frame = f → x.inst = t → x.stage ≠ .held) ∧
        (u.core k).accesses.map (·.id) = c.accesses.map (·.id) ∧
        (∀ g op t', (c.frame f).cnext = some (.frame g op) → tagApply op t = .ok t' →
          (u.core k).commits = c.commits.erase (f, t) ++ [(g, t')]) ∧
        (∀ op t', (c.frame f).cnext = some (.here op) → tagApply op t = .ok t' →
          (u.core k).commits = c.commits.erase (f, t) ++ [(f, t')]) ∧
        ((c.frame f).cnext = some .last ∨ (c.frame f).cnext = some .entry → (u.core k).commits = c.commits.erase (f, t)) ∧
        SameMemory s u) ∧
    (∀ i, c.inst? f t = some i → c.complete i = false ∨ (f, t) ∉ c.commits → exec .commitInstance s = .next s)) ∧
  ∀ (s : State) (k l : Nat) (x : Launch) (p : Precise) (rest : List Precise) (a part : Nat), s.agent = .core k → k < 64 →
    s.coreLaunch k = some (l, x) → x.part = some part → x.st = .running → (s.core k).precise = p :: rest → s.reportable k x p = true →
    x.ctxKilled p.ctx = false → p.va = some a →
    let r := (s.onCore k fun c => { c with precise := rest }).recordWord p.word p.otag
    let s1 := r.2
    let trap (action : Nat) (res : Bool) : Trap :=
      { kind := 0, action := action, res := res, queue := x.q, word := r.1, otag := p.otag, va := some a, score := k, x := p.place.x,
        y := p.place.y, node := p.place.node, frame := p.place.frame, slot := p.place.slot, cid := x.cid, ctx := p.ctx, itag := p.itag,
        d := p.d }
    (x.cmd.kpol = false → exec .faultPrecise s = .next ((s1.postCore k part (trap 1 p.res)).suspendCtx l p.ctx p.res)) ∧
    (x.cmd.kpol = true → exec .faultPrecise s = .next
      (((s1.postCore k part (trap 2 false)).onLaunch l fun y =>
        { y with firstKill := some (y.firstKill.getD (s.part part).ring.seq.toNat) }).killCtx l p.ctx)) ∧
    ((∀ v ∈ (s.core (originCore p.word)).streamFaults, ¬ (v.otag = p.otag ∧ v.code = p.word.toNat / 2 ^ 24)) → r.1 = p.word) ∧
    (∀ v, (s.core (originCore p.word)).streamFaults = [v] → v.otag = p.otag → v.code = p.word.toNat / 2 ^ 24 →
      let e := (s.core (originCore p.word)).inputOrigin v.frame v.input
      r.1 = faultWord v.code (originCore p.word) (e % 32) (e / 32) (p.word.toNat % 2 ^ 8) ∧
      (s1.core (originCore p.word)).streamFaults = [])

open Sys2Proof Machine Claims in
/-- R128, R433, R434: suspending a context of a launch marks it and holds a CTXFAULT for each sequencer of the launch that has a trap vector
(assumption log 28); killing one marks it and removes its tokens, fired sets, messages, handlers and commit tokens from every core of the
launch, and no token of another context (which of these a kill removes is the model's reading, assumption log 115). -/
def Sys2Proof.Claims.ContextsSuspendedAndKilled : Prop :=
  (∀ (s : State) (l ctx : Nat) (res : Bool), Tab.find? (s.launch l).fates ctx = none →
    let t := s.suspendCtx l ctx res
    Tab.find? (t.launch l).fates ctx = some (.suspended res) ∧ t.cores = s.cores ∧ SameMemory s t ∧
    (∀ c, c ∉ (s.launch l).clusters → t.seq c = s.seq c) ∧
    ∀ c ∈ (s.launch l).clusters, t.seq c =
      if (s.seq c).tvec = 0 then s.seq c else { s.seq c with ctxfaults := (s.seq c).ctxfaults ++ [ctx] }) ∧
  (∀ (c : Core) (ctx e : Nat),
    let c' := c.dropCtx ctx
    (∀ x ∈ (c'.elem e).tier1, ctxOf x.tag ≠ ctx) ∧ (∀ x ∈ (c'.elem e).queue, ctxOf x.tok.tag ≠ ctx) ∧
    (∀ x ∈ (c'.elem e).fired, ctxOf x.tag ≠ ctx) ∧ (∀ x ∈ c'.tier2 ++ c'.tier3, ctxOf x.tag ≠ ctx) ∧
    (∀ x ∈ c'.transit, ctxOf x.msg.tag ≠ ctx) ∧ (∀ x ∈ c'.commits, ctxOf x.2 ≠ ctx) ∧
    (∀ n r, (c'.node n).running = some r → ctxOf r.task.tag ≠ ctx) ∧ (∀ n, ∀ x ∈ (c'.node n).pending, ctxOf x.tag ≠ ctx) ∧
    (∀ x, ctxOf x.tag ≠ ctx → (x ∈ (c'.elem e).tier1 ↔ x ∈ (c.elem e).tier1) ∧ (x ∈ c'.tier2 ↔ x ∈ c.tier2) ∧
      (x ∈ c'.tier3 ↔ x ∈ c.tier3)) ∧
    c'.cells = c.cells ∧ c'.frames = c.frames)

open Sys2Proof Machine Claims in
/-- R60 to R62, R128, R428, R433, R434: commits, precise faults, and contexts that are suspended and killed. -/
def Obligations.CommitAndContexts : Prop := CommitsAndPreciseFaults ∧ ContextsSuspendedAndKilled

/-! ## Messages at nodes, copies, barriers and drains -/

open Sys2Proof Machine Claims in
/-- R62, R63, R65, R190, R192, R202: a packet that reaches a handler node enters its port, or waits in the pending queue where no handler is
bound to its type; an F packet is precise there and runs nothing at a matrix or accumulator port; the first pending task that is ready starts
its handler, or emits its F packet in the handler's place. -/
def Sys2Proof.Claims.HandlerNodes : Prop :=
  (∀ (s : State) (k n i port : Nat) (t : Transit) (kind : NodeKind), s.agent = .node k n → k < 64 → nodeKindOf n = some kind →
    s.nextTaken k n = some (i, t) → t.dest = .node n port → s.vanishes k t.msg.tag = false →
    let w := t.msg.packet
    let s1 := messageTaken s k i t
    let nd := s.node k n
    (w.f = false → (port = 0 → nd.wants = false) → Tab.find? nd.handlers w.task = none → nd.pending.length < 16 →
      NextWith (exec .nodePacketArrival s) fun u =>
        u.node k n = { nd with pending := nd.pending ++ [{ ty := w.task, tag := w.tag, packets := [(port, w)], formed := false }] } ∧
        SameMemory s u) ∧
    (∀ h, w.f = false → (port = 0 → nd.wants = false) → port < 4 → nd.ports.length = 4 → Tab.find? nd.handlers w.task = some h →
      h.reads = [port] → nd.port port = [] → nd.pending.length < 16 →
      NextWith (exec .nodePacketArrival s) fun u =>
        u.node k n = { nd with pending := nd.pending ++ [{ ty := w.task, tag := w.tag, packets := [(port, w)] }] } ∧ SameMemory s u) ∧
    (∀ h, w.f = false → (port = 0 → nd.wants = false) → port < 4 → nd.ports.length = 4 → Tab.find? nd.handlers w.task = some h →
      (∃ p ∈ h.reads, p ≠ port ∧ ∀ x ∈ nd.port p, ¬ (x.task = w.task ∧ x.tag = w.tag)) →
      NextWith (exec .nodePacketArrival s) fun u =>
        u.node k n = { nd with ports := nd.ports.set port (nd.port port ++ [w]) } ∧ SameMemory s u) ∧
    (w.f = true → kind = .matrix ∨ kind = .acc → nd.running = none →
      exec .nodePacketArrival s = .next (s1.preciseNode k n (w.lane 0) w.origin (t.msg.instOr w.origin) (t.src.getD 0) w.d
        (t.msg.ofInst (t.src.getD 0))))) ∧
  ∀ (s : State) (k n : Nat) (t : Task) (rest : List Task) (h : Handler), s.agent = .node k n → k < 64 → n < 36 →
    s.coreLive k = true → (s.node k n).running = none → (s.node k n).pending = t :: rest → rest.length < 16 →
    Tab.find? (s.node k n).handlers t.ty = some h → s.ctxRuns k (ctxOf t.tag) = true →
    let nd := s.node k n
    let dests := handlerDests (nodeKindOf n) h.cmds
    (t.fault = none → NextWith (exec .handlerDispatch s) fun u => OnlyNode s u k n ∧
      u.node k n = { nd with pending := rest, running := some { cmds := h.cmds, task := t, reads := h.reads, dests := dests,
                                                                next := s.now } }) ∧
    (∀ w, t.fault = some w → exec .handlerDispatch s = .next
      ((s.onNode k n fun nd => { nd with pending := rest }).emitDests k n dests (s.now + 1) { w with tag := t.tag }))

open Sys2Proof Machine Claims in
/-- R276, R347, R352, R353: a token at a memory node writes its payload at the position that its tag names in the tile of its port, or is a
precise fault; a token at the Serpent port is PROT 0x9D; at a commit node the first half of a result is held, a bad status is PROT 0x9A, a
token without a sequence context is PROT 0x94, and an F token is precise. -/
def Sys2Proof.Claims.TokensAtFixedNodes : Prop :=
  ∀ (s : State) (k n i port : Nat) (t : Transit), s.agent = .node k n → k < 64 → NextMessage s k n i t port →
    let w := t.msg.packet
    let s1 := messageTaken s k i t
    let fr := t.src.getD 0
    let precise (word : Word) (o : Tag) : Out :=
      .next (s1.preciseNode k n word o (t.msg.instOr o) fr w.d (t.msg.ofInst fr))
    let bad (code detail : Nat) : Out := precise (nodeWord k n code detail) w.tag
    (∀ x ty, n < 16 → (s.core k).gathers = [] → t.msg = .narrow x ty →
      let tile := (s.core k).tile ((ty + 64 * port) % 256)
      let pos := x.tag.toNat % 2 ^ 16
      let off := tile.firstByte + 4 * pos
      let raise (code detail : Nat) : Out :=
        .next (s1.preciseNode k n (nodeWord k n code detail) x.tag (x.inst.getD x.tag) fr x.d (x.inst.map fun u => (fr, u)))
      (x.origin = none → tile.st = .empty → exec .gatherWrite s = raise 0x04 0x31) ∧
      (x.origin = none → tile.st ≠ .empty → tile.bytes ≤ 4 * pos → exec .gatherWrite s = raise 0x04 0x30) ∧
      (x.origin = none → tile.st = .ready → 4 * pos < tile.bytes → tile.isI = true → (s.core k).scrFull (off / 4) = true →
        exec .gatherWrite s = raise 0x09 0) ∧
      (x.origin = none → tile.st = .ready → 4 * pos < tile.bytes → (tile.isI = true → (s.core k).scrFull (off / 4) = false) →
        NextWith (exec .gatherWrite s) fun u => Stored s u k off 4 x.val.toNat ∧ (u.core k).scrFull (off / 4) = true) ∧
      (x.origin = none → tile.st = .draining → 4 * pos < tile.bytes → tile.isI = false → NextWith (exec .gatherWrite s) fun u =>
        (u.core k).gathers = [{ node := n, port := port, msg := t.msg, frame := fr }] ∧ SameMemory s u)) ∧
    (n = 35 → exec .serpentPortStray s = bad 0x04 0x9D) ∧
    (n = 34 →
      (w.f = true → exec .commitNodeResult s = precise (w.lane 0) w.origin) ∧
      (w.f = false → 2 ≤ port → exec .commitNodeResult s = bad 0x04 0x95) ∧
      (w.f = false → port < 2 → slotOf w.tag = none → exec .commitNodeResult s = bad 0x04 0x94) ∧
      (∀ q p, w.f = false → port < 2 → slotOf w.tag = some q → s1.corePart k = some p →
        ((s1.part p).hasSlot q = false → exec .commitNodeResult s = bad 0x04 0x90) ∧
        ((s1.part p).hasSlot q = true → port = 1 → (w.lane 0).toNat % 4 = 3 ∨ 8 ≤ (w.lane 0).toNat →
          exec .commitNodeResult s = bad 0x04 0x9A) ∧
        ((s1.part p).hasSlot q = true → port = 0 → (s.core k).results = [] →
          exec .commitNodeResult s = .next (s1.onCore k fun c =>
            { c with results := [{ slot := q, iter := iterOf w.tag, tag := w.tag, index := some (w.lane 0, w.d), src := t.src }] }))))

open Sys2Proof Machine Claims in
/-- R62 to R65, R190, R276, R347, R352, R353: what nodes do with the tokens and packets that reach them. -/
def Obligations.NodesTakeTokens : Prop := HandlerNodes ∧ TokensAtFixedNodes

open Sys2Proof Machine Claims in
/-- R279, R280, R283, R332 to R334, R352, R359, R433: a released copy starts where its tiles and its context allow it, its source tile
draining, and keeps the destination words that it names then; a running one copies its next row there; the DONE of a barrier's oldest
episode and the end of a page drain when their time has come: `kv.attach` hands its pages over, `kv.free` returns its frames, and `seq.close`
frees its slot once every drain of the slot has ended. The model's choices are that one row is copied in a step (assumption log 11), when a
drain ends (assumption log 67) and that `kv.free` counts private frames alone (assumption log 68). -/
def Obligations.CopiesAndCompletions : Prop :=
  (∀ (s : State) (k : Nat) (x : Access), s.agent = .access k x.id → k < 64 → (s.core k).access? x.id = some x → x.opc = 0x14D →
    (s.coreLaunch k).all (fun l => l.2.st != .stopped) = true →
    let a := x.opnds.val 0
    let b := x.opnds.val 1
    let no := a / 2 ^ 24 % 2 ^ 8
    let t := (s.core k).tile no
    let row0 := a / 2 ^ 8 % 2 ^ 11
    let rows := a % 2 ^ 8 + 1
    let dc := k / 4 * 4 + a / 2 ^ 20 % 4
    let u := (s.core dc).tile (b / 2 ^ 24 % 2 ^ 8)
    let r := b / 2 ^ 13 % 2 ^ 11
    let drained (s : State) : Prop :=
      ((s.core k).tile no).st = .draining ∧ ((s.core k).access? x.id).map (·.stage) = some .copying
    (x.stage = .ready → x.ringAt = none → (s.core k).copyBehind x = false →
      (s.coreLaunch k).any (fun l => l.2.ctxSuspended (ctxOf x.inst)) = false →
      (t.st = .empty → exec .sendCopy s = .next (s.fail k x { code := 0x04, detail := 0x31 })) ∧
      (t.st = .ready → t.nrow + 1 < row0 + rows → exec .sendCopy s = .next (s.fail k x { code := 0x04, detail := 0x30 })) ∧
      (t.st = .filling ∨ t.st = .draining → exec .sendCopy s = .next s) ∧
      (a / 2 ^ 22 % 4 = 0 → t.st = .ready → row0 + rows ≤ t.nrow + 1 → u.st = .ready ∨ u.st = .filling → r + rows ≤ u.nrow + 1 →
        u.isI = false → NextWith (exec .sendCopy s) fun v => drained v ∧ SameMemory s v ∧
          ((v.core k).access? x.id).map (·.va) = some (windowBase + (u.firstByte + 256 * r)))) ∧
    (x.stage = .ready → (s.coreLaunch k).any (fun l => l.2.ctxSuspended (ctxOf x.inst)) = true → exec .sendCopy s = .next s) ∧
    (x.stage = .copying → (∀ y ∈ (s.core k).accesses, y.id = x.id → y = x) → a / 2 ^ 22 % 4 = 0 → x.row + 1 < rows →
      (s.core k).scrPoisoned (t.firstByte + 256 * (row0 + x.row)) 256 = false →
      let src := t.firstByte + 256 * (row0 + x.row)
      let dst := x.va - windowBase + 256 * x.row
      NextWith (exec .sendCopy s) fun v =>
        (∀ j < 256, byteAt (v.core dc).cells (dst + j) = byteAt (s.core k).cells (src + j)) ∧
        (∀ j, (j < dst ∨ dst + 256 ≤ j) → byteAt (v.core dc).cells j = byteAt (s.core dc).cells j) ∧
        (∀ d j, d ≠ dc → byteAt (v.core d).cells j = byteAt (s.core d).cells j) ∧
        ((v.core k).access? x.id).map (·.row) = some (x.row + 1))) ∧
  (∀ (s : State) (p n l t : Nat) (rest : List Nat), s.agent = .route p n → p < 8 → n < 8 →
    let r := Tab.get {} (s.part p).routes n
    r.due = t :: rest → r.holder = some l → t ≤ s.now → NextWith (exec .barrierDone s) fun u =>
      let r' := Tab.get {} (u.part p).routes n
      r'.done = r.done + 1 ∧ r'.due = rest ∧ r'.ep = r.ep ∧ r'.cnt = r.cnt ∧ SameMemory s u) ∧
  (∀ (s : State) (p n l t : Nat) (rest : List Nat), s.agent = .route p n → p < 8 → n < 8 →
    let r := Tab.get {} (s.part p).routes n
    r.due = t :: rest → r.holder = some l → s.now < t → exec .barrierDone s = .next s) ∧
  ∀ (s : State) (d : KvDrain) (rest : List KvDrain), s.agent = .device → s.drains = d :: rest →
    ((∀ e ∈ d :: rest, ∃ a ∈ e.pages, s.pageStores e.slot a = true) → exec .kvDrainDone s = .next s) ∧
    (∀ x p l L, (∀ a ∈ d.pages, s.pageStores d.slot a = false) → (s.core d.core).access? d.access = some x →
      s.corePart d.core = some p → s.coreLaunch d.core = some (l, L) →
      (x.opc = 0x1C5 → exec .kvDrainDone s = .next
        ((({ s with drains := rest } : State).returnFrames p d.slot d.freed).finish d.core x (privateFrames d.freed).length x.opnds.dAll)) ∧
      (x.opc = 0x1C4 → NextWith (exec .kvDrainDone s) fun u => u.drains = rest ∧ SameMemory s u ∧
        ∀ a ∈ d.pages, Tab.find? (u.slot d.slot).pages a =
          (Tab.find? (s.slot d.slot).pages a).map fun e => kvEntry (kvShared e.toNat) L.q (kvFrame e.toNat)) ∧
      (x.opc = 0x1C1 → (∀ e ∈ rest, e.slot ≠ d.slot) → NextWith (exec .kvDrainDone s) fun u =>
        let r := s.slot d.slot
        let n := (privateFrames d.freed).length
        u.slot d.slot = {} ∧ u.drains = rest ∧ SameMemory s u ∧
        (u.part p).unclaimed = (s.part p).unclaimed + n - (r.need - (r.held - n)) ∧ (r.gv = true → Tab.find? u.serpents r.gctx = none))) ∧
    (∀ x o, rest = [o] → o.slot = d.slot → o ≠ d → (∃ a ∈ o.pages, s.pageStores o.slot a = true) →
      (s.core d.core).access? d.access = some x → x.opc = 0x1C1 → exec .kvDrainDone s = .next s)

/-! ## Phases, launches and the scheduler -/

open Sys2Proof Machine Claims in
/-- R123, R126, R338, R340, R429: the open phase of a launch ends where it is quiescent, nothing waits in `phase.wait`, nothing is parked and
no fault is open; its STICKY tokens and tombstones go. At the boundary every `pbar` gives the number of the phase that opens and its
sequencer goes on; a launch whose sequencers all wait in `halt` completes. -/
def Obligations.PhaseEnds : Prop :=
  ∀ (s : State) (l : Nat) (x : Launch), s.agent = .launch l → Tab.find? s.launches l = some x →
    (s.quiescent x = false → exec .quiescenceDetect s = .next s) ∧
    (s.quiescent x = true → (∀ k ∈ x.cores, (s.core k).phaseWaits = [] ∧ (s.core k).parked = 0) → s.faultsOpen x = false →
      NextWith (exec .quiescenceDetect s) fun t =>
        t.launch l = { x with isOpen := false, ended := x.phase } ∧ SameMemory s t ∧
        (∀ k ∈ x.cores, (t.core k).vas = [] ∧ (∀ y ∈ (t.core k).tier2, y.ma ≠ .sticky) ∧
          ∀ e, (t.elem k e).tombs = [] ∧ ∀ y ∈ (t.elem k e).tier1, y.ma ≠ .sticky)) ∧
    (x.st ≠ .running ∨ x.isOpen = true ∨ s.sequencersWait x = false → exec .phaseBoundary s = .next s) ∧
    (x.st = .running → x.isOpen = false → s.sequencersWait x = true →
      (∀ (xd : Nat → BitVec 5) (t : Tab Nat) (s1 : State),
        s.readAdapters x.asid x.cmd.hbase.toNat = (.ok t, s1) → s1.seqs = s.seqs → s1.launches = s.launches → x.clusters ≠ [] →
        (∀ c ∈ x.clusters, (s.seq c).mode = .wait ∧ (s.seq c).waitFor = .pbar (xd c) ∧ GoodPc (s.seq c) ((s.seq c).pc + 4)) →
        NextWith (exec .phaseBoundary s) fun u =>
          (u.launch l).phase = x.phase + 1 ∧ (u.launch l).isOpen = true ∧ (u.launch l).adapters = t ∧
          ∀ c ∈ x.clusters, (u.seq c).mode = .run ∧ (u.seq c).phase = x.phase + 1 ∧
            ∀ y : BitVec 5, (u.seq c).reg y = if y ≠ 0 ∧ y = xd c then BitVec.ofNat 64 (x.phase + 1) else (s.seq c).reg y) ∧
      (∀ c, x.clusters = [c] → (s.seq c).mode = .wait → (s.seq c).waitFor = .halt → exec .phaseBoundary s = .next
        (((s.onSeq c fun q => { q with mode := .halted, waitFor := .none, phase := 0 }).onLaunch l fun x => { x with ended := 0 }).haltLaunch
          l)))

open Sys2Proof Machine Claims in
/-- R124, R125, R136, R137, R343: the loader of a cluster reads the next block of its chain, and generates its control or feeds its
parameters; a malformed block fails the launch with BADCHAIN and an unreadable one with BADADDR. A waiting `cwait` goes on once its object
has reached the target. A failed launch completes with its failure once what it released has finished; a pre-empted one is saved or
discarded once it has come to rest, and its PREEMPT completes unless its queue has abandoned it. The model's readings are that a block may
lie in OPEN or IMAGE memory (assumption log 149), what a failing launch waits for and that a reset writes no record (assumption log 87), that
an area of 0 discards the launch (assumption log 88), what is at rest in a drain (assumption log 89), what becomes of the launch's SPILL
records and epochs (assumption log 90), and that a PREEMPT abandoned by RING.RESTART still drains (assumption log 134). -/
def Obligations.ChainsAndLaunchEnds : Prop :=
  (∀ (s : State) (c li : Nat) (L : Launch), s.agent = .loader c → c < 16 → s.seqLaunch c = some (li, L) → L.st = .running →
    (s.seq c).chainEnded = false →
    let q := s.seq c
    (q.held ≠ [] → exec .chainBlockLoad s = .next (s.onSeq c fun q =>
      { q with params := q.params ++ q.held.take (64 - q.params.length), held := q.held.drop (64 - q.params.length) })) ∧
    (q.held = [] → q.chainNext = 0 → q.chainFirst = false → L.links[q.chainUsed]? = none → exec .chainBlockLoad s = .next s) ∧
    (∀ a, q.held = [] → q.chainNext = 0 → q.chainFirst = false → L.links[q.chainUsed]? = some a →
      exec .chainBlockLoad s = .next (s.onSeq c fun q => { q with chainNext := a, chainUsed := q.chainUsed + 1 })) ∧
    (q.held = [] → q.chainNext ≠ 0 ∨ q.chainFirst = true →
      (∀ e s1, s.sysRead (some c) L.asid q.chainNext 64 clsOpenOrImage = (.error e, s1) →
        exec .chainBlockLoad s = .next (s1.seqStop c { status := 0x04, detail1 := q.chainNext })) ∧
      (∀ bs s1, s.sysRead (some c) L.asid q.chainNext 64 clsOpenOrImage = (.ok bs, s1) → s1.seq c = q →
        let ws := wordsOfBytes bs
        let b : Block := { va := q.chainNext, kind := wordAt ws 0 / 2 ^ 24, count := wordAt ws 0 % 8, ws := ws }
        (b.formOk = false ∨ b.placeOk q = false →
          exec .chainBlockLoad s = .next (s1.seqStop c { status := 0x13, detail1 := q.chainNext })) ∧
        (b.formOk = true → b.placeOk q = true → b.next % 64 ≠ 0 →
          exec .chainBlockLoad s = .next (s1.seqStop c { status := 0x13, detail1 := b.next })) ∧
        (b.formOk = true → b.placeOk q = true → b.next % 64 = 0 →
          let on : Seq := { q with chainNext := b.next, chainFirst := false }
          let act (i : Instr) : GenAction := { regs := [], instr := i, block := b.va, entry := 0 }
          (b.kind = 0x03 → q.ranNative = false → exec .chainBlockLoad s = .next (s1.onSeq c fun _ =>
            { on with sawPhase := true, gen := q.gen ++ [act (.pbar 0 0)] })) ∧
          (b.kind = 0x0F → q.ranNative = false → exec .chainBlockLoad s = .next (s1.onSeq c fun _ =>
            { on with chainEnded := true, gen := q.gen ++ [act (.pbarFinal 0 0), act (.halt 0)] })) ∧
          (b.kind = 0x04 → b.count ≤ 64 - q.params.length → exec .chainBlockLoad s = .next (s1.onSeq c fun _ =>
            { on with params := q.params ++ (List.range b.count).map fun i => BitVec.ofNat 64 (b.entry i) })))))) ∧
  (∀ (s : State) (c a target v : Nat) (l : Nat × Launch) (s1 : State), s.agent = .seq c → c < 16 → s.seqLaunch c = some l →
    l.2.st = .running → (s.seq c).mode = .wait → (s.seq c).waitFor = .cwait a target → s.seqRead c a 8 = (some v, s1) →
    (v < target → exec .cwaitObjectRead s = .next s1) ∧
    (target ≤ v → exec .cwaitObjectRead s = .next
      ((s1.onSeq c fun q => { q with mode := .run, waitFor := .none }).seqGo c ((s1.seq c).pc + 4)))) ∧
  (∀ (s : State) (l : Nat) (x : Launch) (f : Failure) (p : Nat), s.agent = .launch l → Tab.find? s.launches l = some x →
    x.st = .failing → x.failure = some f → x.part = some p →
    let quiet := s.epochsMove x = false ∧ ∀ k ∈ x.cores, ∀ a ∈ (s.core k).accesses, (s.core k).isReleased a = true → s.moves k a = false
    (¬ quiet → exec .launchFailComplete s = .next s) ∧
    (quiet → f.byReset = false → x.preempt = none → exec .launchFailComplete s = .next
      ((((s.giveSpill x).dropEpochs x).post p (f.trap x)).endLaunch l f.status f.detail0 f.detail1)) ∧
    (quiet → f.byReset = true → exec .launchFailComplete s = .next
      ((((s.giveSpill x).dropEpochs x).post p (f.trap x)).freeLaunch l))) ∧
  ∀ (s : State) (l area p : Nat) (q : Option Nat) (x : Launch) (h : CmdHeader), s.agent = .launch l → Tab.find? s.launches l = some x →
    x.st = .draining → x.preempt = some (q, h, area) → x.part = some p →
    let rests := s.epochsMove x = false ∧ ∀ k ∈ x.cores, s.coreRests k = true
    (¬ rests → exec .preemptDrainDone s = .next s) ∧
    let freed := ((s.giveSpill x).dropEpochs x).endLaunch l 0x15 0 0
    (∀ n, rests → area = 0 → q = some n → exec .preemptDrainDone s = .next (freed.completeHead n h 0x00 0 0)) ∧
    (rests → area = 0 → q = none → exec .preemptDrainDone s = .next freed) ∧
    (rests → area ≠ 0 → exec .preemptDrainDone s = .next (s.saveLaunch l x p q h area))

open Sys2Proof Machine Claims in
/-- R323, R324, R377: a wait object is read, and its command becomes ready once the object has reached the target; a queue that a teardown
left in place answers DENIED to its next command. A slot of the scheduler of a
domain takes one ready queue in 8 cycles: an aged one, the oldest, before any other, else one of the priority that the round visits; the ages
of the ready queues that it passes over rise. -/
def Sys2Proof.Claims.SchedulerSlots : Prop :=
  (∀ (s : State) (q : Nat) (i : Instr) (a v : DWord), s.agent = .queue q → q < 131072 → (s.queue q).head = .waiting i →
    (headerOf i).wait = some (a, v) →
    ((s.queue q).left = true → exec .waitObjectPoll s = .next
      ((s.completeHead q (headerOf i) 0x02 0 0).onQueue q fun x => { x with left := false })) ∧
    ((s.queue q).left = false →
    (∀ e s1, s.queueRead (s.queue q).asid a.toNat 8 = (.error e, s1) →
      Answers (exec .waitObjectPoll s) s1 q (headerOf i) 0x04 0 a.toNat) ∧
    (∀ bs s1, s.queueRead (s.queue q).asid a.toNat 8 = (.ok bs, s1) →
      (ofLeBytes bs < v.toNat → exec .waitObjectPoll s = .next s1) ∧
      (v.toNat ≤ ofLeBytes bs → exec .waitObjectPoll s = .next (s1.onQueue q fun x => { x with head := .ready i }))))) ∧
  ∀ (s : State) (d : Nat), s.agent = .sched d → d < 9 →
    let qs := (s.queues.filter fun x => x.2.known && s.queueDomain x.1 == d).map (·.1)
    let ready (q : Nat) : Prop := q ∈ qs ∧ s.queueReady q = true
    (s.now < (Tab.get {} s.scheds d).nextSlot → exec .schedulerSlot s = .next s) ∧
    ((Tab.get {} s.scheds d).nextSlot ≤ s.now →
      (∀ q ∈ qs, (s.queue q).head ≠ .idle ∧ (s.queue q).prio < 4 ∧ (s.queue q).left = false) → Tab.wf s.queues = true →
      NextWith (exec .schedulerSlot s) fun t =>
        (Tab.get {} t.scheds d).nextSlot = s.now + 8 ∧ SameMemory s t ∧
        ((∀ q, ¬ ready q) → ∀ q, (t.queue q).head = (s.queue q).head) ∧
        ((∃ q, ready q) → ∃ q i, ready q ∧ (s.queue q).head = .ready i ∧ (t.queue q).head = .running i ∧ (t.queue q).age = 0 ∧
          (∀ o, o ≠ q → (t.queue o).head = (s.queue o).head) ∧
          (∀ o, ready o → o ≠ q → (t.queue o).age = (s.queue o).age + 1) ∧
          ((∃ o, ready o ∧ 4096 ≤ (s.queue o).age) → 4096 ≤ (s.queue q).age ∧ ∀ o, ready o → (s.queue o).age ≤ (s.queue q).age)))

/-! ## Queue commands -/

open Sys2Proof Machine Claims in
/-- R132, R134, R135: the completion of a command. Its record, with the phase bit of its slot, the status, the CID and the details, is
written in the slot of its index; R advances past it where it has not; the next command comes to the head; BADCMD puts the queue in ERROR;
a signal value is written where the command asks for one. That the posted writes reach the host ahead of a record is the model's reading
(assumption log 137). -/
def Sys2Proof.Claims.CommandCompletion : Prop :=
  (∀ (s : State) (q : Nat) (k : Word) (status cid d0 d1 : Nat), status < 2 ^ 15 →
    let x := s.queue q
    let n := 2 ^ (4 + x.size)
    let a := x.crbase + 16 * (k.toNat % n)
    let t := s.writeCompletion q k status cid d0 d1
    numberAt t.hostMem a 4 = (1 - k.toNat / n % 2) * 2 ^ 31 + status * 2 ^ 16 + cid % 2 ^ 16 ∧ numberAt t.hostMem (a + 4) 4 = d0 % 2 ^ 32 ∧
    numberAt t.hostMem (a + 8) 8 = d1 % 2 ^ 64 ∧ (∀ b, (b < a ∨ a + 16 ≤ b) → byteAt t.hostMem b = byteAt s.hostMem b) ∧
    t.posted = [] ∧ { t with hostMem := s.hostMem, posted := s.posted } = s) ∧
  ∀ (s : State) (q : Nat) (h : CmdHeader) (status d0 d1 : Nat), h.sig = none →
    let x := s.queue q
    let t := s.completeHead q h status d0 d1
    (t.queue q).next = x.next + 1 ∧ (t.queue q).head = .idle ∧ (t.queue q).error = (x.error || decide (status = 0x03)) ∧
    (x.r = x.next → (t.queue q).r = x.next + 1) ∧ (∀ o, o ≠ q → t.queue o = s.queue o) ∧
    t.hostMem = (s.writeCompletion q x.next status h.cid.toNat d0 d1).hostMem ∧ t.hbm = s.hbm ∧ t.cores = s.cores ∧
    (h.irq = false → t.fns = s.fns)

open Sys2Proof Machine Claims in
/-- R132, R134, R135, R323, R324: the completion of a command, and the scheduler that picks the next. -/
def Obligations.CommandsComplete : Prop := CommandCompletion ∧ SchedulerSlots

open Sys2Proof Machine Claims in
/-- R28, R138, R287, R374 to R377, R386, R387, R390, R432, R442: the commands on the package, partitions, ranks, translations and rings:
what each answers, and what it changes where it is not denied. That a RING.RESTART leaves the head of its queue idle whatever runs there is
the model's reading (assumption log 134), as are the address that an overlap of pools reports and the OK of a teardown of a partition that is
not configured (assumption log 82). -/
def Obligations.DeviceCommands : Prop :=
  (∀ (s : State) (q : Nat) (h : CmdHeader) (dst : DWord) (len : Word),
    let asid := (s.queue q).asid
    let list := (bytesOfWords (s.capWords (fnOf q))).take len.toNat
    let word := leBytes s.health 4 ++ leBytes s.board.gen.toNat 4 ++ leBytes s.board.failed 4 ++ leBytes 0 4
    (∀ s1, Executes s q (.capRead h dst len) → s.queueWrite asid dst.toNat list = (.ok (), s1) →
      Answers (exec (.capRead h dst len) s) s1 q h 0 list.length 0) ∧
    (∀ s1, Executes s q (.healthRead h dst) → s.queueWrite asid dst.toNat word = (.ok (), s1) →
      Answers (exec (.healthRead h dst) s) s1 q h 0 s.board.failed 0) ∧
    (∀ e s1, Executes s q (.healthRead h dst) → s.queueWrite asid dst.toNat word = (.error e, s1) →
      Answers (exec (.healthRead h dst) s) s1 q h 0x04 0 dst.toNat)) ∧
  (∀ (s : State) (q : Nat) (h : CmdHeader) (m : BitVec 2), Executes s q (.modeSet h m) →
    (fnOf q = 0 → Answers (exec (.modeSet h m) s) { s with board := { s.board with pending := some m.toNat } } q h 0 0 0) ∧
    (fnOf q ≠ 0 → Answers (exec (.modeSet h m) s) s q h 0x02 0 0)) ∧
  (∀ (s : State) (q : Nat) (h : CmdHeader) (c : PartCmd), Executes s q (.partitionCfg h c) →
    let p := c.part.toNat
    (fnOf q ≠ 0 ∨ s.cfgDenied c = true → Answers (exec (.partitionCfg h c) s) s q h 0x02 0 0) ∧
    (fnOf q = 0 → s.cfgDenied c = false → s.rootOf c = none → Answers (exec (.partitionCfg h c) s) s q h 0x04 0 c.root.toNat) ∧
    (∀ x s1 s2 spill kv, fnOf q = 0 → s.cfgDenied c = false → s.rootOf c = some x →
      (∀ y ∈ s.others p, rangesMeet x.slot0 x.nslot y.slot0 y.nslot = false) →
      (s.onPart p fun _ => x).poolFrames p x.first x.spillVa x.spillPages = (.ok spill, s1) →
      s1.poolFrames p x.first x.kvVa x.kvFrames.length = (.ok kv, s2) →
      rangesMeet x.spillVa (65536 * x.spillPages) x.kvVa (65536 * x.kvFrames.length) = false →
      Answers (exec (.partitionCfg h c) s) (s2.configure p x spill kv) q h 0 0 0) ∧
    (∀ x, fnOf q = 0 → s.cfgDenied c = false → s.rootOf c = some x →
      (∃ y ∈ s.others p, rangesMeet x.slot0 x.nslot y.slot0 y.nslot = true) → Answers (exec (.partitionCfg h c) s) s q h 0x02 0 0) ∧
    (∀ x s1 va, fnOf q = 0 → s.cfgDenied c = false → s.rootOf c = some x →
      (∀ y ∈ s.others p, rangesMeet x.slot0 x.nslot y.slot0 y.nslot = false) →
      ((s.onPart p fun _ => x).poolFrames p x.first x.spillVa x.spillPages = (.error va, s1) ∨
        (∃ spill s0, (s.onPart p fun _ => x).poolFrames p x.first x.spillVa x.spillPages = (.ok spill, s0) ∧
          s0.poolFrames p x.first x.kvVa x.kvFrames.length = (.error va, s1)) ∨
        (∃ spill kv s0, (s.onPart p fun _ => x).poolFrames p x.first x.spillVa x.spillPages = (.ok spill, s0) ∧
          s0.poolFrames p x.first x.kvVa x.kvFrames.length = (.ok kv, s1) ∧
          rangesMeet x.spillVa (65536 * x.spillPages) x.kvVa (65536 * x.kvFrames.length) = true ∧ va = max x.spillVa x.kvVa)) →
      ∃ t, Answers (exec (.partitionCfg h c) s) t q h 0x04 0 va ∧ t = { s1 with parts := t.parts, walkers := t.walkers } ∧
        Tab.find? t.parts p = none ∧ (∀ o, o ≠ p → Tab.find? t.parts o = Tab.find? s1.parts o) ∧
        ∀ w ∈ t.walkers, w ∈ s1.walkers ∧ ¬ (x.first ≤ w.asid ∧ w.asid < x.first + x.count))) ∧
  (∀ (s : State) (q : Nat) (h : CmdHeader) (c : PartCmd), Executes s q (.partitionTeardown h c) →
    (fnOf q ≠ 0 ∨ s.teardownDenied c.part.toNat = true → Answers (exec (.partitionTeardown h c) s) s q h 0x02 0 0) ∧
    (fnOf q = 0 → s.teardownDenied c.part.toNat = false → Answers (exec (.partitionTeardown h c) s) (s.teardown c.part.toNat) q h 0 0 0 ∧
      Tab.find? (s.teardown c.part.toNat).parts c.part.toNat = none)) ∧
  (∀ (s : State) (q : Nat) (h : CmdHeader) (c : RankCmd) (p o : Nat), Executes s q (.rankSet h c) → partOf s q = some p →
    s.rankActor (fnOf q) p c.job.toNat = some o →
    let j := (Tab.find? s.jobs c.job.toNat).getD { owner := o }
    (s.rankDenied o j c = true → Answers (exec (.rankSet h c) s) s q h 0x02 0 0) ∧
    (s.rankDenied o j c = false → 0 < (Tab.get {} j.ranks c.rank.toNat).pins → Answers (exec (.rankSet h c) s) s q h 0x11 0 0) ∧
    (s.rankDenied o j c = false → (Tab.get {} j.ranks c.rank.toNat).pins = 0 → ∃ j', Answers (exec (.rankSet h c) s)
      { s with jobs := Tab.set s.jobs c.job.toNat j' } q h 0 0 0 ∧ j'.owner = j.owner ∧
      Tab.get {} j'.ranks c.rank.toNat = { package := c.package.toNat, part := c.part.toNat, ports := c.ports.toNat } ∧
      ∀ r, r ≠ c.rank.toNat → Tab.get {} j'.ranks r = Tab.get {} j.ranks r)) ∧
  (∀ (s : State) (q : Nat) (h : CmdHeader) (c : InvalCmd), Executes s q (.invalRange h c) → (s.queue q).drain = false →
    (∀ st d1, s.invalStatus q c = some (st, d1) → Answers (exec (.invalRange h c) s) s q h st 0 d1) ∧
    (s.invalStatus q c = none → (∀ x ∈ s.cores, x.2.readers = []) → NextWith (exec (.invalRange h c) s) fun t =>
      (t.queue q).drain = true ∧ (t.queue q).head = .running (.invalRange h c) ∧
      ∀ x ∈ t.walkers, x ∈ s.walkers ∧ tlbDropped c.asid.toNat c.start.toNat c.length.toNat c.sizes.toNat x = false)) ∧
  (∀ (s : State) (q : Nat) (i : Instr), Executes s q i → (s.queue q).drain = true →
    Answers (exec .invalRangeDrainDone s) s q (headerOf i) 0 0 0) ∧
  (∀ (s : State) (q : Nat) (h : CmdHeader) (ofs : BitVec 17) (idx : Word), Executes s q (.ringRestart h ofs idx) →
    (Config.qcount (fnOf q) ≤ ofs.toNat → Answers (exec (.ringRestart h ofs idx) s) s q h 0x02 0 0) ∧
    (ofs.toNat < Config.qcount (fnOf q) → NextWith (exec (.ringRestart h ofs idx) s) fun t =>
      let x := t.queue (Config.qbase (fnOf q) + ofs.toNat)
      x.r = idx ∧ x.w = idx ∧ x.next = idx ∧ x.known = true ∧ x.head = .idle)) ∧
  ∀ (s : State) (q : Nat) (h : CmdHeader) (idx : Word), Executes s q (.ringRestartFaultRing h idx) →
    (partOf s q = none → Answers (exec (.ringRestartFaultRing h idx) s) s q h 0x02 0 0) ∧
    (∀ p, partOf s q = some p → Answers (exec (.ringRestartFaultRing h idx) s) (s.readRing p idx) q h 0 0 0)

open Sys2Proof Machine Claims in
/-- R20, R21, R138, R406, R439, R441, R451: LAUNCH takes its cores, which begin with its partition word, and starts its sequencers at the
chain, and waits while its cores or routes are not free; a table that fails ends the launch; CHAIN appends a block; PREEMPT stops a launch
and drains it; RESUME takes a launch back from its checkpoint, whose header and body it reads. Each answers its status where it is turned
away. That PREEMPT of a failing launch is NOLAUNCH and waits for a draining one (assumption log 88), and that RESUME finds no checkpoint
where the package keeps none at the address (assumption log 91), are the model's readings. -/
def Obligations.LaunchCommands : Prop :=
  (∀ (s : State) (q : Nat) (h : CmdHeader) (p : LaunchCmd), Executes s q (.launch h p) →
    let w := s.queue q
    (∀ st d0, s.launchRefusal w.asid p = some (st, d0) → Answers (exec (.launch h p) s) s q h st d0 0) ∧
    (s.launchRefusal w.asid p = none → s.canBegin q (.launch h p) = false → exec (.launch h p) s = .next s) ∧
    (∀ n, s.launchRefusal w.asid p = none → s.asidPart w.asid = some n → s.canBegin q (.launch h p) = true →
      let l := s.nextId
      let x : Launch := { q := q, fn := fnOf q, cid := h.cid.toNat, cq := q, idx := w.next, hdr := h, cmd := p, asid := w.asid,
                          part := some n, start := s.now }
      let s1 := s.newId.2
      (∀ y s2, s1.loadTables x = (none, y, s2) → NextWith (exec (.launch h p) s) fun t =>
        t.launch l = y ∧ (t.queue q).launch = some l ∧ (t.queue q).head = .idle ∧ (t.queue q).next = w.next + 1 ∧
        (∀ k ∈ y.cores, (t.core k).launch = some l ∧ (t.core k).partw = y.cmd.partw.toNat ∧ (t.core k).elems = [] ∧
          (t.core k).transit = [] ∧ (t.core k).user = []) ∧
        (∀ c ∈ y.clusters, t.seq c = { mode := .run, start := s2.now, chainNext := y.cmd.chain.toNat })) ∧
      (∀ f y s2, s1.loadTables x = (some f, y, s2) → NextWith (exec (.launch h p) s) fun t =>
        (t.launch l).st = .failing ∧ (t.launch l).failure = some f))) ∧
  (∀ (s : State) (q : Nat) (h : CmdHeader) (b : DWord), Executes s q (.chain h b) →
    ((s.queue q).launch = none → Answers (exec (.chain h b) s) s q h 0x0F 0 0) ∧
    (∀ l, (s.queue q).launch = some l →
      ((∃ c ∈ (s.launch l).clusters, (s.seq c).chainEnded = true) → Answers (exec (.chain h b) s) s q h 0x10 0 0) ∧
      ((∀ c ∈ (s.launch l).clusters, (s.seq c).chainEnded = false) →
        (b.toNat % 64 = 0 → Answers (exec (.chain h b) s) (s.onLaunch l fun x => { x with links := x.links ++ [b.toNat] }) q h 0 0 0) ∧
        (b.toNat % 64 ≠ 0 → Answers (exec (.chain h b) s) (s.failLaunch l { status := 0x13, detail1 := b.toNat }) q h 0x13 0 b.toNat)))) ∧
  (∀ (s : State) (q : Nat) (h : CmdHeader) (ofs : BitVec 17) (area : DWord), Executes s q (.preempt h ofs area) →
    let t := Config.qbase (fnOf q) + ofs.toNat
    (Config.qcount (fnOf q) ≤ ofs.toNat → Answers (exec (.preempt h ofs area) s) s q h 0x02 0 0) ∧
    (ofs.toNat < Config.qcount (fnOf q) →
      ((s.queue t).launch = none → Answers (exec (.preempt h ofs area) s) s q h 0x0F 0 0) ∧
      (∀ l, (s.queue t).launch = some l →
        ((s.launch l).st = .failing → Answers (exec (.preempt h ofs area) s) s q h 0x0F 0 0) ∧
        ((s.launch l).st = .draining → exec (.preempt h ofs area) s = .next s) ∧
        ((s.launch l).st = .running ∨ (s.launch l).st = .stopped → NextWith (exec (.preempt h ofs area) s) fun u =>
          u.launch l = { s.launch l with st := .draining, preempt := some (some q, h, area.toNat),
                                         stopAt := some ((s.launch l).stopAt.getD s.now) } ∧
          ∀ c ∈ (s.launch l).clusters, u.seq c =
            { s.seq c with mode := if (s.seq c).mode = .wait then .run else (s.seq c).mode, waitFor := .none })))) ∧
  ∀ (s : State) (q : Nat) (h : CmdHeader) (ofs : BitVec 17) (area : DWord), Executes s q (.resume h ofs area) →
    let t := Config.qbase (fnOf q) + ofs.toNat
    let asid := (s.queue t).asid
    (Config.qcount (fnOf q) ≤ ofs.toNat → Answers (exec (.resume h ofs area) s) s q h 0x02 0 0) ∧
    (ofs.toNat < Config.qcount (fnOf q) → s.canBegin q (.resume h ofs area) = false → exec (.resume h ofs area) s = .next s) ∧
    (∀ p, ofs.toNat < Config.qcount (fnOf q) → s.canBegin q (.resume h ofs area) = true → s.asidPart asid = some p →
      (∀ e s1, s.sysRead none asid area.toNat 64 clsSpill = (.error e, s1) →
        Answers (exec (.resume h ofs area) s) s1 q h 0x0A 0 area.toNat) ∧
      (∀ bs s1, s.sysRead none asid area.toNat 64 clsSpill = (.ok bs, s1) →
        let ws := wordsOfBytes bs
        (s1.checkpointAt asid area.toNat = none → Answers (exec (.resume h ofs area) s) s1 q h 0x0A 0 area.toNat) ∧
        (∀ c, s1.checkpointAt asid area.toNat = some c →
          (headerNames ws p t = false → Answers (exec (.resume h ofs area) s) s1 q h 0x0A 0 area.toNat) ∧
          (∀ e s2, headerNames ws p t = true → s1.sysRead none asid area.toNat (dwordAt ws 5) clsSpill = (.error e, s2) →
            Answers (exec (.resume h ofs area) s) s2 q h 0x0A 0 area.toNat) ∧
          (∀ b s2, headerNames ws p t = true → s1.sysRead none asid area.toNat (dwordAt ws 5) clsSpill = (.ok b, s2) →
            let dead := (wordAt ws 2).testBit 10 = true ∧ (Tab.get {} (s2.part p).domains (wordAt ws 2 % 2 ^ 10)).live = false
            (dead → Answers (exec (.resume h ofs area) s) s2 q h 0x02 0 0) ∧
            (¬ dead → exec (.resume h ofs area) s = .next (s2.resumeFrom c q t h))))))

open Sys2Proof Machine Claims in
/-- R400 to R402, R404, R408, R411 to R413, R415: the security commands. What each answers where it is turned away, and where it is not, what
it leaves, in terms of the results of the cryptographic functions, whatever these are. The model's choices are that REVOKE of an unknown
admission is DENIED, that a kernel's digest is that of its header and body, that the images are padded with zeros to whole lines and that
BADIMAGE carries DST (assumption log 101), the cut of CONF to the 24 bytes that its area has room for (assumption log 102), and the
placement that a library's images follow (assumption log 133). -/
def Obligations.SecurityCommands : Prop :=
  ∀ (s : State) (q p : Nat) (h : CmdHeader), partOf s q = some p →
    let asid := (s.queue q).asid
    let live (n : Nat) : Prop := (s.domain p n).live = true
    (∀ t, s.tdidRefused t = true ↔ t ≠ 0 ∧ ∃ x ∈ s.parts, ∃ y ∈ x.2.domains, y.2.live = true ∧ y.2.tdid ≠ t) ∧
    (∀ c : SealCmd,
      let d := c.sdom.toNat
      ((s.part p).sealing = false → (Executes s q (.sealLoadCreate h c) → Answers (exec (.sealLoadCreate h c) s) s q h 0x82 0 0) ∧
        (Executes s q (.sealLoadImport h c) → Answers (exec (.sealLoadImport h c) s) s q h 0x82 0 0) ∧
        (Executes s q (.sealLoadDestroy h c) → Answers (exec (.sealLoadDestroy h c) s) s q h 0x82 0 0)) ∧
      ((s.part p).sealing = true →
        (Executes s q (.sealLoadCreate h c) → live d → Answers (exec (.sealLoadCreate h c) s) s q h 0x02 0 0) ∧
        (∀ bs s1, Executes s q (.sealLoadCreate h c) → ¬ live d → s.openBuffer asid c.src.toNat 2944 64 = (some bs, s1) →
          (packageOk bs = false → Answers (exec (.sealLoadCreate h c) s) s1 q h 0x80 0 0) ∧
          (packageOk bs = true → exec (.sealLoadCreate h c) s = .next (match unwrap bs with
            | none => s1.completeHead q h 0x80
            | some body =>
              let t : DWord := BitVec.ofNat 64 (num body 32 8)
              let np := (body.getD 40 0).toNat
              let nk := (body.getD 41 0).toNat
              let ng := (body.getD 42 0).toNat + 256 * (body.getD 43 0).toNat
              if bodyOk body = false then s1.completeHead q h 0x80
              else if 4 < np ∨ nk = 0 ∨ 8 < nk ∨ ng = 0 ∨ 64 < ng ∨ s1.tdidRefused t then s1.completeHead q h 0x81
              else (({ s1 with draws := s1.draws + 1 } : State).setDomain p d (domainOf body (s1.draws + 1))).completeHead q h 0))) ∧
        (∀ bs s1 ps s2, Executes s q (.sealLoadImport h c) → live d → c.dst.toNat % 65536 = 0 →
          s.openBuffer asid c.src.toNat 64 64 = (some bs, s1) →
          s1.sealPages asid true (fun t => t.cls == 1 && t.sdom == d) (pageParts c.dst.toNat (65536 * c.nchunk.toNat)) = (.ok ps, s2) →
          blobOk bs = true → exec (.sealLoadImport h c) s = .next
            (match s2.importChunks asid c.src.toNat c.nchunk.toNat (num bs 8 8) (s.domain p d).wkey 0 ps with
             | (some (st, d0, d1), u) => u.settle.completeHead q h st d0 d1
             | (none, u) => u.settle.completeHead q h 0)) ∧
        (Executes s q (.sealLoadDestroy h c) → ¬ live d → Answers (exec (.sealLoadDestroy h c) s) s q h 0x02 0 0) ∧
        (Executes s q (.sealLoadDestroy h c) → live d → s.domainBusy p d = true → Answers (exec (.sealLoadDestroy h c) s) s q h 0x84 0 0) ∧
        (Executes s q (.sealLoadDestroy h c) → live d → s.domainBusy p d = false →
          Answers (exec (.sealLoadDestroy h c) s) (s.destroyDomain p d) q h 0 0 0 ∧
          ((s.destroyDomain p d).domain p d).live = false))) ∧
    (∀ c : AdmitCmd,
      (∀ hd body sig s1, Executes s q (.kernelAdmitLibrary h c) → (s.part p).sealing = false → c.dst.toNat % 65536 = 0 →
        c.src.toNat % 64 = 0 → s.readLibrary asid c.src.toNat = (some (hd, body, sig), s1) → exec (.kernelAdmitLibrary h c) s = .next
          (match Riuri.translate s1.coreLost body with
           | .error .noConverter => s1.completeHead q h 0x08
           | .error .unfit => s1.completeHead q h 0x0A 0 c.dst.toNat
           | .ok out =>
             if 65536 * c.size.toNat < (wholeLines out).length then s1.completeHead q h 0x0A 0 c.dst.toNat
             else match s1.sealPages asid true (fun t => t.cls == 5) (pageParts c.dst.toNat (wholeLines out).length) with
               | (.error (st, va), u) => u.completeHead q h st 0 va
               | (.ok ps, u) => match (u.part p).freeAid with
                 | none => u.completeHead q h 0x83
                 | some aid => (u.admitKernel p c.sdom.toNat aid ps (wholeLines out) (Crypto.shake256 (hd ++ body) 32)).completeHead q h 0
                     aid)) ∧
      (∀ s1, Executes s q (.kernelAdmitLibrary h c) → ((s.part p).sealing = true → live c.sdom.toNat) → c.dst.toNat % 65536 = 0 →
        c.src.toNat % 64 = 0 → s.readLibrary asid c.src.toNat = (none, s1) →
        Answers (exec (.kernelAdmitLibrary h c) s) s1 q h 0x85 1 0) ∧
      (Executes s q (.kernelAdmitLibrary h c) → ((s.part p).sealing = true → live c.sdom.toNat) → c.dst.toNat % 65536 = 0 →
        c.src.toNat % 64 ≠ 0 → Answers (exec (.kernelAdmitLibrary h c) s) s q h 0x04 0 c.src.toNat) ∧
      (∀ bs s1 ps s2, Executes s q (.kernelAdmitRaw h c) → c.dst.toNat % 256 = 0 →
        s.openBuffer asid c.src.toNat c.size.toNat 64 = (some bs, s1) →
        s1.sealPages asid true (fun t => t.cls == 5) (pageParts c.dst.toNat (wholeLines bs).length) = (.ok ps, s2) →
        Answers (exec (.kernelAdmitRaw h c) s) (s2.putPieces ps (wholeLines bs)) q h 0 0 0) ∧
      (Executes s q (.kernelAdmitRevoke h c) → (∀ x ∈ (s.part p).admissions, x.aid ≠ c.aid.toNat) →
        Answers (exec (.kernelAdmitRevoke h c) s) s q h 0x02 0 0) ∧
      (Executes s q (.kernelAdmitRevoke h c) → (∃ x ∈ (s.part p).admissions, x.aid = c.aid.toNat) → s.launches = [] →
        NextWith (exec (.kernelAdmitRevoke h c) s) fun t => (∀ x ∈ (t.part p).admissions, x.aid ≠ c.aid.toNat) ∧
          ∀ l ∈ t.locks, l.2 ≠ (p, c.aid.toNat))) ∧
    (∀ c : SessCmd,
      (Executes s q (.sessionOpen h c) → ¬ live c.sdom.toNat → Answers (exec (.sessionOpen h c) s) s q h 0x02 0 0) ∧
      (∀ msg s1 s2, Executes s q (.sessionOpen h c) → live c.sdom.toNat → s.openBuffer asid c.msg.toNat 1728 64 = (some msg, s1) →
        s1.openSpan asid c.rsp.toNat 64 64 = (true, s2) →
        (openMessageOk msg c.sdom.toNat = false → Answers (exec (.sessionOpen h c) s) s2 q h 0x87 0 0) ∧
        (∀ i, openMessageOk msg c.sdom.toNat = true → s2.freeSession = some i → exec (.sessionOpen h c) s = .next
            (let (e, key) := Config.sessionSecrets (s.domain p c.sdom.toNat).keyEpoch (cut msg 64 96) (cut msg 160 1568)
             let t := transcript (s.domain p c.sdom.toNat) msg
             let secret := fitBytes 64 (Crypto.shake256 (key ++ e ++ t) 64)
             let gen := (Tab.get {} s2.sessions i).gen + 1
             ((({ s2 with sessions := Tab.set s2.sessions i { gen := gen, isOpen := true, part := p, sdom := c.sdom.toNat,
                                                              secret := secret } } : State).queueWrite asid c.rsp.toNat
                 (openResponse (gen * 4096 + i) msg (Crypto.kmac256 secret t 32))).2).completeHead q h 0 (gen * 4096 + i)))) ∧
      (Executes s q (.sessionClose h c) → live c.sdom.toNat → s.openSession p c.sdom.toNat c.sid = none →
        Answers (exec (.sessionClose h c) s) s q h 0x89 0 0) ∧
      (∀ x, Executes s q (.sessionClose h c) → live c.sdom.toNat → s.openSession p c.sdom.toNat c.sid = some x →
        NextWith (exec (.sessionClose h c) s) fun t => t.openSession p c.sdom.toNat c.sid = none ∧
          ∀ b ∈ (t.part p).bindings, b.2.sid ≠ c.sid)) ∧
    (∀ c : BindCmd,
      (Executes s q (.replyBind h c) → s.openSession p c.sdom.toNat c.sid = none → Answers (exec (.replyBind h c) s) s q h 0x89 0 0) ∧
      (∀ x ps s1, Executes s q (.replyBind h c) → s.openSession p c.sdom.toNat c.sid = some x →
        (c.sv = true → (s.part p).slot0 ≤ c.q.toNat ∧ c.q.toNat < (s.part p).slot0 + (s.part p).nslot) → c.base.toNat % 65536 = 0 →
        s.sealPages asid false (fun t => t.cls == 3 && t.host && t.sdom == c.sdom.toNat)
          (pageParts c.base.toNat (65536 * (c.size.toNat + 1))) = (.ok ps, s1) →
        NextWith (exec (.replyBind h c) s) fun t => ∃ b, Tab.find? (t.part p).bindings c.b.toNat = some b ∧ b.sdom = c.sdom.toNat ∧
          b.sid = c.sid ∧ b.base = c.base.toNat ∧ b.size = 65536 * (c.size.toNat + 1) ∧ b.woff = 0 ∧
          b.slot = if c.sv then some c.q.toNat else none)) ∧
    (∀ b : BitVec 8, Executes s q (.replyUnbind h b) → NextWith (exec (.replyUnbind h b) s) fun t =>
      Tab.find? (t.part p).bindings b.toNat = none ∧
      ∀ j, j ≠ b.toNat → Tab.find? (t.part p).bindings j = Tab.find? (s.part p).bindings j) ∧
    (∀ (c : SignCmd) (n : Nat) (body : List Byte → Nat → List Byte) (i : Instr),
      (i = .usageSignReport h c ∧ (c.sdv = true → live c.sdom.toNat) ∧ n = 3616 ∧
          body = reportBody s p (if c.sdv then some (c.sdom.toNat, s.domain p c.sdom.toNat) else none)) ∨
        (∃ x, i = .usageSignUsage h c ∧ s.keptSession p c.sdom.toNat c.sid = some x ∧ n = 144 ∧
          body = usageBody c.sdom.toNat c.sid x (s.domain p c.sdom.toNat)) →
      Executes s q i → ∀ nonce s1 s2, s.openSpan asid c.dst.toNat (n + 27688) 64 = (true, s1) →
        s1.queueRead asid c.dst.toNat 32 = (.ok nonce, s2) → s2.signing.refused = false →
        (2 ^ 60 ≤ s2.signing.index → Answers (exec i s) s2 q h 0x8B 0 0) ∧
        (s2.signing.index < 2 ^ 60 → s2.signing.index < s2.signing.blockEnd →
          let k := s2.signing.index
          let msg := fitBytes n (body nonce k)
          exec i s = .next ((({ s2 with signing := { s2.signing with index := k + 1 } } : State).queueWrite asid c.dst.toNat
            (msg ++ fitBytes 27688 (Config.xmssSign k msg))).2.completeHead q h 0 (n + 27688))))

/-! ## The package -/

open Sys2Proof Machine Claims in
/-- R9, R10, R28, R34, R36, R37, R130, R131, R307, R319, R427, R443 to R445: the events of the package. Power-good clears everything but
the spare map, the signing record and the host's memory (assumption logs 95 and 97); bring-up goes from step to step, and sets READY after
the seventh; the endpoint serves registers and doorbells once its link is trained, and counts a doorbell that is behind W; a spare, a
corrected or an uncorrectable error, a host access without a completion and a function-level reset have the effects given there. The
reference timer advances by the time that cycles take at the clock in force. That a lost element fails its launch with BLOCKED and the
code in the failure is the model's choice (assumption log 86), as are the core that counts a slice's corrected error and what a lost
accumulator row does (assumption log 140). -/
def Obligations.PackageEvents : Prop :=
  (∀ s : State, s.agent = .device →
    let b := s.board
    (NextWith (exec .powerGood s) fun t => t.board = { package := b.package, spares := b.spares, powered := true, step := 1 } ∧
      t.cores = [] ∧ t.seqs = [] ∧ t.hbm = [] ∧ t.hostMem = s.hostMem ∧ t.launches = [] ∧ t.parts = [] ∧ t.queues = [] ∧ t.epochs = [] ∧
      t.signing.index = s.signing.blockEnd) ∧
    (∀ ok, b.powered = false ∨ b.ready = true ∨ b.failed ≠ 0 → exec (.bringUpStepDone ok) s = .next s) ∧
    (b.powered = true → b.ready = false → b.failed = 0 →
      exec (.bringUpStepDone false) s = .next { s with board := { b with failed := b.step } } ∧
      (b.step ≠ 2 → b.step ≠ 5 → b.step < 7 → exec (.bringUpStepDone true) s = .next { s with board := { b with step := b.step + 1 } }) ∧
      (b.step = 5 → exec (.bringUpStepDone true) s = .next { s with board := { b with step := 6, mode := 0 } }) ∧
      (b.step = 7 → exec (.bringUpStepDone true) s = .next { s with board := { b with ready := true, gen := b.gen + 2 } })) ∧
    (∀ rate width, b.powered = true → b.ready = false →
      exec (.pcieLinkTrained rate width) s = .next { s with board := { b with trained := some (rate, width) } }) ∧
    (∀ n, n < 19 → n ≠ b.bins → exec (.thermalLimit n) s =
      .next { s with board := { b with bins := n, throttled := n != 0, gen := if b.ready then b.gen + 2 else b.gen } }) ∧
    (∀ m, b.pending = some m →
      exec .pmInterval s = .next { s with board := { b with mode := m, pending := none, gen := if b.ready then b.gen + 2 else b.gen } }) ∧
    (b.pending = none → exec .pmInterval s = .next s) ∧
    (∀ n, n < 96 → Spare.port n ∉ b.spares → NextWith (exec (.resourceMapOut (.port n)) s) fun t =>
      t.board = { b with spares := b.spares ++ [.port n], gen := if b.ready then b.gen + 2 else b.gen } ∧ (t.port n).link = .down) ∧
    (∀ r, r ∈ b.spares → exec (.resourceMapOut r) s = .next s) ∧
    (∀ k x y l L, k < 64 → x < 32 → y < 32 → Spare.elem k x y ∉ b.spares → (s.elem k (32 * y + x)).instr.isSome = true →
      s.coreLaunch k = some (l, L) → L.st = .running → NextWith (exec (.resourceMapOut (.elem k x y)) s) fun t =>
        .elem k x y ∈ t.board.spares ∧ (t.launch l).st = .failing ∧ (t.launch l).failure =
          some { status := 0x0E, detail0 := k * 2 ^ 24 + x * 2 ^ 16 + y * 2 ^ 8, code := 0x0E, score := k, sx := x, sy := y }) ∧
    (∀ k w up, k < 64 → (up = false ∨ b.eccwarn = true) → exec (.correctedError (.scratch k w) up) s = .next (s.countCore k cntEccCorr)) ∧
    (∀ k n j pa up, k < 64 → (up = false ∨ b.eccwarn = true) → exec (.correctedError (.accRow k n j) up) s = .next (s.countCore k cntEccCorr) ∧
      exec (.correctedError (.slice pa k) up) s = .next (s.countCore k cntEccCorr)) ∧
    (∀ k n j, k < 64 → n < 4 → j < s.accRows k → NextWith (exec (.uncorrectableError (.accRow k n j)) s) fun t =>
      rowAt t k (28 + n) j = { rowAt s k (28 + n) j with bad := true } ∧ ∀ i, i ≠ j → rowAt t k (28 + n) i = rowAt s k (28 + n) i) ∧
    (∀ n, let t := s.tick n
      t.board.cycle = b.cycle + n ∧
      t.board.micros * Config.subUnits + t.board.sub = b.micros * Config.subUnits + b.sub + n * (Config.subUnits / s.mhz) ∧
      t.board.sub < Config.subUnits) ∧
    (∀ pa, b.eccwarn = false → b.ready = true → exec (.correctedError (.line pa) true) s =
      .next { s with board := { b with eccwarn := true, gen := b.gen + 2 } }) ∧
    (∀ pa k, pa < 16 * stackBytes → ∀ site ∈ [EccSite.line pa, .slice pa k], NextWith (exec (.uncorrectableError site) s) fun t =>
      pa / 128 ∈ t.poison ∧ t.hbm = s.hbm ∧ t.cores = s.cores) ∧
    (∀ k w, k < 64 → 4 * w < (s.core k).scrBytes → NextWith (exec (.uncorrectableError (.scratch k w)) s) fun t =>
      w ∈ (t.core k).poisoned ∧ (t.core k).cells = (s.core k).cells) ∧
    (∀ k e i t0, (s.elem k e).tier1[i]? = some t0 → NextWith (exec (.uncorrectableError (.tier1Token k e i)) s) fun t =>
      (t.elem k e).tier1[i]? = some { t0 with val := faultWord 0x0E k (t0.elem % 32) (t0.elem / 32) 0, origin := some t0.tag, d := true }) ∧
    (∀ v : Word, b.trained.isSome = true →
      (NextWith (exec (.registerWrite 0 0x300000 v) s) fun t =>
        (t.fn 0).ftd0 = BitVec.ofNat 32 ((if v.getLsbD 31 then 2 ^ 31 else 0) +
          (if (s.fn 0).ftd0.getLsbD 30 && !v.getLsbD 30 then 2 ^ 30 else 0) + v.toNat % 2 ^ 24)) ∧
      (NextWith (exec (.registerWrite 0 0x300004 v) s) fun t => (t.fn 0).ftd1 = v &&& 0xFFFF1FFF) ∧
      ∀ fn ofs, fn ≠ 0 ∨ (ofs ≠ 0x300000 ∧ ofs ≠ 0x300004) → exec (.registerWrite fn ofs v) s = .next s) ∧
    (∀ fn (v : DWord), b.trained.isSome = true → (s.fn fn).table = none → v.toNat % 64 = 0 → v.toNat < 2 ^ 57 → s.hostDead = [] →
      fn ≤ 8 → NextWith (exec (.doorbell fn (Config.qbase fn) v) s) fun t => (t.fn fn).table = some v.toNat) ∧
    (∀ fn q (v : DWord) tbl, b.trained.isSome = true → Config.qbase fn ≤ q → q < Config.qbase fn + Config.qcount fn →
      (s.fn fn).table = some tbl → (s.queue q).known = true → (s.queue q).en = true → (s.queue q).error = false → v.toNat < 2 ^ 32 →
      let w : Word := v.setWidth 32
      let n := 2 ^ (4 + (s.queue q).size)
      (1 ≤ ahead (s.queue q).w w → n < ahead w (s.queue q).w → ahead (s.queue q).r w ≤ n →
        exec (.doorbell fn q v) s = .next (s.onQueue q fun x => { x with w := w })) ∧
      (1 ≤ ahead w (s.queue q).w → ahead w (s.queue q).w ≤ n →
        exec (.doorbell fn q v) s = .next (s.countQueue q cntStaleDb))) ∧
    (∀ fn q (v : DWord), b.trained = none → exec (.doorbell fn q v) s = .next s)) ∧
  (∀ (s : State) (k id : Nat) (x : Access), s.agent = .access k id → (s.core k).access? id = some x →
    (x.region = .hostMem ∧ (x.opc = 0x140 ∨ x.opc = 0x142)) ∨ (x.opc = 0x1E0 ∧ s.isHostSpot k (x.opnds.val 0) 64 = true) →
    x.stage = .ready → (s.core k).mayPerform x = true → s.accessRuns k x = true →
    exec .hostCompletionTimeout s = .next (s.fail k x { code := 0x0F, detail := 0, va := some x.va })) ∧
  ∀ (s : State) (n : Nat), s.agent = .fn n → n < 9 → NextWith (exec .functionLevelReset s) fun t =>
    Tab.find? t.fns n = none ∧ (∀ q ∈ t.queues, fnOf q.1 ≠ n) ∧ (∀ q, fnOf q ≠ n → t.queue q = s.queue q) ∧
    (∀ l ∈ t.launches, l.2.fn = n → l.2.st = .failing) ∧ SameMemory s t ∧ t.cores = s.cores

/-! ## The fabric -/

open Sys2Proof Machine Claims in
/-- R288, R293, R294, R296: the sender's side of an epoch. OPENACK opens it, `rcopen` emits, the held writes leave and a held `rrel` is acted
on; RELNOTE frees it and gives `rrel` its value, or its fault word; RESEND sends again what its bitmap marks; FAIL and the eighth timeout end
it, and the `rrel` that waits for it. Where RELNOTE carries the flag value (assumption log 64), and that a FAIL with F = 1 is one of the
receiver (assumption log 26), are the model's readings. -/
def Obligations.FabricSender : Prop :=
  (∀ (s : State) (n : Nat) (p : Packet) (rest : List (Nat × Packet)) (i : Nat) (e : Epoch),
    let s1 := received s n rest
    Answers_ s1 p i e →
    (∀ a x, Accepts s n p rest 0x03 → e.st = .opening → e.openAcc = some a → (s.core e.core).access? a = some x →
      let s2 := heldLeave e ((s1.finish e.core x (x.opnds.val 0) x.opnds.dAll).onEpoch i fun e =>
        { e with st := .opened, openAcc := none, held := [], relAcc := none }) e.held
      (e.relAcc = none → exec .openack s = .next s2) ∧ (∀ b, e.relAcc = some b → exec .openack s = .next (s2.startRelease i b))) ∧
    (Accepts s n p rest 0x03 → e.st ≠ .opening → exec .openack s = .next s1) ∧
    (∀ a x, Accepts s n p rest 0x05 → e.st = .releasing → e.relAcc = some a → (s.core e.core).access? a = some x → p.f = false →
      exec .relnote s = .next ((s1.freeEpoch i false).finish e.core x (p.val.toNat % 2 ^ 32) p.d) ∧
      (s1.freeEpoch i false).epochs = s.epochs.eraseIdx i) ∧
    (∀ a x, Accepts s n p rest 0x05 → e.st = .releasing → e.relAcc = some a → (s.core e.core).access? a = some x → p.f = true →
      exec .relnote s = .next
        (((s1.freeEpoch i false).onCore e.core (·.dropAccess a)).emitF (x.shot e.core (s1.freeEpoch i false).now) (p.val.setWidth 32) x.tag
          x.tag x.opnds.dAll)) ∧
    (Accepts s n p rest 0x06 → e.st = .releasing →
      let first := 2048 * (p.val.toNat % 2 ^ 12)
      let marked (m : Nat) : Bool := decide (first ≤ m ∧ m < first + 2048) && (p.data.getD ((m - first) / 8) 0).toNat.testBit ((m - first) % 8)
      exec .resend s = .next (((e.window.filter fun w => marked w.1).foldl (fun s w => s.sendPacket w.2) s1).onEpoch i fun e =>
        { e with due := s.board.micros + 2 * e.hdr.timeout })) ∧
    (∀ a x, Accepts s n p rest 0x07 → p.f = true → e.st = .releasing → e.relAcc = some a → (s.core e.core).access? a = some x →
      exec .fabricFail s = .next
        (((s1.freeEpoch i false).onCore e.core (·.dropAccess a)).emitF (x.shot e.core (s1.freeEpoch i false).now) (p.val.setWidth 32) x.tag
          x.tag x.opnds.dAll))) ∧
  (∀ (s : State) (n : Nat) (p : Packet) (rest : List (Nat × Packet)) (t : Nat), Receives s n p rest t →
    ∀ detail, (received s n rest).refusal n p = some detail →
      ∀ f ∈ [(0x01, Instr.wr), (0x03, .openack), (0x04, .rel), (0x05, .relnote), (0x06, .resend), (0x07, .fabricFail), (0x09, .rldrep),
             (0x0B, .ratrep), (0x0C, .wcon)], f.1 = t →
        exec f.2 s = .next ((received s n rest).countPart p.dpart.toNat cntNoJob)) ∧
  ∀ (s : State) (i : Nat) (e : Epoch), s.agent = .epoch i → s.epochs[i]? = some e →
    (e.st = .opening → s.board.micros < e.due → exec .epochOpenTimeout s = .next s) ∧
    (e.st = .opening → e.due ≤ s.board.micros → e.rounds < 8 → exec .epochOpenTimeout s = .next
      ((s.sendPacket e.hdr).onEpoch i fun e => { e with rounds := e.rounds + 1, due := (s.sendPacket e.hdr).board.micros + 2 * e.hdr.timeout })) ∧
    (e.st = .opening → e.due ≤ s.board.micros → 8 ≤ e.rounds → exec .epochOpenTimeout s = .next (s.failOpening i 0x0D 0x01)) ∧
    (e.st = .releasing → s.board.micros < e.due → exec .epochRelTimeout s = .next s) ∧
    (let rel : Packet := { e.hdr with ptype := 0x04, d := e.d, seq := BitVec.ofNat 13 e.writes }
     e.st = .releasing → e.due ≤ s.board.micros → e.rounds < 8 → exec .epochRelTimeout s = .next
      ((s.sendPacket rel).onEpoch i fun e =>
        { e with rounds := e.rounds + 1, due := (s.sendPacket rel).board.micros + 2 * e.hdr.timeout })) ∧
    (e.st = .releasing → e.due ≤ s.board.micros → 8 ≤ e.rounds →
      (e.relAcc = none → exec .epochRelTimeout s = .next ((s.sendPacket { e.hdr with ptype := 0x07, d := false }).freeEpoch i false)) ∧
      (∀ a x, e.relAcc = some a → (s.core e.core).access? a = some x → exec .epochRelTimeout s = .next
        (((s.fail e.core x { code := 0x0D, detail := 0x02 }).sendPacket { e.hdr with ptype := 0x07, d := false }).freeEpoch i false)))

open Sys2Proof Machine Claims in
/-- R297 to R300, R320: the receiver's side of an epoch. OPEN makes a record and is acknowledged; one of a later GEN takes the record's
place, and one of an earlier GEN is discarded (which of two GENs is the later is the model's reading, assumption log 64, and that a record
takes 36 records of the SPILL pool its choice, assumption log 20); a write of a new
sequence number is performed once; REL with every write there releases the flag, and one that comes before them waits; a waiting record asks
for what is missing, and fails after eight rounds. -/
def Obligations.FabricReceiver : Prop :=
  (∀ (s : State) (n : Nat) (p : Packet) (rest : List (Nat × Packet)),
    let s1 := received s n rest
    (∀ e s2, Accepts s n p rest 0x02 → s1.rankOf p.job.toNat p.srank.toNat = some e → s1.recordOf p = none →
      s1.poolTake p.dpart.toNat 36 = some s2 → exec .fabricOpen s = .next (s2.startRecord p e.package)) ∧
    (∀ e i r, Accepts s n p rest 0x02 → s1.rankOf p.job.toNat p.srank.toNat = some e → s1.recordOf p = some i → s1.records[i]? = some r →
      let d := (p.gen - r.hdr.gen).toNat
      (d ≠ 0 → d < 2 ^ 15 → r.st = .released ∨ r.st = .failed →
        exec .fabricOpen s = .next (({ s1 with records := s1.records.eraseIdx i } : State).startRecord p e.package)) ∧
      (2 ^ 15 ≤ d → exec .fabricOpen s = .next s1)) ∧
    (∀ i r, Accepts s n p rest 0x02 → Recorded s1 p i r → exec .fabricOpen s = .next (s1.sendPacket (p.answer 0x03))) ∧
    (∀ i r, Recorded s1 p i r →
      (Accepts s n p rest 0x01 → r.st ≠ .failed → p.seq.toNat ∈ r.arrived → exec .wr s = .next (s1.countPart p.dpart.toNat cntDup)) ∧
      (∀ s2, Accepts s n p rest 0x01 → r.st = .collecting → p.seq.toNat ∉ r.arrived → r.count = none → s1.performWrite p = (none, s2) →
        exec .wr s = .next (s2.onRecord i fun r => { r with arrived := insertSorted p.seq.toNat r.arrived, d := r.d || p.d })) ∧
      (∀ c s2, Accepts s n p rest 0x01 → r.st = .waiting → p.seq.toNat ∉ r.arrived → r.count = some c → p.seq.toNat < c →
        c = r.arrived.length + 1 → s1.performWrite p = (none, s2) → exec .wr s = .next
          ((s2.onRecord i fun r => { r with arrived := insertSorted p.seq.toNat r.arrived, d := r.d || p.d }).releaseFlag i c)) ∧
      (Accepts s n p rest 0x04 → r.st = .collecting → (∀ m ∈ r.arrived, m < p.seq.toNat) → r.arrived.length = p.seq.toNat →
        exec .rel s = .next ((s1.onRecord i fun r => { r with count := some p.seq.toNat, d := r.d || p.d }).releaseFlag i p.seq.toNat)) ∧
      (Accepts s n p rest 0x04 → r.st = .collecting → (∀ m ∈ r.arrived, m < p.seq.toNat) → r.arrived.length ≠ p.seq.toNat →
        NextWith (exec .rel s) fun t => t.records[i]? =
          some { r with count := some p.seq.toNat, d := r.d || p.d, st := .waiting, rounds := 0, due := s.board.micros + r.hdr.timeout }) ∧
      (∀ m, Accepts s n p rest 0x04 → r.st = .released → r.note = some m → exec .rel s = .next (s1.sendPacket m)))) ∧
  ∀ (s : State) (i : Nat) (r : RecvRec), s.agent = .epoch i → s.records[i]? = some r → r.st = .waiting →
    (s.board.micros < r.due → exec .epochWaitTimeout s = .next s) ∧
    (r.due ≤ s.board.micros → r.rounds < 8 → NextWith (exec .epochWaitTimeout s) fun t =>
      t.records.map (fun x => (x.st, x.arrived)) = s.records.map (fun x => (x.st, x.arrived)) ∧
      (t.records[i]?).map (·.rounds) = some (r.rounds + 1) ∧ SameMemory s t) ∧
    (r.due ≤ s.board.micros → 8 ≤ r.rounds → NextWith (exec .epochWaitTimeout s) fun t => (t.records[i]?).map (·.st) = some .failed)

open Sys2Proof Machine Claims in
/-- R301 to R306: remote loads, atomics and reduction windows. A request is performed at its destination and answered, an atomic once, also
where it is repeated while it waits for a round; a
reply gives the requester its value or its fault; a timer sends a request again, eight times; the first contribution to a window word makes
it empty and starts its round, later ones join it, and the one at which the count reaches NCON + 1, or the round's timeout, ends it: the word
takes the value of R305 and is full. That a round is named by its ASID and address, and where a poisoned round finds its word, are the
model's choices (assumption log 63). -/
def Obligations.FabricRequests : Prop :=
  (∀ (s : State) (n : Nat) (p : Packet) (rest : List (Nat × Packet)),
    let s1 := received s n rest
    (Accepts s n p rest 0x08 →
      let w := if p.op.toNat % 4 = 0 then 4 else if p.op.toNat % 4 = 1 then 2 else 1
      (∀ ps s2, s1.inCheck p w true false p.d false = (.ok ps, s2) → exec .rldreq s = .next
        ((s2.readPieces ps).2.reply { p.answer 0x09 with val := BitVec.ofNat 128 (ofLeBytes (s2.readPieces ps).1),
                                                         d := ps.any fun q => q.t.cls == 2 })) ∧
      (∀ f s2, s1.inCheck p w true false p.d false = (.error f, s2) → exec .rldreq s = .next
        ((s2.refuse p 0x09 f.1 f.2).2.reply (s2.refuse p 0x09 f.1 f.2).1))) ∧
    (Accepts s n p rest 0x0A →
      (∀ a, s1.answers.find? (fun a => a.1 == s1.answerKey p) = some a → exec .ratreq s = .next (s1.reply a.2)) ∧
      (s1.answers.find? (fun a => a.1 == s1.answerKey p) = none → s1.ratWaits p = true → exec .ratreq s = .next s1) ∧
      (s1.answers.find? (fun a => a.1 == s1.answerKey p) = none → s1.ratWaits p = false →
        (∀ r ∈ s1.rounds, r.asid ≠ s1.jobAsid p ∨ r.hdr.va ≠ p.va) → exec .ratreq s = .next (s1.performRat p)) ∧
      (∀ (i : Nat) (r : Round), s1.answers.find? (fun a => a.1 == s1.answerKey p) = none → s1.ratWaits p = false → s1.rounds[i]? = some r →
        r.asid = s1.jobAsid p → r.hdr.va = p.va →
        (∀ (j : Nat) (x : Round), j < i → s1.rounds[j]? = some x → x.asid ≠ r.asid ∨ x.hdr.va ≠ p.va) →
        NextWith (exec .ratreq s) fun t => t.rounds[i]? = some { r with waiting := r.waiting ++ [p] } ∧ SameMemory s t)) ∧
    (∀ (want : Nat) (r : Request) (more : List Request) (x : Access), Replies s1 p want r more → (s.core r.core).access? r.access = some x →
      let s2 := ({ s1 with requests := more } : State).pin r.packet false
      (Accepts s n p rest 0x09 → want = 0x08 → p.f = false →
        let w := bytesOf x.args
        exec .rldrep s = .next (s2.finish r.core x
          (if x.args.ty = .s32 then ((BitVec.ofNat (8 * w) p.val.toNat).signExtend 32).toNat else p.val.toNat % 2 ^ (8 * w))
          (x.opnds.dAll || p.d))) ∧
      (Accepts s n p rest 0x0B → want = 0x0A → p.f = false →
        exec .ratrep s = .next (s2.finish r.core x (p.val.toNat % 2 ^ 32) (x.opnds.dAll || p.d))) ∧
      (Accepts s n p rest 0x09 → want = 0x08 → p.f = true → exec .rldrep s =
        .next (s2.fail r.core x { code := p.val.toNat / 2 ^ 24 % 2 ^ 8, detail := p.val.toNat % 2 ^ 8 }))) ∧
    (∀ ps s2, Accepts s n p rest 0x0C → s1.inCheck p 4 true true p.d false = (.ok ps, s2) →
      (∀ r, s2.rounds = [r] → r.asid = s1.jobAsid p → r.hdr.va = p.va → r.hdr.ty = p.ty → r.hdr.op = p.op → r.hdr.wexp = p.wexp →
        r.hdr.ncon = p.ncon → r.cnt + p.cnt.toNat ≤ p.ncon.toNat →
        NextWith (exec .wcon s) fun t => SameMemory s t ∧ t.rounds =
          [{ r with cnt := r.cnt + p.cnt.toNat, flags := r.flags ||| p.flg.toNat, sum := r.hdr.combine r.sum p.partialSum
                    hdr := { r.hdr with d := r.hdr.d || p.d } }]) ∧
      (∀ r, s2.rounds = [r] → r.asid = s1.jobAsid p → r.hdr.va = p.va → r.hdr.ty = p.ty → r.hdr.op = p.op → r.hdr.wexp = p.wexp →
        r.hdr.ncon = p.ncon → r.cnt + p.cnt.toNat = p.ncon.toNat + 1 → exec .wcon s = .next
          (({ s2 with rounds := [{ r with cnt := p.ncon.toNat + 1, flags := r.flags ||| p.flg.toNat, sum := r.hdr.combine r.sum p.partialSum,
                                          hdr := { r.hdr with d := r.hdr.d || p.d } }] } : State).endRound 0)) ∧
      (∀ ps' s3, s2.rounds = [] → p.cnt.toNat ≤ p.ncon.toNat → s2.windowPieces p = (some ps', s3) → s3.rounds = [] →
        NextWith (exec .wcon s) fun t => SameMemory s t ∧ PiecesEmpty t ps' ∧ t.rounds.length = 1 ∧
          ∀ r ∈ t.rounds, r.asid = s1.jobAsid p ∧ r.hdr = p ∧ r.sum = p.partialSum ∧ r.cnt = p.cnt.toNat ∧ r.poison = false))) ∧
  (∀ (s : State) (i : Nat) (r : Round), s.rounds[i]? = some r → r.waiting = [] →
    let s0 : State := { s with rounds := s.rounds.eraseIdx i }
    (∀ ps s1, r.poison = false → s0.inCheck r.hdr 4 true true r.hdr.d false = (.ok ps, s1) → s1.rounds = s0.rounds →
      (∀ x ∈ s0.rounds, x.asid ≠ r.asid ∨ x.hdr.va ≠ r.hdr.va) → ∃ v, WindowValue r (heldNumber s ps) v ∧
        let t := s.endRound i
        Placed s t ps v ∧ PiecesFull t ps ∧ t.rounds = s0.rounds) ∧
    (∀ ps s1, r.poison = true → s0.windowPieces r.hdr = (some ps, s1) → s1.rounds = s0.rounds →
      (∀ x ∈ s0.rounds, x.asid ≠ r.asid ∨ x.hdr.va ≠ r.hdr.va) → ∃ v, WindowValue r 0 v ∧
        let t := s.endRound i
        Placed s t ps v ∧ PiecesFull t ps ∧ t.rounds = s0.rounds)) ∧
  (∀ (s : State) (i : Nat) (r : Request), s.agent = .epoch i → s.requests[i]? = some r →
    (s.board.micros < r.due → exec .requestResendTimeout s = .next s) ∧
    (r.due ≤ s.board.micros → r.resends < 8 → NextWith (exec .requestResendTimeout s) fun t =>
      (t.requests[i]?).map (fun x => (x.resends, x.packet)) = some (r.resends + 1, r.packet) ∧ SameMemory s t) ∧
    (r.due ≤ s.board.micros → 8 ≤ r.resends → exec .requestResendTimeout s = .next
      ((({ s with requests := s.requests.eraseIdx i } : State).pin r.packet false).failAcc r.core r.access 0x0D 0x06))) ∧
  ∀ (s : State) (i : Nat) (r : Round), s.agent = .epoch i → s.rounds[i]? = some r →
    (s.board.micros < r.due → exec .windowRoundTimeout s = .next s) ∧
    (r.due ≤ s.board.micros → exec .windowRoundTimeout s = .next
      (let t := s.remoteTrap r.hdr.dpart.toNat 0x0D 0x07
       ({ t with rounds := t.rounds.modify i fun r => { r with poison := true } } : State).endRound i))

open Sys2Proof Machine Claims in
/-- R295, R297, R307, R309, R310, R417, R418: the links of the fabric ports: flits and replay, training, sessions, key updates, the age
limit, packets of a reserved type, and packets of another package than the one that the port's link leads to (assumption log 129). What counts
as a failed replay (assumption log 109) and that a key exchange takes one signing index (assumption log 132) are the model's readings. -/
def Obligations.FabricPorts : Prop :=
  ∀ (s : State) (n : Nat), s.agent = .port n → n < 96 →
    let x := s.port n
    (∀ flit, x.link ≠ .down → x.retrain = false →
      exec (.flitReceive n false flit) s = .next (s.onPort n fun x =>
        { x with crcFails := x.crcFails + 1, retrain := decide (16 ≤ x.crcFails) }) ∧
      (flit.length = 64 → x.flits = [] → ofLeBytes (flit.take 4) % 2 ^ 9 = 0 → exec (.flitReceive n true flit) s = .next (s.onPort n fun x =>
        { x with crcFails := 0, arrived := x.arrived ++ [(s.board.micros, decodePacket (wordsOfBytes flit) [])] })) ∧
      (flit.length = 64 → x.flits = [] → ofLeBytes (flit.take 4) % 2 ^ 9 ≠ 0 → exec (.flitReceive n true flit) s = .next (s.onPort n fun x =>
        { x with crcFails := 0, flits := flit }))) ∧
    (x.retrain = true →
      exec (.linkRetrain n true) s = .next (s.onPort n fun x => { x with retrain := false, crcFails := 0 }) ∧
      exec (.linkRetrain n false) s = .next (s.onPort n fun x =>
        { x with retrain := false, crcFails := 0, link := .down, flits := [], out := [], hold := false, peerDomains := [] })) ∧
    (x.link = .down → exec .fabricPortTrained s = .next (s.onPort n fun x => { x with link := .plain })) ∧
    (x.link ≠ .down → exec .fabricPortTrained s = .next s) ∧
    (∀ dom meas ok own, x.link = .down ∨ ok = false → exec (.spdmKeyExchange n dom meas ⟨ok, own⟩) s = .next s) ∧
    (∀ dom meas own, x.link ≠ .down →
      (∀ e s1, s.signIndex = (.error e, s1) → exec (.spdmKeyExchange n dom meas ⟨true, own⟩) s = .next s1) ∧
      (∀ j s1, s.signIndex = (.ok j, s1) →
        (s.tdid ≠ 0 → dom = s.tdid → s.peerAllowed meas = true → own = true →
          exec (.spdmKeyExchange n dom meas ⟨true, own⟩) s = .next (s1.onPort n fun x => { x with link := .secure dom })) ∧
        (own = false ∨ s.tdid = 0 ∨ dom ≠ s.tdid ∨ s.peerAllowed meas = false →
          exec (.spdmKeyExchange n dom meas ⟨true, own⟩) s = .next s1))) ∧
    (∀ dom, x.link = .secure dom →
      (NextWith (exec .spdmSessionEnd s) fun t => t.port n = { x with link := .plain, peerDomains := [], hold := false, out := [] } ∧
        t.sent = s.sent ++ (x.out.filter fun y => !y.2.d).map (fun y => { port := n, packet := y.2, time := y.1 })) ∧
      (∀ ls, exec (.domainList n ls) s = .next (s.onPort n fun x => { x with peerDomains := ls })) ∧
      (x.hold = false → exec .keyUpdate s = .next (s.onPort n fun x => { x with hold := true }))) ∧
    (x.hold = true → NextWith (exec .keyUpdate s) fun t =>
      t.sent = s.sent ++ (x.out.filter fun y => s.portCarries y.2.d n).map (fun y => { port := n, packet := y.2, time := y.1 }) ∧
      t.port n = { x with hold := false, out := [] }) ∧
    (x.hold = false → NextWith (exec .packetAgeDiscard s) fun t =>
      (t.port n).arrived = x.arrived.filter (fun a => s.board.micros ≤ a.1 + 1000) ∧
      ∀ y ∈ t.sent, y.port = n → s.board.micros ≤ y.time + 1000) ∧
    (∀ time p rest, x.hold = false → x.arrived = (time, p) :: rest → p.ptype = 0 ∨ 0x0C < p.ptype.toNat →
      exec .reservedPtypePacket s = .next (received s n rest)) ∧
    (∀ p rest ptype time, Stands s n p rest ptype time → time + 1000 < s.board.micros →
      ∀ f ∈ [(0x01, Instr.wr), (0x02, .fabricOpen), (0x03, .openack), (0x04, .rel), (0x05, .relnote), (0x06, .resend), (0x07, .fabricFail),
             (0x08, .rldreq), (0x09, .rldrep), (0x0A, .ratreq), (0x0B, .ratrep), (0x0C, .wcon)], f.1 = ptype →
        exec f.2 s = .next (received s n rest)) ∧
    (∀ p : Packet, (∀ e, s.rankOf p.job.toNat p.srank.toNat = some e → e.package ≠ x.peer) → s.refusal n p = some 0x74) ∧
    (∀ (p : Packet), (∀ d, (s.port n).link = .secure d → d ≠ s.tdid) → p.d = true →
      (received s n []).refusal n p ≠ none)

/-! ## Reset and what every step keeps -/

open Sys2Proof Machine Claims in
/-- R20, R36, R37, R349: the package right after reset: the partition word of every core, the device registers, the state of sequencers
and sequence slots. Clauses that are the model's choice (assumption log 2): registers, tables and memories without a reset value of the spec
hold zero or nothing. The two invariants below hold. -/
def Obligations.ResetState : Prop :=
  let r := State.reset
  (∀ k, (r.core k).partw = 0x00204020 ∧ (r.core k).scrBytes = 16 * 2 ^ 20 ∧ (r.core k).launch = none ∧ ∀ w, (r.core k).scrWord w = 0) ∧
  (∀ fn, r.bar0 fn 0x0000 = 0x00010000 ∧ r.bar0 fn 0x0010 = 0 ∧ r.bar0 fn 0x0014 = 0 ∧
    ∀ ofs, 0x1000 ≤ ofs → ofs < 0x5000 → r.bar0 fn ofs = 0) ∧
  (r.board.powered = false ∧ r.board.ready = false ∧ r.board.trained = none ∧ r.launches = [] ∧ r.epochs = []) ∧
  (∀ c x, (r.seq c).mode = .idle ∧ (r.seq c).x = [] ∧ (r.seq c).pc = 0 ∧ (r.seq c).tvec = 0 ∧ (r.seq c).epc = 0 ∧
    Tab.get 0 (r.seq c).imem x = 0) ∧
  (∀ v, (r.slot v).st = .free) ∧ (∀ p, (r.port p).link = .down) ∧
  (∀ pa, byteAt r.hbm pa = 0 ∧ byteAt r.hostMem pa = 0) ∧
  MemoriesCanonical r ∧ PcsLegal r

open Sys2Proof Machine Claims in
/-- R8, R17 and assumption log 1: every step keeps every memory of the package in its canonical form, those that checkpoints hold among them.
The form is the model's own. -/
def Obligations.MemoriesStayCanonical : Prop :=
  ∀ s t : State, MemoriesCanonical s → Machine.step s = .next t → MemoriesCanonical t

open Sys2Proof Machine Claims in
/-- R108, R116: whatever a sequencer executes, every sequencer's pc stays a legal one: a multiple of 4 below 0x1_0000. -/
def Obligations.SequencerPcLegal : Prop :=
  ∀ (i : Instr) (s t : State) (c : Nat), s.agent = .seq c → PcsLegal s → exec i s = .next t → PcsLegal t
end

