-- ==== Sys2Proof/Laws/Tab.lean ====
section
/-! SUPPORT. Sparse tables: what a write does to each key, and that the order of the keys is kept. -/

namespace Sys2Proof.Laws

open Sys2Proof Machine

variable {α : Type}

@[simp] theorem tab_get_nil (d : α) (i : Nat) : Tab.get d [] i = d := rfl

@[simp] theorem tab_get_set_same (d : α) (t : Tab α) (i : Nat) (x : α) : Tab.get d (Tab.set t i x) i = x := by
  induction t with
  | nil => simp [Tab.set, Tab.get]
  | cons p t ih =>
    obtain ⟨k, v⟩ := p
    by_cases h1 : i < k
    · simp [Tab.set, Tab.get, h1]
    · by_cases h2 : i = k
      · simp [Tab.set, Tab.get, h2]
      · simp [Tab.set, Tab.get, h1, h2, ih, Ne.symm h2]

theorem tab_get_set_other (d : α) (t : Tab α) {i j : Nat} (x : α) (h : j ≠ i) : Tab.get d (Tab.set t i x) j = Tab.get d t j := by
  induction t with
  | nil => simp [Tab.set, Tab.get, Ne.symm h]
  | cons p t ih =>
    obtain ⟨k, v⟩ := p
    by_cases h1 : i < k
    · simp [Tab.set, Tab.get, h1, Ne.symm h]
    · by_cases h2 : i = k
      · subst h2; simp [Tab.set, Tab.get, Ne.symm h]
      · simp [Tab.set, Tab.get, h1, h2, ih]

/-- What a table holds after a write. -/
theorem tab_get_set (d : α) (t : Tab α) (i j : Nat) (x : α) :
    Tab.get d (Tab.set t i x) j = if j = i then x else Tab.get d t j := by
  by_cases h : j = i
  · subst h; simp
  · simp [tab_get_set_other d t x h, h]

@[simp] theorem tab_find_set_same (t : Tab α) (i : Nat) (x : α) : Tab.find? (Tab.set t i x) i = some x := by
  induction t with
  | nil => simp [Tab.set, Tab.find?]
  | cons p t ih =>
    obtain ⟨k, v⟩ := p
    by_cases h1 : i < k
    · simp [Tab.set, Tab.find?, h1]
    · by_cases h2 : i = k
      · simp [Tab.set, Tab.find?, h2]
      · simp [Tab.set, Tab.find?, h1, h2, ih, Ne.symm h2]

theorem tab_find_set_other (t : Tab α) {i j : Nat} (x : α) (h : j ≠ i) : Tab.find? (Tab.set t i x) j = Tab.find? t j := by
  induction t with
  | nil => simp [Tab.set, Tab.find?, Ne.symm h]
  | cons p t ih =>
    obtain ⟨k, v⟩ := p
    by_cases h1 : i < k
    · simp [Tab.set, Tab.find?, h1, Ne.symm h]
    · by_cases h2 : i = k
      · subst h2; simp [Tab.set, Tab.find?, Ne.symm h]
      · simp [Tab.set, Tab.find?, h1, h2, ih]

/-- What a table holds after a key is removed. -/
theorem tab_get_del (d : α) (t : Tab α) (i j : Nat) : Tab.get d (Tab.del t i) j = if j = i then d else Tab.get d t j := by
  induction t with
  | nil => simp [Tab.del, Tab.get]
  | cons p t ih =>
    obtain ⟨k, v⟩ := p
    by_cases h : k = i
    · subst h
      by_cases hj : j = k
      · subst hj; simpa [Tab.del] using ih
      · simp [Tab.del, Tab.get, ih, hj, Ne.symm hj]
    · by_cases hj : j = i
      · subst hj; simp [Tab.del, Tab.get, ih, h]
      · simp [Tab.del, Tab.get, ih, h, hj]

/-- The order of the keys, as a property of the list. -/
theorem tab_wf_iff (t : Tab α) : Tab.wf t = true ↔ t.Pairwise fun a b => a.1 < b.1 := by
  induction t with
  | nil => simp [Tab.wf]
  | cons p t ih =>
    obtain ⟨k, v⟩ := p
    cases t with
    | nil => simp [Tab.wf]
    | cons q t =>
      obtain ⟨k', v'⟩ := q
      simp only [Tab.wf, Bool.and_eq_true, decide_eq_true_eq, ih]
      constructor
      · rintro ⟨h, hp⟩
        refine List.pairwise_cons.2 ⟨?_, hp⟩
        intro y hy
        rcases List.mem_cons.1 hy with rfl | hy
        · exact h
        · exact lt_trans h ((List.pairwise_cons.1 hp).1 y hy)
      · intro h
        exact ⟨(List.pairwise_cons.1 h).1 _ (.head _), (List.pairwise_cons.1 h).2⟩

/-- An entry after a write is the new one, or stood before. -/
theorem tab_mem_set {t : Tab α} {i : Nat} {x : α} {y : Nat × α} (h : y ∈ Tab.set t i x) : y = (i, x) ∨ y ∈ t := by
  induction t with
  | nil => simpa [Tab.set] using h
  | cons p t ih =>
    obtain ⟨k, v⟩ := p
    simp only [Tab.set] at h
    split at h
    · rcases List.mem_cons.1 h with h | h
      · exact .inl h
      · exact .inr h
    · split at h
      · rcases List.mem_cons.1 h with h | h
        · exact .inl h
        · exact .inr (.tail _ h)
      · rcases List.mem_cons.1 h with h | h
        · exact .inr (h ▸ .head _)
        · exact (ih h).imp id (.tail _)

/-- An entry after a removal stood before. -/
theorem tab_mem_del {t : Tab α} {i : Nat} {y : Nat × α} (h : y ∈ Tab.del t i) : y ∈ t := by
  induction t with
  | nil => simp [Tab.del] at h
  | cons p t ih =>
    obtain ⟨k, v⟩ := p
    simp only [Tab.del] at h
    split at h
    · exact .tail _ (ih h)
    · rcases List.mem_cons.1 h with h | h
      · exact h ▸ .head _
      · exact .tail _ (ih h)

/-- A write keeps the order of the keys. -/
theorem tab_wf_set {t : Tab α} (h : Tab.wf t = true) (i : Nat) (x : α) : Tab.wf (Tab.set t i x) = true := by
  rw [tab_wf_iff] at h ⊢
  induction t with
  | nil => simp [Tab.set]
  | cons p t ih =>
    obtain ⟨k, v⟩ := p
    obtain ⟨hk, ht⟩ := List.pairwise_cons.1 h
    simp only [Tab.set]
    split
    · refine List.pairwise_cons.2 ⟨fun y hy => ?_, h⟩
      rcases List.mem_cons.1 hy with rfl | hy
      · assumption
      · exact lt_trans ‹i < k› (hk y hy)
    · split
      · rename_i he
        have he : i = k := by simpa using he
        subst he
        exact List.pairwise_cons.2 ⟨hk, ht⟩
      · rename_i h1 h2
        refine List.pairwise_cons.2 ⟨fun y hy => ?_, ih ht⟩
        rcases tab_mem_set hy with rfl | hy
        · have : i ≠ k := by simpa using h2
          simp; omega
        · exact hk y hy

/-- A removal keeps the order of the keys. -/
theorem tab_wf_del {t : Tab α} (h : Tab.wf t = true) (i : Nat) : Tab.wf (Tab.del t i) = true := by
  rw [tab_wf_iff] at h ⊢
  induction t with
  | nil => simp [Tab.del]
  | cons p t ih =>
    obtain ⟨k, v⟩ := p
    obtain ⟨hk, ht⟩ := List.pairwise_cons.1 h
    simp only [Tab.del]
    split
    · exact ih ht
    · exact List.pairwise_cons.2 ⟨fun y hy => hk y (tab_mem_del hy), ih ht⟩

end Sys2Proof.Laws
end

