-- ==== Sys2Proof/Laws/Memory.lean ====
section
/-! SUPPORT. Memory: a read after a write, and the canonical form that every memory operation keeps. -/

namespace Sys2Proof.Laws

open Sys2Proof Machine

/-- A byte after a byte is written. -/
theorem byteAt_putByte (m : List Host.Cell) (a b : Nat) (x : Byte) :
    byteAt (putByte m a x) b = if b = a then x else byteAt m b := by
  unfold byteAt putByte
  by_cases h : x = 0#8
  · subst h; simp [tab_get_del]
  · have : (x == 0#8) = false := by simpa using h
    simp [this, tab_get_set]

/-- A byte after bytes are written: the byte written there last, or what stood there. -/
theorem byteAt_writeBytes (m : List Host.Cell) (a b : Nat) (bs : List Byte) :
    byteAt (writeBytes m a bs) b = if a ≤ b ∧ b < a + bs.length then bs.getD (b - a) 0 else byteAt m b := by
  induction bs generalizing m a with
  | nil => simp [writeBytes]
  | cons x bs ih =>
    rw [writeBytes, ih, byteAt_putByte]
    by_cases h0 : b = a
    · subst h0; simp
    · by_cases h : a + 1 ≤ b ∧ b < a + 1 + bs.length
      · have h' : a ≤ b ∧ b < a + (x :: bs).length := by simp; omega
        obtain ⟨n, hn⟩ : ∃ n, b - a = n + 1 := ⟨b - a - 1, by omega⟩
        simp only [if_pos h, if_pos h', hn]
        have : b - (a + 1) = n := by omega
        simp [this]
      · have h' : ¬(a ≤ b ∧ b < a + (x :: bs).length) := by simp; omega
        rw [if_neg h, if_neg h', if_neg h0]

/-- A byte outside the bytes written keeps its value. -/
theorem byteAt_writeBytes_outside (m : List Host.Cell) (a b : Nat) (bs : List Byte) (h : b < a ∨ a + bs.length ≤ b) :
    byteAt (writeBytes m a bs) b = byteAt m b := by
  rw [byteAt_writeBytes, if_neg (by omega)]

/-- The bytes written are read back. -/
theorem readBytes_writeBytes (m : List Host.Cell) (a : Nat) (bs : List Byte) : readBytes (writeBytes m a bs) a bs.length = bs := by
  apply List.ext_getElem
  · simp [readBytes]
  · intro i h1 h2
    simp only [readBytes, List.getElem_map, List.getElem_range, byteAt_writeBytes]
    rw [if_pos ⟨by omega, by omega⟩]
    simp [h2]

/-- Writing a byte keeps the canonical form. -/
theorem putByte_wf {m : List Host.Cell} (h : Memory.wf m = true) (a : Nat) (x : Byte) : Memory.wf (putByte m a x) = true := by
  simp only [Memory.wf, Bool.and_eq_true, List.all_eq_true, bne_iff_ne] at h ⊢
  unfold putByte
  by_cases hx : x = 0#8
  · subst hx
    simp only [beq_self_eq_true, if_true]
    exact ⟨tab_wf_del h.1 a, fun y hy => h.2 y (tab_mem_del hy)⟩
  · have : (x == 0#8) = false := by simpa using hx
    simp only [this]
    refine ⟨tab_wf_set h.1 a x, fun y hy => ?_⟩
    rcases tab_mem_set hy with rfl | hy
    · exact hx
    · exact h.2 y hy

/-- Writing bytes keeps the canonical form. -/
theorem writeBytes_wf {m : List Host.Cell} (h : Memory.wf m = true) (a : Nat) (bs : List Byte) : Memory.wf (writeBytes m a bs) = true := by
  induction bs generalizing m a with
  | nil => exact h
  | cons x bs ih => exact ih (putByte_wf h a x) (a + 1)

/-- A write to the scratchpad keeps its canonical form. -/
theorem scrWrite_wf {c : Core} (h : Memory.wf c.cells = true) (off : Nat) (bs : List Byte) (d : Bool) :
    Memory.wf (c.scrWrite off bs d).cells = true := writeBytes_wf h off bs

/-- A write to the scratchpad that may leave full/empty state alone keeps its canonical form. -/
theorem scrPut_wf {c : Core} (h : Memory.wf c.cells = true) (full : Bool) (off : Nat) (bs : List Byte) (d : Bool) :
    Memory.wf (c.scrPut full off bs d).cells = true := writeBytes_wf h off bs

/-- Zeroing words keeps its canonical form. -/
theorem scrZero_wf {c : Core} (h : Memory.wf c.cells = true) (w n : Nat) : Memory.wf (c.scrZero w n).cells = true := writeBytes_wf h _ _

/-- Emptying words writes no byte. -/
@[simp] theorem scrEmpty_cells (c : Core) (w n : Nat) : (c.scrEmpty w n).cells = c.cells := rfl

/-- An engine write keeps its canonical form. -/
theorem engineWrite_wf {c : Core} (h : Memory.wf c.cells = true) (off : Nat) (bs : List Byte) (d : Bool) :
    Memory.wf (c.engineWrite off bs d).cells = true := writeBytes_wf h off bs

/-- A line that an OPEN write meets keeps the canonical form of HBM, and leaves the other memories alone. -/
theorem openLine_keeps (s : State) (n : Nat) :
    (Memory.wf s.hbm = true → Memory.wf (s.openLine n).hbm = true) ∧ (s.openLine n).hostMem = s.hostMem ∧ (s.openLine n).cores = s.cores := by
  unfold State.openLine
  split
  · exact ⟨fun h => writeBytes_wf h _ _, rfl, rfl⟩
  · exact ⟨id, rfl, rfl⟩

theorem openLines_keep (ls : List Nat) (s : State) :
    (Memory.wf s.hbm = true → Memory.wf (ls.foldl State.openLine s).hbm = true) ∧
    (ls.foldl State.openLine s).hostMem = s.hostMem ∧ (ls.foldl State.openLine s).cores = s.cores := by
  induction ls generalizing s with
  | nil => exact ⟨id, rfl, rfl⟩
  | cons n ls ih =>
    obtain ⟨a, b, c⟩ := openLine_keeps s n
    obtain ⟨a', b', c'⟩ := ih (s.openLine n)
    exact ⟨fun h => a' (a h), b'.trans b, c'.trans c⟩

/-- Filling cache lines writes no memory. -/
@[simp] theorem fillLines_memory (s : State) (t : Trans) (n : Nat) :
    (s.fillLines t n).hbm = s.hbm ∧ (s.fillLines t n).hostMem = s.hostMem ∧ (s.fillLines t n).cores = s.cores := by
  unfold State.fillLines
  split <;> exact ⟨rfl, rfl, rfl⟩

/-- Marking lines dirty writes no memory, and changes no tag and no full/empty state. -/
@[simp] theorem dirtyFor_memory (s : State) (c : Bool) (ls : List Nat) :
    (s.dirtyFor c ls).hbm = s.hbm ∧ (s.dirtyFor c ls).hostMem = s.hostMem ∧ (s.dirtyFor c ls).cores = s.cores ∧
    (s.dirtyFor c ls).fullWords = s.fullWords ∧ (s.dirtyFor c ls).lines = s.lines := by
  unfold State.dirtyFor
  split <;> exact ⟨rfl, rfl, rfl, rfl, rfl⟩

/-- What a slice drops keeps the canonical form of HBM, and leaves the other memories alone. -/
theorem revertLines_keep (xs : List (Nat × HbmLine)) (s : State) :
    (Memory.wf s.hbm = true → Memory.wf (xs.foldl State.revertLine s).hbm = true) ∧
    (xs.foldl State.revertLine s).hostMem = s.hostMem ∧ (xs.foldl State.revertLine s).cores = s.cores := by
  induction xs generalizing s with
  | nil => exact ⟨id, rfl, rfl⟩
  | cons x xs ih =>
    obtain ⟨a, b, c⟩ := ih (s.revertLine x)
    exact ⟨fun h => a (writeBytes_wf h _ _), b, c⟩

/-- So does dropping the lines of a set of slices. -/
theorem dropLines_keep (s : State) (p : Nat → Bool) :
    (Memory.wf s.hbm = true → Memory.wf (s.dropLines p).hbm = true) ∧ (s.dropLines p).hostMem = s.hostMem ∧ (s.dropLines p).cores = s.cores :=
  revertLines_keep _ s

/-- The bytes of a write, once its lines have their tags. -/
theorem putLines_keep (u : State) (t : Trans) (bs : List Byte) (fw po : List Nat) :
    let v := ({ u with hbm := writeBytes u.hbm t.pa bs, fullWords := fw, poison := po } : State).fillLines t bs.length
    (Memory.wf u.hbm = true → Memory.wf v.hbm = true) ∧ v.hostMem = u.hostMem ∧ v.cores = u.cores := by
  obtain ⟨ha, hb, hc⟩ := fillLines_memory { u with hbm := writeBytes u.hbm t.pa bs, fullWords := fw, poison := po } t bs.length
  exact ⟨fun h => ha ▸ writeBytes_wf h _ _, hb, hc⟩

/-- A write under a translation keeps the canonical forms, and writes no scratchpad. -/
theorem physPut_keeps (s : State) (full : Bool) (t : Trans) (bs : List Byte) :
    (Memory.wf s.hbm = true → Memory.wf (s.physPut full t bs).hbm = true) ∧
    (Memory.wf s.hostMem = true → Memory.wf (s.physPut full t bs).hostMem = true) ∧ (s.physPut full t bs).cores = s.cores := by
  unfold State.physPut
  split
  · exact ⟨id, fun h => writeBytes_wf h _ _, rfl⟩
  · dsimp only
    obtain ⟨da, db, dc, -, -⟩ := dirtyFor_memory s t.cache (linesTouched t.pa bs.length)
    generalize s.dirtyFor t.cache (linesTouched t.pa bs.length) = u at da db dc ⊢
    obtain ⟨ka, kb, kc⟩ := openLines_keep (linesTouched t.pa bs.length) u
    split
    · obtain ⟨pa, pb, pc⟩ := putLines_keep ((linesTouched t.pa bs.length).foldl State.openLine u) t bs
        (if full then insertAll (wordsTouched t.pa bs.length) ((linesTouched t.pa bs.length).foldl State.openLine u).fullWords
          else ((linesTouched t.pa bs.length).foldl State.openLine u).fullWords)
        (((linesTouched t.pa bs.length).foldl State.openLine u).poison.filter fun l => !(coversLine t.pa bs.length l))
      exact ⟨fun h => pa (ka (da ▸ h)), fun h => by rw [pb, kb, db]; exact h, pc.trans (kc.trans dc)⟩
    · obtain ⟨pa, pb, pc⟩ := putLines_keep
        { u with lines := (linesTouched t.pa bs.length).foldl (fun m l => Tab.set m l (u.lineTag t)) u.lines } t bs
        (if full then insertAll (wordsTouched t.pa bs.length) u.fullWords else u.fullWords)
        (u.poison.filter fun l => !(coversLine t.pa bs.length l))
      exact ⟨fun h => pa (da ▸ h), fun h => by rw [pb]; exact db ▸ h, pc.trans dc⟩

/-- A write by an agent of R245 keeps the canonical forms, and writes no scratchpad. -/
theorem physWrite_keeps (s : State) (t : Trans) (bs : List Byte) :
    (Memory.wf s.hbm = true → Memory.wf (s.physWrite t bs).hbm = true) ∧
    (Memory.wf s.hostMem = true → Memory.wf (s.physWrite t bs).hostMem = true) ∧ (s.physWrite t bs).cores = s.cores :=
  physPut_keeps s true t bs

/-- Writing pieces in order keeps the canonical forms, and writes no scratchpad. -/
theorem writePieces_keeps (ps : List Piece) (s : State) (bs : List Byte) :
    (Memory.wf s.hbm = true → Memory.wf (s.writePieces ps bs).hbm = true) ∧
    (Memory.wf s.hostMem = true → Memory.wf (s.writePieces ps bs).hostMem = true) ∧ (s.writePieces ps bs).cores = s.cores := by
  induction ps generalizing s bs with
  | nil => exact ⟨id, id, rfl⟩
  | cons p ps ih =>
    obtain ⟨a, b, c⟩ := physWrite_keeps s p.t (bs.take p.n)
    obtain ⟨a', b', c'⟩ := ih (s.physWrite p.t (bs.take p.n)) (bs.drop p.n)
    exact ⟨fun h => a' (a h), fun h => b' (b h), c'.trans c⟩

/-- So does writing them by an agent that changes no full/empty state. -/
theorem putPieces_keeps (ps : List Piece) (s : State) (bs : List Byte) :
    (Memory.wf s.hbm = true → Memory.wf (s.putPieces ps bs).hbm = true) ∧
    (Memory.wf s.hostMem = true → Memory.wf (s.putPieces ps bs).hostMem = true) ∧ (s.putPieces ps bs).cores = s.cores := by
  induction ps generalizing s bs with
  | nil => exact ⟨id, id, rfl⟩
  | cons p ps ih =>
    obtain ⟨a, b, c⟩ := physPut_keeps s false p.t (bs.take p.n)
    obtain ⟨a', b', c'⟩ := ih (s.physPut false p.t (bs.take p.n)) (bs.drop p.n)
    exact ⟨fun h => a' (a h), fun h => b' (b h), c'.trans c⟩

/-- A write without full/empty state leaves every word as full or empty as it was. -/
@[simp] theorem physPut_fullWords (s : State) (t : Trans) (bs : List Byte) : (s.physPut false t bs).fullWords = s.fullWords := by
  have lines : ∀ (ls : List Nat) (u : State), (ls.foldl State.openLine u).fullWords = u.fullWords := by
    intro ls
    induction ls with
    | nil => exact fun _ => rfl
    | cons n ls ih => intro u; refine (ih (u.openLine n)).trans ?_; unfold State.openLine; split <;> rfl
  unfold State.physPut
  split
  · rfl
  · dsimp only [State.fillLines]
    split <;> split <;> simp [lines, dirtyFor_memory]

/-- The oldest posted write that reaches the host is one write fewer that the host does not see. -/
theorem postOldest_view (s : State) : s.postOldest.hostMem = s.hostMem ∧ s.postOldest.posted = s.posted.drop 1 := ⟨rfl, rfl⟩

/-- Once every posted write has arrived, the host sees what the package has written. -/
@[simp] theorem postAll_view (s : State) : s.postAll.hostView = s.hostMem := rfl

/-- A store of the host keeps the canonical form of its memory. -/
theorem hostStore_wf {s : State} (h : Memory.wf s.hostMem = true) (a : Nat) (bs : List Byte) : Memory.wf (s.hostStore a bs).hostMem = true := by
  induction bs generalizing s a with
  | nil => exact h
  | cons b bs ih =>
    refine ih ?_ (a + 1)
    unfold State.hostPut
    split
    · exact h
    · exact writeBytes_wf h _ _

/-- Every memory of the package right after reset is in its canonical form. -/
theorem reset_memories : Safety.MemoriesWf State.reset := ⟨rfl, rfl, fun _ => rfl⟩

end Sys2Proof.Laws
end

