-- ==== Sys2Proof/Laws/State.lean ====
section
/-! SUPPORT. What each named update of the state writes: its own table, and no other field. -/

namespace Sys2Proof.Laws

open Sys2Proof Machine

/-! ## `State.setCore` -/

@[simp] theorem setCore_agenda (s : State) (k : Nat) (c : Core) : (s.setCore k c).agenda = s.agenda := rfl
@[simp] theorem setCore_agent (s : State) (k : Nat) (c : Core) : (s.setCore k c).agent = s.agent := rfl
@[simp] theorem setCore_rota (s : State) (k : Nat) (c : Core) : (s.setCore k c).rota = s.rota := rfl
@[simp] theorem setCore_free (s : State) (k : Nat) (c : Core) : (s.setCore k c).free = s.free := rfl
@[simp] theorem setCore_nextId (s : State) (k : Nat) (c : Core) : (s.setCore k c).nextId = s.nextId := rfl
@[simp] theorem setCore_board (s : State) (k : Nat) (c : Core) : (s.setCore k c).board = s.board := rfl
@[simp] theorem setCore_fns (s : State) (k : Nat) (c : Core) : (s.setCore k c).fns = s.fns := rfl
@[simp] theorem setCore_queues (s : State) (k : Nat) (c : Core) : (s.setCore k c).queues = s.queues := rfl
@[simp] theorem setCore_scheds (s : State) (k : Nat) (c : Core) : (s.setCore k c).scheds = s.scheds := rfl
@[simp] theorem setCore_launches (s : State) (k : Nat) (c : Core) : (s.setCore k c).launches = s.launches := rfl
@[simp] theorem setCore_seqs (s : State) (k : Nat) (c : Core) : (s.setCore k c).seqs = s.seqs := rfl
@[simp] theorem setCore_parts (s : State) (k : Nat) (c : Core) : (s.setCore k c).parts = s.parts := rfl
@[simp] theorem setCore_slots (s : State) (k : Nat) (c : Core) : (s.setCore k c).slots = s.slots := rfl
@[simp] theorem setCore_drains (s : State) (k : Nat) (c : Core) : (s.setCore k c).drains = s.drains := rfl
@[simp] theorem setCore_serpents (s : State) (k : Nat) (c : Core) : (s.setCore k c).serpents = s.serpents := rfl
@[simp] theorem setCore_jobs (s : State) (k : Nat) (c : Core) : (s.setCore k c).jobs = s.jobs := rfl
@[simp] theorem setCore_epochs (s : State) (k : Nat) (c : Core) : (s.setCore k c).epochs = s.epochs := rfl
@[simp] theorem setCore_records (s : State) (k : Nat) (c : Core) : (s.setCore k c).records = s.records := rfl
@[simp] theorem setCore_requests (s : State) (k : Nat) (c : Core) : (s.setCore k c).requests = s.requests := rfl
@[simp] theorem setCore_answers (s : State) (k : Nat) (c : Core) : (s.setCore k c).answers = s.answers := rfl
@[simp] theorem setCore_reqids (s : State) (k : Nat) (c : Core) : (s.setCore k c).reqids = s.reqids := rfl
@[simp] theorem setCore_rounds (s : State) (k : Nat) (c : Core) : (s.setCore k c).rounds = s.rounds := rfl
@[simp] theorem setCore_gens (s : State) (k : Nat) (c : Core) : (s.setCore k c).gens = s.gens := rfl
@[simp] theorem setCore_ports (s : State) (k : Nat) (c : Core) : (s.setCore k c).ports = s.ports := rfl
@[simp] theorem setCore_sent (s : State) (k : Nat) (c : Core) : (s.setCore k c).sent = s.sent := rfl
@[simp] theorem setCore_hbm (s : State) (k : Nat) (c : Core) : (s.setCore k c).hbm = s.hbm := rfl
@[simp] theorem setCore_hostMem (s : State) (k : Nat) (c : Core) : (s.setCore k c).hostMem = s.hostMem := rfl
@[simp] theorem setCore_hostDead (s : State) (k : Nat) (c : Core) : (s.setCore k c).hostDead = s.hostDead := rfl
@[simp] theorem setCore_posted (s : State) (k : Nat) (c : Core) : (s.setCore k c).posted = s.posted := rfl
@[simp] theorem setCore_fullWords (s : State) (k : Nat) (c : Core) : (s.setCore k c).fullWords = s.fullWords := rfl
@[simp] theorem setCore_lines (s : State) (k : Nat) (c : Core) : (s.setCore k c).lines = s.lines := rfl
@[simp] theorem setCore_cache (s : State) (k : Nat) (c : Core) : (s.setCore k c).cache = s.cache := rfl
@[simp] theorem setCore_dirty (s : State) (k : Nat) (c : Core) : (s.setCore k c).dirty = s.dirty := rfl
@[simp] theorem setCore_poison (s : State) (k : Nat) (c : Core) : (s.setCore k c).poison = s.poison := rfl
@[simp] theorem setCore_locks (s : State) (k : Nat) (c : Core) : (s.setCore k c).locks = s.locks := rfl
@[simp] theorem setCore_walkers (s : State) (k : Nat) (c : Core) : (s.setCore k c).walkers = s.walkers := rfl
@[simp] theorem setCore_clusterTlb (s : State) (k : Nat) (c : Core) : (s.setCore k c).clusterTlb = s.clusterTlb := rfl
@[simp] theorem setCore_sessions (s : State) (k : Nat) (c : Core) : (s.setCore k c).sessions = s.sessions := rfl
@[simp] theorem setCore_signing (s : State) (k : Nat) (c : Core) : (s.setCore k c).signing = s.signing := rfl
@[simp] theorem setCore_draws (s : State) (k : Nat) (c : Core) : (s.setCore k c).draws = s.draws := rfl
@[simp] theorem setCore_checkpoints (s : State) (k : Nat) (c : Core) : (s.setCore k c).checkpoints = s.checkpoints := rfl

/-! ## `State.onCore` -/

@[simp] theorem onCore_agenda (s : State) (k : Nat) (f : Core → Core) : (s.onCore k f).agenda = s.agenda := rfl
@[simp] theorem onCore_agent (s : State) (k : Nat) (f : Core → Core) : (s.onCore k f).agent = s.agent := rfl
@[simp] theorem onCore_rota (s : State) (k : Nat) (f : Core → Core) : (s.onCore k f).rota = s.rota := rfl
@[simp] theorem onCore_free (s : State) (k : Nat) (f : Core → Core) : (s.onCore k f).free = s.free := rfl
@[simp] theorem onCore_nextId (s : State) (k : Nat) (f : Core → Core) : (s.onCore k f).nextId = s.nextId := rfl
@[simp] theorem onCore_board (s : State) (k : Nat) (f : Core → Core) : (s.onCore k f).board = s.board := rfl
@[simp] theorem onCore_fns (s : State) (k : Nat) (f : Core → Core) : (s.onCore k f).fns = s.fns := rfl
@[simp] theorem onCore_queues (s : State) (k : Nat) (f : Core → Core) : (s.onCore k f).queues = s.queues := rfl
@[simp] theorem onCore_scheds (s : State) (k : Nat) (f : Core → Core) : (s.onCore k f).scheds = s.scheds := rfl
@[simp] theorem onCore_launches (s : State) (k : Nat) (f : Core → Core) : (s.onCore k f).launches = s.launches := rfl
@[simp] theorem onCore_seqs (s : State) (k : Nat) (f : Core → Core) : (s.onCore k f).seqs = s.seqs := rfl
@[simp] theorem onCore_parts (s : State) (k : Nat) (f : Core → Core) : (s.onCore k f).parts = s.parts := rfl
@[simp] theorem onCore_slots (s : State) (k : Nat) (f : Core → Core) : (s.onCore k f).slots = s.slots := rfl
@[simp] theorem onCore_drains (s : State) (k : Nat) (f : Core → Core) : (s.onCore k f).drains = s.drains := rfl
@[simp] theorem onCore_serpents (s : State) (k : Nat) (f : Core → Core) : (s.onCore k f).serpents = s.serpents := rfl
@[simp] theorem onCore_jobs (s : State) (k : Nat) (f : Core → Core) : (s.onCore k f).jobs = s.jobs := rfl
@[simp] theorem onCore_epochs (s : State) (k : Nat) (f : Core → Core) : (s.onCore k f).epochs = s.epochs := rfl
@[simp] theorem onCore_records (s : State) (k : Nat) (f : Core → Core) : (s.onCore k f).records = s.records := rfl
@[simp] theorem onCore_requests (s : State) (k : Nat) (f : Core → Core) : (s.onCore k f).requests = s.requests := rfl
@[simp] theorem onCore_answers (s : State) (k : Nat) (f : Core → Core) : (s.onCore k f).answers = s.answers := rfl
@[simp] theorem onCore_reqids (s : State) (k : Nat) (f : Core → Core) : (s.onCore k f).reqids = s.reqids := rfl
@[simp] theorem onCore_rounds (s : State) (k : Nat) (f : Core → Core) : (s.onCore k f).rounds = s.rounds := rfl
@[simp] theorem onCore_gens (s : State) (k : Nat) (f : Core → Core) : (s.onCore k f).gens = s.gens := rfl
@[simp] theorem onCore_ports (s : State) (k : Nat) (f : Core → Core) : (s.onCore k f).ports = s.ports := rfl
@[simp] theorem onCore_sent (s : State) (k : Nat) (f : Core → Core) : (s.onCore k f).sent = s.sent := rfl
@[simp] theorem onCore_hbm (s : State) (k : Nat) (f : Core → Core) : (s.onCore k f).hbm = s.hbm := rfl
@[simp] theorem onCore_hostMem (s : State) (k : Nat) (f : Core → Core) : (s.onCore k f).hostMem = s.hostMem := rfl
@[simp] theorem onCore_hostDead (s : State) (k : Nat) (f : Core → Core) : (s.onCore k f).hostDead = s.hostDead := rfl
@[simp] theorem onCore_posted (s : State) (k : Nat) (f : Core → Core) : (s.onCore k f).posted = s.posted := rfl
@[simp] theorem onCore_fullWords (s : State) (k : Nat) (f : Core → Core) : (s.onCore k f).fullWords = s.fullWords := rfl
@[simp] theorem onCore_lines (s : State) (k : Nat) (f : Core → Core) : (s.onCore k f).lines = s.lines := rfl
@[simp] theorem onCore_cache (s : State) (k : Nat) (f : Core → Core) : (s.onCore k f).cache = s.cache := rfl
@[simp] theorem onCore_dirty (s : State) (k : Nat) (f : Core → Core) : (s.onCore k f).dirty = s.dirty := rfl
@[simp] theorem onCore_poison (s : State) (k : Nat) (f : Core → Core) : (s.onCore k f).poison = s.poison := rfl
@[simp] theorem onCore_locks (s : State) (k : Nat) (f : Core → Core) : (s.onCore k f).locks = s.locks := rfl
@[simp] theorem onCore_walkers (s : State) (k : Nat) (f : Core → Core) : (s.onCore k f).walkers = s.walkers := rfl
@[simp] theorem onCore_clusterTlb (s : State) (k : Nat) (f : Core → Core) : (s.onCore k f).clusterTlb = s.clusterTlb := rfl
@[simp] theorem onCore_sessions (s : State) (k : Nat) (f : Core → Core) : (s.onCore k f).sessions = s.sessions := rfl
@[simp] theorem onCore_signing (s : State) (k : Nat) (f : Core → Core) : (s.onCore k f).signing = s.signing := rfl
@[simp] theorem onCore_draws (s : State) (k : Nat) (f : Core → Core) : (s.onCore k f).draws = s.draws := rfl
@[simp] theorem onCore_checkpoints (s : State) (k : Nat) (f : Core → Core) : (s.onCore k f).checkpoints = s.checkpoints := rfl

/-! ## `State.onElem` -/

@[simp] theorem onElem_agenda (s : State) (k e : Nat) (f : Elem → Elem) : (s.onElem k e f).agenda = s.agenda := rfl
@[simp] theorem onElem_agent (s : State) (k e : Nat) (f : Elem → Elem) : (s.onElem k e f).agent = s.agent := rfl
@[simp] theorem onElem_rota (s : State) (k e : Nat) (f : Elem → Elem) : (s.onElem k e f).rota = s.rota := rfl
@[simp] theorem onElem_free (s : State) (k e : Nat) (f : Elem → Elem) : (s.onElem k e f).free = s.free := rfl
@[simp] theorem onElem_nextId (s : State) (k e : Nat) (f : Elem → Elem) : (s.onElem k e f).nextId = s.nextId := rfl
@[simp] theorem onElem_board (s : State) (k e : Nat) (f : Elem → Elem) : (s.onElem k e f).board = s.board := rfl
@[simp] theorem onElem_fns (s : State) (k e : Nat) (f : Elem → Elem) : (s.onElem k e f).fns = s.fns := rfl
@[simp] theorem onElem_queues (s : State) (k e : Nat) (f : Elem → Elem) : (s.onElem k e f).queues = s.queues := rfl
@[simp] theorem onElem_scheds (s : State) (k e : Nat) (f : Elem → Elem) : (s.onElem k e f).scheds = s.scheds := rfl
@[simp] theorem onElem_launches (s : State) (k e : Nat) (f : Elem → Elem) : (s.onElem k e f).launches = s.launches := rfl
@[simp] theorem onElem_seqs (s : State) (k e : Nat) (f : Elem → Elem) : (s.onElem k e f).seqs = s.seqs := rfl
@[simp] theorem onElem_parts (s : State) (k e : Nat) (f : Elem → Elem) : (s.onElem k e f).parts = s.parts := rfl
@[simp] theorem onElem_slots (s : State) (k e : Nat) (f : Elem → Elem) : (s.onElem k e f).slots = s.slots := rfl
@[simp] theorem onElem_drains (s : State) (k e : Nat) (f : Elem → Elem) : (s.onElem k e f).drains = s.drains := rfl
@[simp] theorem onElem_serpents (s : State) (k e : Nat) (f : Elem → Elem) : (s.onElem k e f).serpents = s.serpents := rfl
@[simp] theorem onElem_jobs (s : State) (k e : Nat) (f : Elem → Elem) : (s.onElem k e f).jobs = s.jobs := rfl
@[simp] theorem onElem_epochs (s : State) (k e : Nat) (f : Elem → Elem) : (s.onElem k e f).epochs = s.epochs := rfl
@[simp] theorem onElem_records (s : State) (k e : Nat) (f : Elem → Elem) : (s.onElem k e f).records = s.records := rfl
@[simp] theorem onElem_requests (s : State) (k e : Nat) (f : Elem → Elem) : (s.onElem k e f).requests = s.requests := rfl
@[simp] theorem onElem_answers (s : State) (k e : Nat) (f : Elem → Elem) : (s.onElem k e f).answers = s.answers := rfl
@[simp] theorem onElem_reqids (s : State) (k e : Nat) (f : Elem → Elem) : (s.onElem k e f).reqids = s.reqids := rfl
@[simp] theorem onElem_rounds (s : State) (k e : Nat) (f : Elem → Elem) : (s.onElem k e f).rounds = s.rounds := rfl
@[simp] theorem onElem_gens (s : State) (k e : Nat) (f : Elem → Elem) : (s.onElem k e f).gens = s.gens := rfl
@[simp] theorem onElem_ports (s : State) (k e : Nat) (f : Elem → Elem) : (s.onElem k e f).ports = s.ports := rfl
@[simp] theorem onElem_sent (s : State) (k e : Nat) (f : Elem → Elem) : (s.onElem k e f).sent = s.sent := rfl
@[simp] theorem onElem_hbm (s : State) (k e : Nat) (f : Elem → Elem) : (s.onElem k e f).hbm = s.hbm := rfl
@[simp] theorem onElem_hostMem (s : State) (k e : Nat) (f : Elem → Elem) : (s.onElem k e f).hostMem = s.hostMem := rfl
@[simp] theorem onElem_hostDead (s : State) (k e : Nat) (f : Elem → Elem) : (s.onElem k e f).hostDead = s.hostDead := rfl
@[simp] theorem onElem_posted (s : State) (k e : Nat) (f : Elem → Elem) : (s.onElem k e f).posted = s.posted := rfl
@[simp] theorem onElem_fullWords (s : State) (k e : Nat) (f : Elem → Elem) : (s.onElem k e f).fullWords = s.fullWords := rfl
@[simp] theorem onElem_lines (s : State) (k e : Nat) (f : Elem → Elem) : (s.onElem k e f).lines = s.lines := rfl
@[simp] theorem onElem_cache (s : State) (k e : Nat) (f : Elem → Elem) : (s.onElem k e f).cache = s.cache := rfl
@[simp] theorem onElem_dirty (s : State) (k e : Nat) (f : Elem → Elem) : (s.onElem k e f).dirty = s.dirty := rfl
@[simp] theorem onElem_poison (s : State) (k e : Nat) (f : Elem → Elem) : (s.onElem k e f).poison = s.poison := rfl
@[simp] theorem onElem_locks (s : State) (k e : Nat) (f : Elem → Elem) : (s.onElem k e f).locks = s.locks := rfl
@[simp] theorem onElem_walkers (s : State) (k e : Nat) (f : Elem → Elem) : (s.onElem k e f).walkers = s.walkers := rfl
@[simp] theorem onElem_clusterTlb (s : State) (k e : Nat) (f : Elem → Elem) : (s.onElem k e f).clusterTlb = s.clusterTlb := rfl
@[simp] theorem onElem_sessions (s : State) (k e : Nat) (f : Elem → Elem) : (s.onElem k e f).sessions = s.sessions := rfl
@[simp] theorem onElem_signing (s : State) (k e : Nat) (f : Elem → Elem) : (s.onElem k e f).signing = s.signing := rfl
@[simp] theorem onElem_draws (s : State) (k e : Nat) (f : Elem → Elem) : (s.onElem k e f).draws = s.draws := rfl
@[simp] theorem onElem_checkpoints (s : State) (k e : Nat) (f : Elem → Elem) : (s.onElem k e f).checkpoints = s.checkpoints := rfl

/-! ## `State.onNode` -/

@[simp] theorem onNode_agenda (s : State) (k n : Nat) (f : Node → Node) : (s.onNode k n f).agenda = s.agenda := rfl
@[simp] theorem onNode_agent (s : State) (k n : Nat) (f : Node → Node) : (s.onNode k n f).agent = s.agent := rfl
@[simp] theorem onNode_rota (s : State) (k n : Nat) (f : Node → Node) : (s.onNode k n f).rota = s.rota := rfl
@[simp] theorem onNode_free (s : State) (k n : Nat) (f : Node → Node) : (s.onNode k n f).free = s.free := rfl
@[simp] theorem onNode_nextId (s : State) (k n : Nat) (f : Node → Node) : (s.onNode k n f).nextId = s.nextId := rfl
@[simp] theorem onNode_board (s : State) (k n : Nat) (f : Node → Node) : (s.onNode k n f).board = s.board := rfl
@[simp] theorem onNode_fns (s : State) (k n : Nat) (f : Node → Node) : (s.onNode k n f).fns = s.fns := rfl
@[simp] theorem onNode_queues (s : State) (k n : Nat) (f : Node → Node) : (s.onNode k n f).queues = s.queues := rfl
@[simp] theorem onNode_scheds (s : State) (k n : Nat) (f : Node → Node) : (s.onNode k n f).scheds = s.scheds := rfl
@[simp] theorem onNode_launches (s : State) (k n : Nat) (f : Node → Node) : (s.onNode k n f).launches = s.launches := rfl
@[simp] theorem onNode_seqs (s : State) (k n : Nat) (f : Node → Node) : (s.onNode k n f).seqs = s.seqs := rfl
@[simp] theorem onNode_parts (s : State) (k n : Nat) (f : Node → Node) : (s.onNode k n f).parts = s.parts := rfl
@[simp] theorem onNode_slots (s : State) (k n : Nat) (f : Node → Node) : (s.onNode k n f).slots = s.slots := rfl
@[simp] theorem onNode_drains (s : State) (k n : Nat) (f : Node → Node) : (s.onNode k n f).drains = s.drains := rfl
@[simp] theorem onNode_serpents (s : State) (k n : Nat) (f : Node → Node) : (s.onNode k n f).serpents = s.serpents := rfl
@[simp] theorem onNode_jobs (s : State) (k n : Nat) (f : Node → Node) : (s.onNode k n f).jobs = s.jobs := rfl
@[simp] theorem onNode_epochs (s : State) (k n : Nat) (f : Node → Node) : (s.onNode k n f).epochs = s.epochs := rfl
@[simp] theorem onNode_records (s : State) (k n : Nat) (f : Node → Node) : (s.onNode k n f).records = s.records := rfl
@[simp] theorem onNode_requests (s : State) (k n : Nat) (f : Node → Node) : (s.onNode k n f).requests = s.requests := rfl
@[simp] theorem onNode_answers (s : State) (k n : Nat) (f : Node → Node) : (s.onNode k n f).answers = s.answers := rfl
@[simp] theorem onNode_reqids (s : State) (k n : Nat) (f : Node → Node) : (s.onNode k n f).reqids = s.reqids := rfl
@[simp] theorem onNode_rounds (s : State) (k n : Nat) (f : Node → Node) : (s.onNode k n f).rounds = s.rounds := rfl
@[simp] theorem onNode_gens (s : State) (k n : Nat) (f : Node → Node) : (s.onNode k n f).gens = s.gens := rfl
@[simp] theorem onNode_ports (s : State) (k n : Nat) (f : Node → Node) : (s.onNode k n f).ports = s.ports := rfl
@[simp] theorem onNode_sent (s : State) (k n : Nat) (f : Node → Node) : (s.onNode k n f).sent = s.sent := rfl
@[simp] theorem onNode_hbm (s : State) (k n : Nat) (f : Node → Node) : (s.onNode k n f).hbm = s.hbm := rfl
@[simp] theorem onNode_hostMem (s : State) (k n : Nat) (f : Node → Node) : (s.onNode k n f).hostMem = s.hostMem := rfl
@[simp] theorem onNode_hostDead (s : State) (k n : Nat) (f : Node → Node) : (s.onNode k n f).hostDead = s.hostDead := rfl
@[simp] theorem onNode_posted (s : State) (k n : Nat) (f : Node → Node) : (s.onNode k n f).posted = s.posted := rfl
@[simp] theorem onNode_fullWords (s : State) (k n : Nat) (f : Node → Node) : (s.onNode k n f).fullWords = s.fullWords := rfl
@[simp] theorem onNode_lines (s : State) (k n : Nat) (f : Node → Node) : (s.onNode k n f).lines = s.lines := rfl
@[simp] theorem onNode_cache (s : State) (k n : Nat) (f : Node → Node) : (s.onNode k n f).cache = s.cache := rfl
@[simp] theorem onNode_dirty (s : State) (k n : Nat) (f : Node → Node) : (s.onNode k n f).dirty = s.dirty := rfl
@[simp] theorem onNode_poison (s : State) (k n : Nat) (f : Node → Node) : (s.onNode k n f).poison = s.poison := rfl
@[simp] theorem onNode_locks (s : State) (k n : Nat) (f : Node → Node) : (s.onNode k n f).locks = s.locks := rfl
@[simp] theorem onNode_walkers (s : State) (k n : Nat) (f : Node → Node) : (s.onNode k n f).walkers = s.walkers := rfl
@[simp] theorem onNode_clusterTlb (s : State) (k n : Nat) (f : Node → Node) : (s.onNode k n f).clusterTlb = s.clusterTlb := rfl
@[simp] theorem onNode_sessions (s : State) (k n : Nat) (f : Node → Node) : (s.onNode k n f).sessions = s.sessions := rfl
@[simp] theorem onNode_signing (s : State) (k n : Nat) (f : Node → Node) : (s.onNode k n f).signing = s.signing := rfl
@[simp] theorem onNode_draws (s : State) (k n : Nat) (f : Node → Node) : (s.onNode k n f).draws = s.draws := rfl
@[simp] theorem onNode_checkpoints (s : State) (k n : Nat) (f : Node → Node) : (s.onNode k n f).checkpoints = s.checkpoints := rfl

/-! ## `State.onLaunch` -/

@[simp] theorem onLaunch_agenda (s : State) (l : Nat) (f : Launch → Launch) : (s.onLaunch l f).agenda = s.agenda := rfl
@[simp] theorem onLaunch_agent (s : State) (l : Nat) (f : Launch → Launch) : (s.onLaunch l f).agent = s.agent := rfl
@[simp] theorem onLaunch_rota (s : State) (l : Nat) (f : Launch → Launch) : (s.onLaunch l f).rota = s.rota := rfl
@[simp] theorem onLaunch_free (s : State) (l : Nat) (f : Launch → Launch) : (s.onLaunch l f).free = s.free := rfl
@[simp] theorem onLaunch_nextId (s : State) (l : Nat) (f : Launch → Launch) : (s.onLaunch l f).nextId = s.nextId := rfl
@[simp] theorem onLaunch_board (s : State) (l : Nat) (f : Launch → Launch) : (s.onLaunch l f).board = s.board := rfl
@[simp] theorem onLaunch_fns (s : State) (l : Nat) (f : Launch → Launch) : (s.onLaunch l f).fns = s.fns := rfl
@[simp] theorem onLaunch_queues (s : State) (l : Nat) (f : Launch → Launch) : (s.onLaunch l f).queues = s.queues := rfl
@[simp] theorem onLaunch_scheds (s : State) (l : Nat) (f : Launch → Launch) : (s.onLaunch l f).scheds = s.scheds := rfl
@[simp] theorem onLaunch_seqs (s : State) (l : Nat) (f : Launch → Launch) : (s.onLaunch l f).seqs = s.seqs := rfl
@[simp] theorem onLaunch_cores (s : State) (l : Nat) (f : Launch → Launch) : (s.onLaunch l f).cores = s.cores := rfl
@[simp] theorem onLaunch_parts (s : State) (l : Nat) (f : Launch → Launch) : (s.onLaunch l f).parts = s.parts := rfl
@[simp] theorem onLaunch_slots (s : State) (l : Nat) (f : Launch → Launch) : (s.onLaunch l f).slots = s.slots := rfl
@[simp] theorem onLaunch_drains (s : State) (l : Nat) (f : Launch → Launch) : (s.onLaunch l f).drains = s.drains := rfl
@[simp] theorem onLaunch_serpents (s : State) (l : Nat) (f : Launch → Launch) : (s.onLaunch l f).serpents = s.serpents := rfl
@[simp] theorem onLaunch_jobs (s : State) (l : Nat) (f : Launch → Launch) : (s.onLaunch l f).jobs = s.jobs := rfl
@[simp] theorem onLaunch_epochs (s : State) (l : Nat) (f : Launch → Launch) : (s.onLaunch l f).epochs = s.epochs := rfl
@[simp] theorem onLaunch_records (s : State) (l : Nat) (f : Launch → Launch) : (s.onLaunch l f).records = s.records := rfl
@[simp] theorem onLaunch_requests (s : State) (l : Nat) (f : Launch → Launch) : (s.onLaunch l f).requests = s.requests := rfl
@[simp] theorem onLaunch_answers (s : State) (l : Nat) (f : Launch → Launch) : (s.onLaunch l f).answers = s.answers := rfl
@[simp] theorem onLaunch_reqids (s : State) (l : Nat) (f : Launch → Launch) : (s.onLaunch l f).reqids = s.reqids := rfl
@[simp] theorem onLaunch_rounds (s : State) (l : Nat) (f : Launch → Launch) : (s.onLaunch l f).rounds = s.rounds := rfl
@[simp] theorem onLaunch_gens (s : State) (l : Nat) (f : Launch → Launch) : (s.onLaunch l f).gens = s.gens := rfl
@[simp] theorem onLaunch_ports (s : State) (l : Nat) (f : Launch → Launch) : (s.onLaunch l f).ports = s.ports := rfl
@[simp] theorem onLaunch_sent (s : State) (l : Nat) (f : Launch → Launch) : (s.onLaunch l f).sent = s.sent := rfl
@[simp] theorem onLaunch_hbm (s : State) (l : Nat) (f : Launch → Launch) : (s.onLaunch l f).hbm = s.hbm := rfl
@[simp] theorem onLaunch_hostMem (s : State) (l : Nat) (f : Launch → Launch) : (s.onLaunch l f).hostMem = s.hostMem := rfl
@[simp] theorem onLaunch_hostDead (s : State) (l : Nat) (f : Launch → Launch) : (s.onLaunch l f).hostDead = s.hostDead := rfl
@[simp] theorem onLaunch_posted (s : State) (l : Nat) (f : Launch → Launch) : (s.onLaunch l f).posted = s.posted := rfl
@[simp] theorem onLaunch_fullWords (s : State) (l : Nat) (f : Launch → Launch) : (s.onLaunch l f).fullWords = s.fullWords := rfl
@[simp] theorem onLaunch_lines (s : State) (l : Nat) (f : Launch → Launch) : (s.onLaunch l f).lines = s.lines := rfl
@[simp] theorem onLaunch_cache (s : State) (l : Nat) (f : Launch → Launch) : (s.onLaunch l f).cache = s.cache := rfl
@[simp] theorem onLaunch_dirty (s : State) (l : Nat) (f : Launch → Launch) : (s.onLaunch l f).dirty = s.dirty := rfl
@[simp] theorem onLaunch_poison (s : State) (l : Nat) (f : Launch → Launch) : (s.onLaunch l f).poison = s.poison := rfl
@[simp] theorem onLaunch_locks (s : State) (l : Nat) (f : Launch → Launch) : (s.onLaunch l f).locks = s.locks := rfl
@[simp] theorem onLaunch_walkers (s : State) (l : Nat) (f : Launch → Launch) : (s.onLaunch l f).walkers = s.walkers := rfl
@[simp] theorem onLaunch_clusterTlb (s : State) (l : Nat) (f : Launch → Launch) : (s.onLaunch l f).clusterTlb = s.clusterTlb := rfl
@[simp] theorem onLaunch_sessions (s : State) (l : Nat) (f : Launch → Launch) : (s.onLaunch l f).sessions = s.sessions := rfl
@[simp] theorem onLaunch_signing (s : State) (l : Nat) (f : Launch → Launch) : (s.onLaunch l f).signing = s.signing := rfl
@[simp] theorem onLaunch_draws (s : State) (l : Nat) (f : Launch → Launch) : (s.onLaunch l f).draws = s.draws := rfl
@[simp] theorem onLaunch_checkpoints (s : State) (l : Nat) (f : Launch → Launch) : (s.onLaunch l f).checkpoints = s.checkpoints := rfl

@[simp] theorem onLaunch_launch (s : State) (l : Nat) (f : Launch → Launch) : (s.onLaunch l f).launch l = f (s.launch l) := by
  simp [State.onLaunch, State.launch]

theorem onLaunch_launch_other (s : State) (l : Nat) (f : Launch → Launch) (j : Nat) (h : j ≠ l) : (s.onLaunch l f).launch j = s.launch j := by
  simp [State.onLaunch, State.launch, tab_get_set_other _ _ _ h]

/-! ## `State.onSeq` -/

@[simp] theorem onSeq_agenda (s : State) (c : Nat) (f : Seq → Seq) : (s.onSeq c f).agenda = s.agenda := rfl
@[simp] theorem onSeq_agent (s : State) (c : Nat) (f : Seq → Seq) : (s.onSeq c f).agent = s.agent := rfl
@[simp] theorem onSeq_rota (s : State) (c : Nat) (f : Seq → Seq) : (s.onSeq c f).rota = s.rota := rfl
@[simp] theorem onSeq_free (s : State) (c : Nat) (f : Seq → Seq) : (s.onSeq c f).free = s.free := rfl
@[simp] theorem onSeq_nextId (s : State) (c : Nat) (f : Seq → Seq) : (s.onSeq c f).nextId = s.nextId := rfl
@[simp] theorem onSeq_board (s : State) (c : Nat) (f : Seq → Seq) : (s.onSeq c f).board = s.board := rfl
@[simp] theorem onSeq_fns (s : State) (c : Nat) (f : Seq → Seq) : (s.onSeq c f).fns = s.fns := rfl
@[simp] theorem onSeq_queues (s : State) (c : Nat) (f : Seq → Seq) : (s.onSeq c f).queues = s.queues := rfl
@[simp] theorem onSeq_scheds (s : State) (c : Nat) (f : Seq → Seq) : (s.onSeq c f).scheds = s.scheds := rfl
@[simp] theorem onSeq_launches (s : State) (c : Nat) (f : Seq → Seq) : (s.onSeq c f).launches = s.launches := rfl
@[simp] theorem onSeq_cores (s : State) (c : Nat) (f : Seq → Seq) : (s.onSeq c f).cores = s.cores := rfl
@[simp] theorem onSeq_parts (s : State) (c : Nat) (f : Seq → Seq) : (s.onSeq c f).parts = s.parts := rfl
@[simp] theorem onSeq_slots (s : State) (c : Nat) (f : Seq → Seq) : (s.onSeq c f).slots = s.slots := rfl
@[simp] theorem onSeq_drains (s : State) (c : Nat) (f : Seq → Seq) : (s.onSeq c f).drains = s.drains := rfl
@[simp] theorem onSeq_serpents (s : State) (c : Nat) (f : Seq → Seq) : (s.onSeq c f).serpents = s.serpents := rfl
@[simp] theorem onSeq_jobs (s : State) (c : Nat) (f : Seq → Seq) : (s.onSeq c f).jobs = s.jobs := rfl
@[simp] theorem onSeq_epochs (s : State) (c : Nat) (f : Seq → Seq) : (s.onSeq c f).epochs = s.epochs := rfl
@[simp] theorem onSeq_records (s : State) (c : Nat) (f : Seq → Seq) : (s.onSeq c f).records = s.records := rfl
@[simp] theorem onSeq_requests (s : State) (c : Nat) (f : Seq → Seq) : (s.onSeq c f).requests = s.requests := rfl
@[simp] theorem onSeq_answers (s : State) (c : Nat) (f : Seq → Seq) : (s.onSeq c f).answers = s.answers := rfl
@[simp] theorem onSeq_reqids (s : State) (c : Nat) (f : Seq → Seq) : (s.onSeq c f).reqids = s.reqids := rfl
@[simp] theorem onSeq_rounds (s : State) (c : Nat) (f : Seq → Seq) : (s.onSeq c f).rounds = s.rounds := rfl
@[simp] theorem onSeq_gens (s : State) (c : Nat) (f : Seq → Seq) : (s.onSeq c f).gens = s.gens := rfl
@[simp] theorem onSeq_ports (s : State) (c : Nat) (f : Seq → Seq) : (s.onSeq c f).ports = s.ports := rfl
@[simp] theorem onSeq_sent (s : State) (c : Nat) (f : Seq → Seq) : (s.onSeq c f).sent = s.sent := rfl
@[simp] theorem onSeq_hbm (s : State) (c : Nat) (f : Seq → Seq) : (s.onSeq c f).hbm = s.hbm := rfl
@[simp] theorem onSeq_hostMem (s : State) (c : Nat) (f : Seq → Seq) : (s.onSeq c f).hostMem = s.hostMem := rfl
@[simp] theorem onSeq_hostDead (s : State) (c : Nat) (f : Seq → Seq) : (s.onSeq c f).hostDead = s.hostDead := rfl
@[simp] theorem onSeq_posted (s : State) (c : Nat) (f : Seq → Seq) : (s.onSeq c f).posted = s.posted := rfl
@[simp] theorem onSeq_fullWords (s : State) (c : Nat) (f : Seq → Seq) : (s.onSeq c f).fullWords = s.fullWords := rfl
@[simp] theorem onSeq_lines (s : State) (c : Nat) (f : Seq → Seq) : (s.onSeq c f).lines = s.lines := rfl
@[simp] theorem onSeq_cache (s : State) (c : Nat) (f : Seq → Seq) : (s.onSeq c f).cache = s.cache := rfl
@[simp] theorem onSeq_dirty (s : State) (c : Nat) (f : Seq → Seq) : (s.onSeq c f).dirty = s.dirty := rfl
@[simp] theorem onSeq_poison (s : State) (c : Nat) (f : Seq → Seq) : (s.onSeq c f).poison = s.poison := rfl
@[simp] theorem onSeq_locks (s : State) (c : Nat) (f : Seq → Seq) : (s.onSeq c f).locks = s.locks := rfl
@[simp] theorem onSeq_walkers (s : State) (c : Nat) (f : Seq → Seq) : (s.onSeq c f).walkers = s.walkers := rfl
@[simp] theorem onSeq_clusterTlb (s : State) (c : Nat) (f : Seq → Seq) : (s.onSeq c f).clusterTlb = s.clusterTlb := rfl
@[simp] theorem onSeq_sessions (s : State) (c : Nat) (f : Seq → Seq) : (s.onSeq c f).sessions = s.sessions := rfl
@[simp] theorem onSeq_signing (s : State) (c : Nat) (f : Seq → Seq) : (s.onSeq c f).signing = s.signing := rfl
@[simp] theorem onSeq_draws (s : State) (c : Nat) (f : Seq → Seq) : (s.onSeq c f).draws = s.draws := rfl
@[simp] theorem onSeq_checkpoints (s : State) (c : Nat) (f : Seq → Seq) : (s.onSeq c f).checkpoints = s.checkpoints := rfl

@[simp] theorem onSeq_seq (s : State) (c : Nat) (f : Seq → Seq) : (s.onSeq c f).seq c = f (s.seq c) := by
  simp [State.onSeq, State.seq]

theorem onSeq_seq_other (s : State) (c : Nat) (f : Seq → Seq) (j : Nat) (h : j ≠ c) : (s.onSeq c f).seq j = s.seq j := by
  simp [State.onSeq, State.seq, tab_get_set_other _ _ _ h]

/-! ## `State.onQueue` -/

@[simp] theorem onQueue_agenda (s : State) (q : Nat) (f : WorkQueue → WorkQueue) : (s.onQueue q f).agenda = s.agenda := rfl
@[simp] theorem onQueue_agent (s : State) (q : Nat) (f : WorkQueue → WorkQueue) : (s.onQueue q f).agent = s.agent := rfl
@[simp] theorem onQueue_rota (s : State) (q : Nat) (f : WorkQueue → WorkQueue) : (s.onQueue q f).rota = s.rota := rfl
@[simp] theorem onQueue_free (s : State) (q : Nat) (f : WorkQueue → WorkQueue) : (s.onQueue q f).free = s.free := rfl
@[simp] theorem onQueue_nextId (s : State) (q : Nat) (f : WorkQueue → WorkQueue) : (s.onQueue q f).nextId = s.nextId := rfl
@[simp] theorem onQueue_board (s : State) (q : Nat) (f : WorkQueue → WorkQueue) : (s.onQueue q f).board = s.board := rfl
@[simp] theorem onQueue_fns (s : State) (q : Nat) (f : WorkQueue → WorkQueue) : (s.onQueue q f).fns = s.fns := rfl
@[simp] theorem onQueue_scheds (s : State) (q : Nat) (f : WorkQueue → WorkQueue) : (s.onQueue q f).scheds = s.scheds := rfl
@[simp] theorem onQueue_launches (s : State) (q : Nat) (f : WorkQueue → WorkQueue) : (s.onQueue q f).launches = s.launches := rfl
@[simp] theorem onQueue_seqs (s : State) (q : Nat) (f : WorkQueue → WorkQueue) : (s.onQueue q f).seqs = s.seqs := rfl
@[simp] theorem onQueue_cores (s : State) (q : Nat) (f : WorkQueue → WorkQueue) : (s.onQueue q f).cores = s.cores := rfl
@[simp] theorem onQueue_parts (s : State) (q : Nat) (f : WorkQueue → WorkQueue) : (s.onQueue q f).parts = s.parts := rfl
@[simp] theorem onQueue_slots (s : State) (q : Nat) (f : WorkQueue → WorkQueue) : (s.onQueue q f).slots = s.slots := rfl
@[simp] theorem onQueue_drains (s : State) (q : Nat) (f : WorkQueue → WorkQueue) : (s.onQueue q f).drains = s.drains := rfl
@[simp] theorem onQueue_serpents (s : State) (q : Nat) (f : WorkQueue → WorkQueue) : (s.onQueue q f).serpents = s.serpents := rfl
@[simp] theorem onQueue_jobs (s : State) (q : Nat) (f : WorkQueue → WorkQueue) : (s.onQueue q f).jobs = s.jobs := rfl
@[simp] theorem onQueue_epochs (s : State) (q : Nat) (f : WorkQueue → WorkQueue) : (s.onQueue q f).epochs = s.epochs := rfl
@[simp] theorem onQueue_records (s : State) (q : Nat) (f : WorkQueue → WorkQueue) : (s.onQueue q f).records = s.records := rfl
@[simp] theorem onQueue_requests (s : State) (q : Nat) (f : WorkQueue → WorkQueue) : (s.onQueue q f).requests = s.requests := rfl
@[simp] theorem onQueue_answers (s : State) (q : Nat) (f : WorkQueue → WorkQueue) : (s.onQueue q f).answers = s.answers := rfl
@[simp] theorem onQueue_reqids (s : State) (q : Nat) (f : WorkQueue → WorkQueue) : (s.onQueue q f).reqids = s.reqids := rfl
@[simp] theorem onQueue_rounds (s : State) (q : Nat) (f : WorkQueue → WorkQueue) : (s.onQueue q f).rounds = s.rounds := rfl
@[simp] theorem onQueue_gens (s : State) (q : Nat) (f : WorkQueue → WorkQueue) : (s.onQueue q f).gens = s.gens := rfl
@[simp] theorem onQueue_ports (s : State) (q : Nat) (f : WorkQueue → WorkQueue) : (s.onQueue q f).ports = s.ports := rfl
@[simp] theorem onQueue_sent (s : State) (q : Nat) (f : WorkQueue → WorkQueue) : (s.onQueue q f).sent = s.sent := rfl
@[simp] theorem onQueue_hbm (s : State) (q : Nat) (f : WorkQueue → WorkQueue) : (s.onQueue q f).hbm = s.hbm := rfl
@[simp] theorem onQueue_hostMem (s : State) (q : Nat) (f : WorkQueue → WorkQueue) : (s.onQueue q f).hostMem = s.hostMem := rfl
@[simp] theorem onQueue_hostDead (s : State) (q : Nat) (f : WorkQueue → WorkQueue) : (s.onQueue q f).hostDead = s.hostDead := rfl
@[simp] theorem onQueue_posted (s : State) (q : Nat) (f : WorkQueue → WorkQueue) : (s.onQueue q f).posted = s.posted := rfl
@[simp] theorem onQueue_fullWords (s : State) (q : Nat) (f : WorkQueue → WorkQueue) : (s.onQueue q f).fullWords = s.fullWords := rfl
@[simp] theorem onQueue_lines (s : State) (q : Nat) (f : WorkQueue → WorkQueue) : (s.onQueue q f).lines = s.lines := rfl
@[simp] theorem onQueue_cache (s : State) (q : Nat) (f : WorkQueue → WorkQueue) : (s.onQueue q f).cache = s.cache := rfl
@[simp] theorem onQueue_dirty (s : State) (q : Nat) (f : WorkQueue → WorkQueue) : (s.onQueue q f).dirty = s.dirty := rfl
@[simp] theorem onQueue_poison (s : State) (q : Nat) (f : WorkQueue → WorkQueue) : (s.onQueue q f).poison = s.poison := rfl
@[simp] theorem onQueue_locks (s : State) (q : Nat) (f : WorkQueue → WorkQueue) : (s.onQueue q f).locks = s.locks := rfl
@[simp] theorem onQueue_walkers (s : State) (q : Nat) (f : WorkQueue → WorkQueue) : (s.onQueue q f).walkers = s.walkers := rfl
@[simp] theorem onQueue_clusterTlb (s : State) (q : Nat) (f : WorkQueue → WorkQueue) : (s.onQueue q f).clusterTlb = s.clusterTlb := rfl
@[simp] theorem onQueue_sessions (s : State) (q : Nat) (f : WorkQueue → WorkQueue) : (s.onQueue q f).sessions = s.sessions := rfl
@[simp] theorem onQueue_signing (s : State) (q : Nat) (f : WorkQueue → WorkQueue) : (s.onQueue q f).signing = s.signing := rfl
@[simp] theorem onQueue_draws (s : State) (q : Nat) (f : WorkQueue → WorkQueue) : (s.onQueue q f).draws = s.draws := rfl
@[simp] theorem onQueue_checkpoints (s : State) (q : Nat) (f : WorkQueue → WorkQueue) : (s.onQueue q f).checkpoints = s.checkpoints := rfl

@[simp] theorem onQueue_queue (s : State) (q : Nat) (f : WorkQueue → WorkQueue) : (s.onQueue q f).queue q = f (s.queue q) := by
  simp [State.onQueue, State.queue]

theorem onQueue_queue_other (s : State) (q : Nat) (f : WorkQueue → WorkQueue) (j : Nat) (h : j ≠ q) : (s.onQueue q f).queue j = s.queue j := by
  simp [State.onQueue, State.queue, tab_get_set_other _ _ _ h]

/-! ## `State.onPart` -/

@[simp] theorem onPart_agenda (s : State) (p : Nat) (f : Partition → Partition) : (s.onPart p f).agenda = s.agenda := rfl
@[simp] theorem onPart_agent (s : State) (p : Nat) (f : Partition → Partition) : (s.onPart p f).agent = s.agent := rfl
@[simp] theorem onPart_rota (s : State) (p : Nat) (f : Partition → Partition) : (s.onPart p f).rota = s.rota := rfl
@[simp] theorem onPart_free (s : State) (p : Nat) (f : Partition → Partition) : (s.onPart p f).free = s.free := rfl
@[simp] theorem onPart_nextId (s : State) (p : Nat) (f : Partition → Partition) : (s.onPart p f).nextId = s.nextId := rfl
@[simp] theorem onPart_board (s : State) (p : Nat) (f : Partition → Partition) : (s.onPart p f).board = s.board := rfl
@[simp] theorem onPart_fns (s : State) (p : Nat) (f : Partition → Partition) : (s.onPart p f).fns = s.fns := rfl
@[simp] theorem onPart_queues (s : State) (p : Nat) (f : Partition → Partition) : (s.onPart p f).queues = s.queues := rfl
@[simp] theorem onPart_scheds (s : State) (p : Nat) (f : Partition → Partition) : (s.onPart p f).scheds = s.scheds := rfl
@[simp] theorem onPart_launches (s : State) (p : Nat) (f : Partition → Partition) : (s.onPart p f).launches = s.launches := rfl
@[simp] theorem onPart_seqs (s : State) (p : Nat) (f : Partition → Partition) : (s.onPart p f).seqs = s.seqs := rfl
@[simp] theorem onPart_cores (s : State) (p : Nat) (f : Partition → Partition) : (s.onPart p f).cores = s.cores := rfl
@[simp] theorem onPart_slots (s : State) (p : Nat) (f : Partition → Partition) : (s.onPart p f).slots = s.slots := rfl
@[simp] theorem onPart_drains (s : State) (p : Nat) (f : Partition → Partition) : (s.onPart p f).drains = s.drains := rfl
@[simp] theorem onPart_serpents (s : State) (p : Nat) (f : Partition → Partition) : (s.onPart p f).serpents = s.serpents := rfl
@[simp] theorem onPart_jobs (s : State) (p : Nat) (f : Partition → Partition) : (s.onPart p f).jobs = s.jobs := rfl
@[simp] theorem onPart_epochs (s : State) (p : Nat) (f : Partition → Partition) : (s.onPart p f).epochs = s.epochs := rfl
@[simp] theorem onPart_records (s : State) (p : Nat) (f : Partition → Partition) : (s.onPart p f).records = s.records := rfl
@[simp] theorem onPart_requests (s : State) (p : Nat) (f : Partition → Partition) : (s.onPart p f).requests = s.requests := rfl
@[simp] theorem onPart_answers (s : State) (p : Nat) (f : Partition → Partition) : (s.onPart p f).answers = s.answers := rfl
@[simp] theorem onPart_reqids (s : State) (p : Nat) (f : Partition → Partition) : (s.onPart p f).reqids = s.reqids := rfl
@[simp] theorem onPart_rounds (s : State) (p : Nat) (f : Partition → Partition) : (s.onPart p f).rounds = s.rounds := rfl
@[simp] theorem onPart_gens (s : State) (p : Nat) (f : Partition → Partition) : (s.onPart p f).gens = s.gens := rfl
@[simp] theorem onPart_ports (s : State) (p : Nat) (f : Partition → Partition) : (s.onPart p f).ports = s.ports := rfl
@[simp] theorem onPart_sent (s : State) (p : Nat) (f : Partition → Partition) : (s.onPart p f).sent = s.sent := rfl
@[simp] theorem onPart_hbm (s : State) (p : Nat) (f : Partition → Partition) : (s.onPart p f).hbm = s.hbm := rfl
@[simp] theorem onPart_hostMem (s : State) (p : Nat) (f : Partition → Partition) : (s.onPart p f).hostMem = s.hostMem := rfl
@[simp] theorem onPart_hostDead (s : State) (p : Nat) (f : Partition → Partition) : (s.onPart p f).hostDead = s.hostDead := rfl
@[simp] theorem onPart_posted (s : State) (p : Nat) (f : Partition → Partition) : (s.onPart p f).posted = s.posted := rfl
@[simp] theorem onPart_fullWords (s : State) (p : Nat) (f : Partition → Partition) : (s.onPart p f).fullWords = s.fullWords := rfl
@[simp] theorem onPart_lines (s : State) (p : Nat) (f : Partition → Partition) : (s.onPart p f).lines = s.lines := rfl
@[simp] theorem onPart_cache (s : State) (p : Nat) (f : Partition → Partition) : (s.onPart p f).cache = s.cache := rfl
@[simp] theorem onPart_dirty (s : State) (p : Nat) (f : Partition → Partition) : (s.onPart p f).dirty = s.dirty := rfl
@[simp] theorem onPart_poison (s : State) (p : Nat) (f : Partition → Partition) : (s.onPart p f).poison = s.poison := rfl
@[simp] theorem onPart_locks (s : State) (p : Nat) (f : Partition → Partition) : (s.onPart p f).locks = s.locks := rfl
@[simp] theorem onPart_walkers (s : State) (p : Nat) (f : Partition → Partition) : (s.onPart p f).walkers = s.walkers := rfl
@[simp] theorem onPart_clusterTlb (s : State) (p : Nat) (f : Partition → Partition) : (s.onPart p f).clusterTlb = s.clusterTlb := rfl
@[simp] theorem onPart_sessions (s : State) (p : Nat) (f : Partition → Partition) : (s.onPart p f).sessions = s.sessions := rfl
@[simp] theorem onPart_signing (s : State) (p : Nat) (f : Partition → Partition) : (s.onPart p f).signing = s.signing := rfl
@[simp] theorem onPart_draws (s : State) (p : Nat) (f : Partition → Partition) : (s.onPart p f).draws = s.draws := rfl
@[simp] theorem onPart_checkpoints (s : State) (p : Nat) (f : Partition → Partition) : (s.onPart p f).checkpoints = s.checkpoints := rfl

@[simp] theorem onPart_part (s : State) (p : Nat) (f : Partition → Partition) : (s.onPart p f).part p = f (s.part p) := by
  simp [State.onPart, State.part]

theorem onPart_part_other (s : State) (p : Nat) (f : Partition → Partition) (j : Nat) (h : j ≠ p) : (s.onPart p f).part j = s.part j := by
  simp [State.onPart, State.part, tab_get_set_other _ _ _ h]

/-! ## `State.onFn` -/

@[simp] theorem onFn_agenda (s : State) (n : Nat) (f : Function → Function) : (s.onFn n f).agenda = s.agenda := rfl
@[simp] theorem onFn_agent (s : State) (n : Nat) (f : Function → Function) : (s.onFn n f).agent = s.agent := rfl
@[simp] theorem onFn_rota (s : State) (n : Nat) (f : Function → Function) : (s.onFn n f).rota = s.rota := rfl
@[simp] theorem onFn_free (s : State) (n : Nat) (f : Function → Function) : (s.onFn n f).free = s.free := rfl
@[simp] theorem onFn_nextId (s : State) (n : Nat) (f : Function → Function) : (s.onFn n f).nextId = s.nextId := rfl
@[simp] theorem onFn_board (s : State) (n : Nat) (f : Function → Function) : (s.onFn n f).board = s.board := rfl
@[simp] theorem onFn_queues (s : State) (n : Nat) (f : Function → Function) : (s.onFn n f).queues = s.queues := rfl
@[simp] theorem onFn_scheds (s : State) (n : Nat) (f : Function → Function) : (s.onFn n f).scheds = s.scheds := rfl
@[simp] theorem onFn_launches (s : State) (n : Nat) (f : Function → Function) : (s.onFn n f).launches = s.launches := rfl
@[simp] theorem onFn_seqs (s : State) (n : Nat) (f : Function → Function) : (s.onFn n f).seqs = s.seqs := rfl
@[simp] theorem onFn_cores (s : State) (n : Nat) (f : Function → Function) : (s.onFn n f).cores = s.cores := rfl
@[simp] theorem onFn_parts (s : State) (n : Nat) (f : Function → Function) : (s.onFn n f).parts = s.parts := rfl
@[simp] theorem onFn_slots (s : State) (n : Nat) (f : Function → Function) : (s.onFn n f).slots = s.slots := rfl
@[simp] theorem onFn_drains (s : State) (n : Nat) (f : Function → Function) : (s.onFn n f).drains = s.drains := rfl
@[simp] theorem onFn_serpents (s : State) (n : Nat) (f : Function → Function) : (s.onFn n f).serpents = s.serpents := rfl
@[simp] theorem onFn_jobs (s : State) (n : Nat) (f : Function → Function) : (s.onFn n f).jobs = s.jobs := rfl
@[simp] theorem onFn_epochs (s : State) (n : Nat) (f : Function → Function) : (s.onFn n f).epochs = s.epochs := rfl
@[simp] theorem onFn_records (s : State) (n : Nat) (f : Function → Function) : (s.onFn n f).records = s.records := rfl
@[simp] theorem onFn_requests (s : State) (n : Nat) (f : Function → Function) : (s.onFn n f).requests = s.requests := rfl
@[simp] theorem onFn_answers (s : State) (n : Nat) (f : Function → Function) : (s.onFn n f).answers = s.answers := rfl
@[simp] theorem onFn_reqids (s : State) (n : Nat) (f : Function → Function) : (s.onFn n f).reqids = s.reqids := rfl
@[simp] theorem onFn_rounds (s : State) (n : Nat) (f : Function → Function) : (s.onFn n f).rounds = s.rounds := rfl
@[simp] theorem onFn_gens (s : State) (n : Nat) (f : Function → Function) : (s.onFn n f).gens = s.gens := rfl
@[simp] theorem onFn_ports (s : State) (n : Nat) (f : Function → Function) : (s.onFn n f).ports = s.ports := rfl
@[simp] theorem onFn_sent (s : State) (n : Nat) (f : Function → Function) : (s.onFn n f).sent = s.sent := rfl
@[simp] theorem onFn_hbm (s : State) (n : Nat) (f : Function → Function) : (s.onFn n f).hbm = s.hbm := rfl
@[simp] theorem onFn_hostMem (s : State) (n : Nat) (f : Function → Function) : (s.onFn n f).hostMem = s.hostMem := rfl
@[simp] theorem onFn_hostDead (s : State) (n : Nat) (f : Function → Function) : (s.onFn n f).hostDead = s.hostDead := rfl
@[simp] theorem onFn_posted (s : State) (n : Nat) (f : Function → Function) : (s.onFn n f).posted = s.posted := rfl
@[simp] theorem onFn_fullWords (s : State) (n : Nat) (f : Function → Function) : (s.onFn n f).fullWords = s.fullWords := rfl
@[simp] theorem onFn_lines (s : State) (n : Nat) (f : Function → Function) : (s.onFn n f).lines = s.lines := rfl
@[simp] theorem onFn_cache (s : State) (n : Nat) (f : Function → Function) : (s.onFn n f).cache = s.cache := rfl
@[simp] theorem onFn_dirty (s : State) (n : Nat) (f : Function → Function) : (s.onFn n f).dirty = s.dirty := rfl
@[simp] theorem onFn_poison (s : State) (n : Nat) (f : Function → Function) : (s.onFn n f).poison = s.poison := rfl
@[simp] theorem onFn_locks (s : State) (n : Nat) (f : Function → Function) : (s.onFn n f).locks = s.locks := rfl
@[simp] theorem onFn_walkers (s : State) (n : Nat) (f : Function → Function) : (s.onFn n f).walkers = s.walkers := rfl
@[simp] theorem onFn_clusterTlb (s : State) (n : Nat) (f : Function → Function) : (s.onFn n f).clusterTlb = s.clusterTlb := rfl
@[simp] theorem onFn_sessions (s : State) (n : Nat) (f : Function → Function) : (s.onFn n f).sessions = s.sessions := rfl
@[simp] theorem onFn_signing (s : State) (n : Nat) (f : Function → Function) : (s.onFn n f).signing = s.signing := rfl
@[simp] theorem onFn_draws (s : State) (n : Nat) (f : Function → Function) : (s.onFn n f).draws = s.draws := rfl
@[simp] theorem onFn_checkpoints (s : State) (n : Nat) (f : Function → Function) : (s.onFn n f).checkpoints = s.checkpoints := rfl

@[simp] theorem onFn_fn (s : State) (n : Nat) (f : Function → Function) : (s.onFn n f).fn n = f (s.fn n) := by
  simp [State.onFn, State.fn]

theorem onFn_fn_other (s : State) (n : Nat) (f : Function → Function) (j : Nat) (h : j ≠ n) : (s.onFn n f).fn j = s.fn j := by
  simp [State.onFn, State.fn, tab_get_set_other _ _ _ h]

/-! ## `State.onSlot` -/

@[simp] theorem onSlot_agenda (s : State) (q : Nat) (f : SeqRec → SeqRec) : (s.onSlot q f).agenda = s.agenda := rfl
@[simp] theorem onSlot_agent (s : State) (q : Nat) (f : SeqRec → SeqRec) : (s.onSlot q f).agent = s.agent := rfl
@[simp] theorem onSlot_rota (s : State) (q : Nat) (f : SeqRec → SeqRec) : (s.onSlot q f).rota = s.rota := rfl
@[simp] theorem onSlot_free (s : State) (q : Nat) (f : SeqRec → SeqRec) : (s.onSlot q f).free = s.free := rfl
@[simp] theorem onSlot_nextId (s : State) (q : Nat) (f : SeqRec → SeqRec) : (s.onSlot q f).nextId = s.nextId := rfl
@[simp] theorem onSlot_board (s : State) (q : Nat) (f : SeqRec → SeqRec) : (s.onSlot q f).board = s.board := rfl
@[simp] theorem onSlot_fns (s : State) (q : Nat) (f : SeqRec → SeqRec) : (s.onSlot q f).fns = s.fns := rfl
@[simp] theorem onSlot_queues (s : State) (q : Nat) (f : SeqRec → SeqRec) : (s.onSlot q f).queues = s.queues := rfl
@[simp] theorem onSlot_scheds (s : State) (q : Nat) (f : SeqRec → SeqRec) : (s.onSlot q f).scheds = s.scheds := rfl
@[simp] theorem onSlot_launches (s : State) (q : Nat) (f : SeqRec → SeqRec) : (s.onSlot q f).launches = s.launches := rfl
@[simp] theorem onSlot_seqs (s : State) (q : Nat) (f : SeqRec → SeqRec) : (s.onSlot q f).seqs = s.seqs := rfl
@[simp] theorem onSlot_cores (s : State) (q : Nat) (f : SeqRec → SeqRec) : (s.onSlot q f).cores = s.cores := rfl
@[simp] theorem onSlot_parts (s : State) (q : Nat) (f : SeqRec → SeqRec) : (s.onSlot q f).parts = s.parts := rfl
@[simp] theorem onSlot_drains (s : State) (q : Nat) (f : SeqRec → SeqRec) : (s.onSlot q f).drains = s.drains := rfl
@[simp] theorem onSlot_serpents (s : State) (q : Nat) (f : SeqRec → SeqRec) : (s.onSlot q f).serpents = s.serpents := rfl
@[simp] theorem onSlot_jobs (s : State) (q : Nat) (f : SeqRec → SeqRec) : (s.onSlot q f).jobs = s.jobs := rfl
@[simp] theorem onSlot_epochs (s : State) (q : Nat) (f : SeqRec → SeqRec) : (s.onSlot q f).epochs = s.epochs := rfl
@[simp] theorem onSlot_records (s : State) (q : Nat) (f : SeqRec → SeqRec) : (s.onSlot q f).records = s.records := rfl
@[simp] theorem onSlot_requests (s : State) (q : Nat) (f : SeqRec → SeqRec) : (s.onSlot q f).requests = s.requests := rfl
@[simp] theorem onSlot_answers (s : State) (q : Nat) (f : SeqRec → SeqRec) : (s.onSlot q f).answers = s.answers := rfl
@[simp] theorem onSlot_reqids (s : State) (q : Nat) (f : SeqRec → SeqRec) : (s.onSlot q f).reqids = s.reqids := rfl
@[simp] theorem onSlot_rounds (s : State) (q : Nat) (f : SeqRec → SeqRec) : (s.onSlot q f).rounds = s.rounds := rfl
@[simp] theorem onSlot_gens (s : State) (q : Nat) (f : SeqRec → SeqRec) : (s.onSlot q f).gens = s.gens := rfl
@[simp] theorem onSlot_ports (s : State) (q : Nat) (f : SeqRec → SeqRec) : (s.onSlot q f).ports = s.ports := rfl
@[simp] theorem onSlot_sent (s : State) (q : Nat) (f : SeqRec → SeqRec) : (s.onSlot q f).sent = s.sent := rfl
@[simp] theorem onSlot_hbm (s : State) (q : Nat) (f : SeqRec → SeqRec) : (s.onSlot q f).hbm = s.hbm := rfl
@[simp] theorem onSlot_hostMem (s : State) (q : Nat) (f : SeqRec → SeqRec) : (s.onSlot q f).hostMem = s.hostMem := rfl
@[simp] theorem onSlot_hostDead (s : State) (q : Nat) (f : SeqRec → SeqRec) : (s.onSlot q f).hostDead = s.hostDead := rfl
@[simp] theorem onSlot_posted (s : State) (q : Nat) (f : SeqRec → SeqRec) : (s.onSlot q f).posted = s.posted := rfl
@[simp] theorem onSlot_fullWords (s : State) (q : Nat) (f : SeqRec → SeqRec) : (s.onSlot q f).fullWords = s.fullWords := rfl
@[simp] theorem onSlot_lines (s : State) (q : Nat) (f : SeqRec → SeqRec) : (s.onSlot q f).lines = s.lines := rfl
@[simp] theorem onSlot_cache (s : State) (q : Nat) (f : SeqRec → SeqRec) : (s.onSlot q f).cache = s.cache := rfl
@[simp] theorem onSlot_dirty (s : State) (q : Nat) (f : SeqRec → SeqRec) : (s.onSlot q f).dirty = s.dirty := rfl
@[simp] theorem onSlot_poison (s : State) (q : Nat) (f : SeqRec → SeqRec) : (s.onSlot q f).poison = s.poison := rfl
@[simp] theorem onSlot_locks (s : State) (q : Nat) (f : SeqRec → SeqRec) : (s.onSlot q f).locks = s.locks := rfl
@[simp] theorem onSlot_walkers (s : State) (q : Nat) (f : SeqRec → SeqRec) : (s.onSlot q f).walkers = s.walkers := rfl
@[simp] theorem onSlot_clusterTlb (s : State) (q : Nat) (f : SeqRec → SeqRec) : (s.onSlot q f).clusterTlb = s.clusterTlb := rfl
@[simp] theorem onSlot_sessions (s : State) (q : Nat) (f : SeqRec → SeqRec) : (s.onSlot q f).sessions = s.sessions := rfl
@[simp] theorem onSlot_signing (s : State) (q : Nat) (f : SeqRec → SeqRec) : (s.onSlot q f).signing = s.signing := rfl
@[simp] theorem onSlot_draws (s : State) (q : Nat) (f : SeqRec → SeqRec) : (s.onSlot q f).draws = s.draws := rfl
@[simp] theorem onSlot_checkpoints (s : State) (q : Nat) (f : SeqRec → SeqRec) : (s.onSlot q f).checkpoints = s.checkpoints := rfl

@[simp] theorem onSlot_slot (s : State) (q : Nat) (f : SeqRec → SeqRec) : (s.onSlot q f).slot q = f (s.slot q) := by
  simp [State.onSlot, State.slot]

theorem onSlot_slot_other (s : State) (q : Nat) (f : SeqRec → SeqRec) (j : Nat) (h : j ≠ q) : (s.onSlot q f).slot j = s.slot j := by
  simp [State.onSlot, State.slot, tab_get_set_other _ _ _ h]

/-! ## `State.onPort` -/

@[simp] theorem onPort_agenda (s : State) (p : Nat) (f : FabricPort → FabricPort) : (s.onPort p f).agenda = s.agenda := rfl
@[simp] theorem onPort_agent (s : State) (p : Nat) (f : FabricPort → FabricPort) : (s.onPort p f).agent = s.agent := rfl
@[simp] theorem onPort_rota (s : State) (p : Nat) (f : FabricPort → FabricPort) : (s.onPort p f).rota = s.rota := rfl
@[simp] theorem onPort_free (s : State) (p : Nat) (f : FabricPort → FabricPort) : (s.onPort p f).free = s.free := rfl
@[simp] theorem onPort_nextId (s : State) (p : Nat) (f : FabricPort → FabricPort) : (s.onPort p f).nextId = s.nextId := rfl
@[simp] theorem onPort_board (s : State) (p : Nat) (f : FabricPort → FabricPort) : (s.onPort p f).board = s.board := rfl
@[simp] theorem onPort_fns (s : State) (p : Nat) (f : FabricPort → FabricPort) : (s.onPort p f).fns = s.fns := rfl
@[simp] theorem onPort_queues (s : State) (p : Nat) (f : FabricPort → FabricPort) : (s.onPort p f).queues = s.queues := rfl
@[simp] theorem onPort_scheds (s : State) (p : Nat) (f : FabricPort → FabricPort) : (s.onPort p f).scheds = s.scheds := rfl
@[simp] theorem onPort_launches (s : State) (p : Nat) (f : FabricPort → FabricPort) : (s.onPort p f).launches = s.launches := rfl
@[simp] theorem onPort_seqs (s : State) (p : Nat) (f : FabricPort → FabricPort) : (s.onPort p f).seqs = s.seqs := rfl
@[simp] theorem onPort_cores (s : State) (p : Nat) (f : FabricPort → FabricPort) : (s.onPort p f).cores = s.cores := rfl
@[simp] theorem onPort_parts (s : State) (p : Nat) (f : FabricPort → FabricPort) : (s.onPort p f).parts = s.parts := rfl
@[simp] theorem onPort_slots (s : State) (p : Nat) (f : FabricPort → FabricPort) : (s.onPort p f).slots = s.slots := rfl
@[simp] theorem onPort_drains (s : State) (p : Nat) (f : FabricPort → FabricPort) : (s.onPort p f).drains = s.drains := rfl
@[simp] theorem onPort_serpents (s : State) (p : Nat) (f : FabricPort → FabricPort) : (s.onPort p f).serpents = s.serpents := rfl
@[simp] theorem onPort_jobs (s : State) (p : Nat) (f : FabricPort → FabricPort) : (s.onPort p f).jobs = s.jobs := rfl
@[simp] theorem onPort_epochs (s : State) (p : Nat) (f : FabricPort → FabricPort) : (s.onPort p f).epochs = s.epochs := rfl
@[simp] theorem onPort_records (s : State) (p : Nat) (f : FabricPort → FabricPort) : (s.onPort p f).records = s.records := rfl
@[simp] theorem onPort_requests (s : State) (p : Nat) (f : FabricPort → FabricPort) : (s.onPort p f).requests = s.requests := rfl
@[simp] theorem onPort_answers (s : State) (p : Nat) (f : FabricPort → FabricPort) : (s.onPort p f).answers = s.answers := rfl
@[simp] theorem onPort_reqids (s : State) (p : Nat) (f : FabricPort → FabricPort) : (s.onPort p f).reqids = s.reqids := rfl
@[simp] theorem onPort_rounds (s : State) (p : Nat) (f : FabricPort → FabricPort) : (s.onPort p f).rounds = s.rounds := rfl
@[simp] theorem onPort_gens (s : State) (p : Nat) (f : FabricPort → FabricPort) : (s.onPort p f).gens = s.gens := rfl
@[simp] theorem onPort_sent (s : State) (p : Nat) (f : FabricPort → FabricPort) : (s.onPort p f).sent = s.sent := rfl
@[simp] theorem onPort_hbm (s : State) (p : Nat) (f : FabricPort → FabricPort) : (s.onPort p f).hbm = s.hbm := rfl
@[simp] theorem onPort_hostMem (s : State) (p : Nat) (f : FabricPort → FabricPort) : (s.onPort p f).hostMem = s.hostMem := rfl
@[simp] theorem onPort_hostDead (s : State) (p : Nat) (f : FabricPort → FabricPort) : (s.onPort p f).hostDead = s.hostDead := rfl
@[simp] theorem onPort_posted (s : State) (p : Nat) (f : FabricPort → FabricPort) : (s.onPort p f).posted = s.posted := rfl
@[simp] theorem onPort_fullWords (s : State) (p : Nat) (f : FabricPort → FabricPort) : (s.onPort p f).fullWords = s.fullWords := rfl
@[simp] theorem onPort_lines (s : State) (p : Nat) (f : FabricPort → FabricPort) : (s.onPort p f).lines = s.lines := rfl
@[simp] theorem onPort_cache (s : State) (p : Nat) (f : FabricPort → FabricPort) : (s.onPort p f).cache = s.cache := rfl
@[simp] theorem onPort_dirty (s : State) (p : Nat) (f : FabricPort → FabricPort) : (s.onPort p f).dirty = s.dirty := rfl
@[simp] theorem onPort_poison (s : State) (p : Nat) (f : FabricPort → FabricPort) : (s.onPort p f).poison = s.poison := rfl
@[simp] theorem onPort_locks (s : State) (p : Nat) (f : FabricPort → FabricPort) : (s.onPort p f).locks = s.locks := rfl
@[simp] theorem onPort_walkers (s : State) (p : Nat) (f : FabricPort → FabricPort) : (s.onPort p f).walkers = s.walkers := rfl
@[simp] theorem onPort_clusterTlb (s : State) (p : Nat) (f : FabricPort → FabricPort) : (s.onPort p f).clusterTlb = s.clusterTlb := rfl
@[simp] theorem onPort_sessions (s : State) (p : Nat) (f : FabricPort → FabricPort) : (s.onPort p f).sessions = s.sessions := rfl
@[simp] theorem onPort_signing (s : State) (p : Nat) (f : FabricPort → FabricPort) : (s.onPort p f).signing = s.signing := rfl
@[simp] theorem onPort_draws (s : State) (p : Nat) (f : FabricPort → FabricPort) : (s.onPort p f).draws = s.draws := rfl
@[simp] theorem onPort_checkpoints (s : State) (p : Nat) (f : FabricPort → FabricPort) : (s.onPort p f).checkpoints = s.checkpoints := rfl

@[simp] theorem onPort_port (s : State) (p : Nat) (f : FabricPort → FabricPort) : (s.onPort p f).port p = f (s.port p) := by
  simp [State.onPort, State.port]

theorem onPort_port_other (s : State) (p : Nat) (f : FabricPort → FabricPort) (j : Nat) (h : j ≠ p) : (s.onPort p f).port j = s.port j := by
  simp [State.onPort, State.port, tab_get_set_other _ _ _ h]

/-! ## Cores, elements and nodes -/

@[simp] theorem setCore_core (s : State) (k : Nat) (c : Core) : (s.setCore k c).core k = c := by simp [State.setCore, State.core]

theorem setCore_core_other (s : State) (k : Nat) (c : Core) (j : Nat) (h : j ≠ k) : (s.setCore k c).core j = s.core j := by
  simp [State.setCore, State.core, tab_get_set_other _ _ _ h]

@[simp] theorem onCore_core (s : State) (k : Nat) (f : Core → Core) : (s.onCore k f).core k = f (s.core k) := by simp [State.onCore]

theorem onCore_core_other (s : State) (k : Nat) (f : Core → Core) (j : Nat) (h : j ≠ k) : (s.onCore k f).core j = s.core j := by
  simp [State.onCore, setCore_core_other _ _ _ _ h]

@[simp] theorem onElem_elem (s : State) (k e : Nat) (f : Elem → Elem) : (s.onElem k e f).elem k e = f (s.elem k e) := by
  simp [State.onElem, State.elem, Core.onElem, Core.elem]

theorem onElem_elem_other (s : State) (k e : Nat) (f : Elem → Elem) (j d : Nat) (h : j ≠ k ∨ d ≠ e) :
    (s.onElem k e f).elem j d = s.elem j d := by
  by_cases hj : j = k
  · subst hj
    have hd : d ≠ e := h.resolve_left (by simp)
    simp [State.onElem, State.elem, Core.onElem, Core.elem, tab_get_set_other _ _ _ hd]
  · simp [State.onElem, State.elem, onCore_core_other _ _ _ _ hj]

@[simp] theorem onNode_node (s : State) (k n : Nat) (f : Node → Node) : (s.onNode k n f).node k n = f (s.node k n) := by
  simp [State.onNode, State.node, Core.onNode, Core.node]

/-! ## `Core.onElem` -/

@[simp] theorem core_onElem_launch (c : Core) (e : Nat) (f : Elem → Elem) : (c.onElem e f).launch = c.launch := rfl
@[simp] theorem core_onElem_partw (c : Core) (e : Nat) (f : Elem → Elem) : (c.onElem e f).partw = c.partw := rfl
@[simp] theorem core_onElem_prev (c : Core) (e : Nat) (f : Elem → Elem) : (c.onElem e f).prev = c.prev := rfl
@[simp] theorem core_onElem_configured (c : Core) (e : Nat) (f : Elem → Elem) : (c.onElem e f).configured = c.configured := rfl
@[simp] theorem core_onElem_zeroUntil (c : Core) (e : Nat) (f : Elem → Elem) : (c.onElem e f).zeroUntil = c.zeroUntil := rfl
@[simp] theorem core_onElem_fifo (c : Core) (e : Nat) (f : Elem → Elem) : (c.onElem e f).fifo = c.fifo := rfl
@[simp] theorem core_onElem_openFrame (c : Core) (e : Nat) (f : Elem → Elem) : (c.onElem e f).openFrame = c.openFrame := rfl
@[simp] theorem core_onElem_wideHalf (c : Core) (e : Nat) (f : Elem → Elem) : (c.onElem e f).wideHalf = c.wideHalf := rfl
@[simp] theorem core_onElem_frames (c : Core) (e : Nat) (f : Elem → Elem) : (c.onElem e f).frames = c.frames := rfl
@[simp] theorem core_onElem_tier2 (c : Core) (e : Nat) (f : Elem → Elem) : (c.onElem e f).tier2 = c.tier2 := rfl
@[simp] theorem core_onElem_tier3 (c : Core) (e : Nat) (f : Elem → Elem) : (c.onElem e f).tier3 = c.tier3 := rfl
@[simp] theorem core_onElem_reserved1 (c : Core) (e : Nat) (f : Elem → Elem) : (c.onElem e f).reserved1 = c.reserved1 := rfl
@[simp] theorem core_onElem_reserved2 (c : Core) (e : Nat) (f : Elem → Elem) : (c.onElem e f).reserved2 = c.reserved2 := rfl
@[simp] theorem core_onElem_arrival (c : Core) (e : Nat) (f : Elem → Elem) : (c.onElem e f).arrival = c.arrival := rfl
@[simp] theorem core_onElem_lost (c : Core) (e : Nat) (f : Elem → Elem) : (c.onElem e f).lost = c.lost := rfl
@[simp] theorem core_onElem_transit (c : Core) (e : Nat) (f : Elem → Elem) : (c.onElem e f).transit = c.transit := rfl
@[simp] theorem core_onElem_injected (c : Core) (e : Nat) (f : Elem → Elem) : (c.onElem e f).injected = c.injected := rfl
@[simp] theorem core_onElem_commits (c : Core) (e : Nat) (f : Elem → Elem) : (c.onElem e f).commits = c.commits := rfl
@[simp] theorem core_onElem_insts (c : Core) (e : Nat) (f : Elem → Elem) : (c.onElem e f).insts = c.insts := rfl
@[simp] theorem core_onElem_accesses (c : Core) (e : Nat) (f : Elem → Elem) : (c.onElem e f).accesses = c.accesses := rfl
@[simp] theorem core_onElem_precise (c : Core) (e : Nat) (f : Elem → Elem) : (c.onElem e f).precise = c.precise := rfl
@[simp] theorem core_onElem_vas (c : Core) (e : Nat) (f : Elem → Elem) : (c.onElem e f).vas = c.vas := rfl
@[simp] theorem core_onElem_streamFaults (c : Core) (e : Nat) (f : Elem → Elem) : (c.onElem e f).streamFaults = c.streamFaults := rfl
@[simp] theorem core_onElem_nodes (c : Core) (e : Nat) (f : Elem → Elem) : (c.onElem e f).nodes = c.nodes := rfl
@[simp] theorem core_onElem_gathers (c : Core) (e : Nat) (f : Elem → Elem) : (c.onElem e f).gathers = c.gathers := rfl
@[simp] theorem core_onElem_results (c : Core) (e : Nat) (f : Elem → Elem) : (c.onElem e f).results = c.results := rfl
@[simp] theorem core_onElem_cells (c : Core) (e : Nat) (f : Elem → Elem) : (c.onElem e f).cells = c.cells := rfl
@[simp] theorem core_onElem_empties (c : Core) (e : Nat) (f : Elem → Elem) : (c.onElem e f).empties = c.empties := rfl
@[simp] theorem core_onElem_dmarks (c : Core) (e : Nat) (f : Elem → Elem) : (c.onElem e f).dmarks = c.dmarks := rfl
@[simp] theorem core_onElem_tiles (c : Core) (e : Nat) (f : Elem → Elem) : (c.onElem e f).tiles = c.tiles := rfl
@[simp] theorem core_onElem_rings (c : Core) (e : Nat) (f : Elem → Elem) : (c.onElem e f).rings = c.rings := rfl
@[simp] theorem core_onElem_user (c : Core) (e : Nat) (f : Elem → Elem) : (c.onElem e f).user = c.user := rfl
@[simp] theorem core_onElem_counters (c : Core) (e : Nat) (f : Elem → Elem) : (c.onElem e f).counters = c.counters := rfl
@[simp] theorem core_onElem_sc (c : Core) (e : Nat) (f : Elem → Elem) : (c.onElem e f).sc = c.sc := rfl
@[simp] theorem core_onElem_tlb (c : Core) (e : Nat) (f : Elem → Elem) : (c.onElem e f).tlb = c.tlb := rfl
@[simp] theorem core_onElem_poisoned (c : Core) (e : Nat) (f : Elem → Elem) : (c.onElem e f).poisoned = c.poisoned := rfl

/-! ## `Core.onNode` -/

@[simp] theorem core_onNode_launch (c : Core) (n : Nat) (f : Node → Node) : (c.onNode n f).launch = c.launch := rfl
@[simp] theorem core_onNode_partw (c : Core) (n : Nat) (f : Node → Node) : (c.onNode n f).partw = c.partw := rfl
@[simp] theorem core_onNode_prev (c : Core) (n : Nat) (f : Node → Node) : (c.onNode n f).prev = c.prev := rfl
@[simp] theorem core_onNode_configured (c : Core) (n : Nat) (f : Node → Node) : (c.onNode n f).configured = c.configured := rfl
@[simp] theorem core_onNode_zeroUntil (c : Core) (n : Nat) (f : Node → Node) : (c.onNode n f).zeroUntil = c.zeroUntil := rfl
@[simp] theorem core_onNode_fifo (c : Core) (n : Nat) (f : Node → Node) : (c.onNode n f).fifo = c.fifo := rfl
@[simp] theorem core_onNode_openFrame (c : Core) (n : Nat) (f : Node → Node) : (c.onNode n f).openFrame = c.openFrame := rfl
@[simp] theorem core_onNode_wideHalf (c : Core) (n : Nat) (f : Node → Node) : (c.onNode n f).wideHalf = c.wideHalf := rfl
@[simp] theorem core_onNode_frames (c : Core) (n : Nat) (f : Node → Node) : (c.onNode n f).frames = c.frames := rfl
@[simp] theorem core_onNode_elems (c : Core) (n : Nat) (f : Node → Node) : (c.onNode n f).elems = c.elems := rfl
@[simp] theorem core_onNode_tier2 (c : Core) (n : Nat) (f : Node → Node) : (c.onNode n f).tier2 = c.tier2 := rfl
@[simp] theorem core_onNode_tier3 (c : Core) (n : Nat) (f : Node → Node) : (c.onNode n f).tier3 = c.tier3 := rfl
@[simp] theorem core_onNode_reserved1 (c : Core) (n : Nat) (f : Node → Node) : (c.onNode n f).reserved1 = c.reserved1 := rfl
@[simp] theorem core_onNode_reserved2 (c : Core) (n : Nat) (f : Node → Node) : (c.onNode n f).reserved2 = c.reserved2 := rfl
@[simp] theorem core_onNode_arrival (c : Core) (n : Nat) (f : Node → Node) : (c.onNode n f).arrival = c.arrival := rfl
@[simp] theorem core_onNode_lost (c : Core) (n : Nat) (f : Node → Node) : (c.onNode n f).lost = c.lost := rfl
@[simp] theorem core_onNode_transit (c : Core) (n : Nat) (f : Node → Node) : (c.onNode n f).transit = c.transit := rfl
@[simp] theorem core_onNode_injected (c : Core) (n : Nat) (f : Node → Node) : (c.onNode n f).injected = c.injected := rfl
@[simp] theorem core_onNode_commits (c : Core) (n : Nat) (f : Node → Node) : (c.onNode n f).commits = c.commits := rfl
@[simp] theorem core_onNode_insts (c : Core) (n : Nat) (f : Node → Node) : (c.onNode n f).insts = c.insts := rfl
@[simp] theorem core_onNode_accesses (c : Core) (n : Nat) (f : Node → Node) : (c.onNode n f).accesses = c.accesses := rfl
@[simp] theorem core_onNode_precise (c : Core) (n : Nat) (f : Node → Node) : (c.onNode n f).precise = c.precise := rfl
@[simp] theorem core_onNode_vas (c : Core) (n : Nat) (f : Node → Node) : (c.onNode n f).vas = c.vas := rfl
@[simp] theorem core_onNode_streamFaults (c : Core) (n : Nat) (f : Node → Node) : (c.onNode n f).streamFaults = c.streamFaults := rfl
@[simp] theorem core_onNode_gathers (c : Core) (n : Nat) (f : Node → Node) : (c.onNode n f).gathers = c.gathers := rfl
@[simp] theorem core_onNode_results (c : Core) (n : Nat) (f : Node → Node) : (c.onNode n f).results = c.results := rfl
@[simp] theorem core_onNode_cells (c : Core) (n : Nat) (f : Node → Node) : (c.onNode n f).cells = c.cells := rfl
@[simp] theorem core_onNode_empties (c : Core) (n : Nat) (f : Node → Node) : (c.onNode n f).empties = c.empties := rfl
@[simp] theorem core_onNode_dmarks (c : Core) (n : Nat) (f : Node → Node) : (c.onNode n f).dmarks = c.dmarks := rfl
@[simp] theorem core_onNode_tiles (c : Core) (n : Nat) (f : Node → Node) : (c.onNode n f).tiles = c.tiles := rfl
@[simp] theorem core_onNode_rings (c : Core) (n : Nat) (f : Node → Node) : (c.onNode n f).rings = c.rings := rfl
@[simp] theorem core_onNode_user (c : Core) (n : Nat) (f : Node → Node) : (c.onNode n f).user = c.user := rfl
@[simp] theorem core_onNode_counters (c : Core) (n : Nat) (f : Node → Node) : (c.onNode n f).counters = c.counters := rfl
@[simp] theorem core_onNode_sc (c : Core) (n : Nat) (f : Node → Node) : (c.onNode n f).sc = c.sc := rfl
@[simp] theorem core_onNode_tlb (c : Core) (n : Nat) (f : Node → Node) : (c.onNode n f).tlb = c.tlb := rfl
@[simp] theorem core_onNode_poisoned (c : Core) (n : Nat) (f : Node → Node) : (c.onNode n f).poisoned = c.poisoned := rfl

/-! ## `Core.onFrame` -/

@[simp] theorem core_onFrame_launch (c : Core) (n : Nat) (f : Frame → Frame) : (c.onFrame n f).launch = c.launch := rfl
@[simp] theorem core_onFrame_partw (c : Core) (n : Nat) (f : Frame → Frame) : (c.onFrame n f).partw = c.partw := rfl
@[simp] theorem core_onFrame_prev (c : Core) (n : Nat) (f : Frame → Frame) : (c.onFrame n f).prev = c.prev := rfl
@[simp] theorem core_onFrame_configured (c : Core) (n : Nat) (f : Frame → Frame) : (c.onFrame n f).configured = c.configured := rfl
@[simp] theorem core_onFrame_zeroUntil (c : Core) (n : Nat) (f : Frame → Frame) : (c.onFrame n f).zeroUntil = c.zeroUntil := rfl
@[simp] theorem core_onFrame_fifo (c : Core) (n : Nat) (f : Frame → Frame) : (c.onFrame n f).fifo = c.fifo := rfl
@[simp] theorem core_onFrame_openFrame (c : Core) (n : Nat) (f : Frame → Frame) : (c.onFrame n f).openFrame = c.openFrame := rfl
@[simp] theorem core_onFrame_wideHalf (c : Core) (n : Nat) (f : Frame → Frame) : (c.onFrame n f).wideHalf = c.wideHalf := rfl
@[simp] theorem core_onFrame_elems (c : Core) (n : Nat) (f : Frame → Frame) : (c.onFrame n f).elems = c.elems := rfl
@[simp] theorem core_onFrame_tier2 (c : Core) (n : Nat) (f : Frame → Frame) : (c.onFrame n f).tier2 = c.tier2 := rfl
@[simp] theorem core_onFrame_tier3 (c : Core) (n : Nat) (f : Frame → Frame) : (c.onFrame n f).tier3 = c.tier3 := rfl
@[simp] theorem core_onFrame_reserved1 (c : Core) (n : Nat) (f : Frame → Frame) : (c.onFrame n f).reserved1 = c.reserved1 := rfl
@[simp] theorem core_onFrame_reserved2 (c : Core) (n : Nat) (f : Frame → Frame) : (c.onFrame n f).reserved2 = c.reserved2 := rfl
@[simp] theorem core_onFrame_arrival (c : Core) (n : Nat) (f : Frame → Frame) : (c.onFrame n f).arrival = c.arrival := rfl
@[simp] theorem core_onFrame_lost (c : Core) (n : Nat) (f : Frame → Frame) : (c.onFrame n f).lost = c.lost := rfl
@[simp] theorem core_onFrame_transit (c : Core) (n : Nat) (f : Frame → Frame) : (c.onFrame n f).transit = c.transit := rfl
@[simp] theorem core_onFrame_injected (c : Core) (n : Nat) (f : Frame → Frame) : (c.onFrame n f).injected = c.injected := rfl
@[simp] theorem core_onFrame_commits (c : Core) (n : Nat) (f : Frame → Frame) : (c.onFrame n f).commits = c.commits := rfl
@[simp] theorem core_onFrame_insts (c : Core) (n : Nat) (f : Frame → Frame) : (c.onFrame n f).insts = c.insts := rfl
@[simp] theorem core_onFrame_accesses (c : Core) (n : Nat) (f : Frame → Frame) : (c.onFrame n f).accesses = c.accesses := rfl
@[simp] theorem core_onFrame_precise (c : Core) (n : Nat) (f : Frame → Frame) : (c.onFrame n f).precise = c.precise := rfl
@[simp] theorem core_onFrame_vas (c : Core) (n : Nat) (f : Frame → Frame) : (c.onFrame n f).vas = c.vas := rfl
@[simp] theorem core_onFrame_streamFaults (c : Core) (n : Nat) (f : Frame → Frame) : (c.onFrame n f).streamFaults = c.streamFaults := rfl
@[simp] theorem core_onFrame_nodes (c : Core) (n : Nat) (f : Frame → Frame) : (c.onFrame n f).nodes = c.nodes := rfl
@[simp] theorem core_onFrame_gathers (c : Core) (n : Nat) (f : Frame → Frame) : (c.onFrame n f).gathers = c.gathers := rfl
@[simp] theorem core_onFrame_results (c : Core) (n : Nat) (f : Frame → Frame) : (c.onFrame n f).results = c.results := rfl
@[simp] theorem core_onFrame_cells (c : Core) (n : Nat) (f : Frame → Frame) : (c.onFrame n f).cells = c.cells := rfl
@[simp] theorem core_onFrame_empties (c : Core) (n : Nat) (f : Frame → Frame) : (c.onFrame n f).empties = c.empties := rfl
@[simp] theorem core_onFrame_dmarks (c : Core) (n : Nat) (f : Frame → Frame) : (c.onFrame n f).dmarks = c.dmarks := rfl
@[simp] theorem core_onFrame_tiles (c : Core) (n : Nat) (f : Frame → Frame) : (c.onFrame n f).tiles = c.tiles := rfl
@[simp] theorem core_onFrame_rings (c : Core) (n : Nat) (f : Frame → Frame) : (c.onFrame n f).rings = c.rings := rfl
@[simp] theorem core_onFrame_user (c : Core) (n : Nat) (f : Frame → Frame) : (c.onFrame n f).user = c.user := rfl
@[simp] theorem core_onFrame_counters (c : Core) (n : Nat) (f : Frame → Frame) : (c.onFrame n f).counters = c.counters := rfl
@[simp] theorem core_onFrame_sc (c : Core) (n : Nat) (f : Frame → Frame) : (c.onFrame n f).sc = c.sc := rfl
@[simp] theorem core_onFrame_tlb (c : Core) (n : Nat) (f : Frame → Frame) : (c.onFrame n f).tlb = c.tlb := rfl
@[simp] theorem core_onFrame_poisoned (c : Core) (n : Nat) (f : Frame → Frame) : (c.onFrame n f).poisoned = c.poisoned := rfl

/-! ## `Core.onTile` -/

@[simp] theorem core_onTile_launch (c : Core) (n : Nat) (f : Tile → Tile) : (c.onTile n f).launch = c.launch := rfl
@[simp] theorem core_onTile_partw (c : Core) (n : Nat) (f : Tile → Tile) : (c.onTile n f).partw = c.partw := rfl
@[simp] theorem core_onTile_prev (c : Core) (n : Nat) (f : Tile → Tile) : (c.onTile n f).prev = c.prev := rfl
@[simp] theorem core_onTile_configured (c : Core) (n : Nat) (f : Tile → Tile) : (c.onTile n f).configured = c.configured := rfl
@[simp] theorem core_onTile_zeroUntil (c : Core) (n : Nat) (f : Tile → Tile) : (c.onTile n f).zeroUntil = c.zeroUntil := rfl
@[simp] theorem core_onTile_fifo (c : Core) (n : Nat) (f : Tile → Tile) : (c.onTile n f).fifo = c.fifo := rfl
@[simp] theorem core_onTile_openFrame (c : Core) (n : Nat) (f : Tile → Tile) : (c.onTile n f).openFrame = c.openFrame := rfl
@[simp] theorem core_onTile_wideHalf (c : Core) (n : Nat) (f : Tile → Tile) : (c.onTile n f).wideHalf = c.wideHalf := rfl
@[simp] theorem core_onTile_frames (c : Core) (n : Nat) (f : Tile → Tile) : (c.onTile n f).frames = c.frames := rfl
@[simp] theorem core_onTile_elems (c : Core) (n : Nat) (f : Tile → Tile) : (c.onTile n f).elems = c.elems := rfl
@[simp] theorem core_onTile_tier2 (c : Core) (n : Nat) (f : Tile → Tile) : (c.onTile n f).tier2 = c.tier2 := rfl
@[simp] theorem core_onTile_tier3 (c : Core) (n : Nat) (f : Tile → Tile) : (c.onTile n f).tier3 = c.tier3 := rfl
@[simp] theorem core_onTile_reserved1 (c : Core) (n : Nat) (f : Tile → Tile) : (c.onTile n f).reserved1 = c.reserved1 := rfl
@[simp] theorem core_onTile_reserved2 (c : Core) (n : Nat) (f : Tile → Tile) : (c.onTile n f).reserved2 = c.reserved2 := rfl
@[simp] theorem core_onTile_arrival (c : Core) (n : Nat) (f : Tile → Tile) : (c.onTile n f).arrival = c.arrival := rfl
@[simp] theorem core_onTile_lost (c : Core) (n : Nat) (f : Tile → Tile) : (c.onTile n f).lost = c.lost := rfl
@[simp] theorem core_onTile_transit (c : Core) (n : Nat) (f : Tile → Tile) : (c.onTile n f).transit = c.transit := rfl
@[simp] theorem core_onTile_injected (c : Core) (n : Nat) (f : Tile → Tile) : (c.onTile n f).injected = c.injected := rfl
@[simp] theorem core_onTile_commits (c : Core) (n : Nat) (f : Tile → Tile) : (c.onTile n f).commits = c.commits := rfl
@[simp] theorem core_onTile_insts (c : Core) (n : Nat) (f : Tile → Tile) : (c.onTile n f).insts = c.insts := rfl
@[simp] theorem core_onTile_accesses (c : Core) (n : Nat) (f : Tile → Tile) : (c.onTile n f).accesses = c.accesses := rfl
@[simp] theorem core_onTile_precise (c : Core) (n : Nat) (f : Tile → Tile) : (c.onTile n f).precise = c.precise := rfl
@[simp] theorem core_onTile_vas (c : Core) (n : Nat) (f : Tile → Tile) : (c.onTile n f).vas = c.vas := rfl
@[simp] theorem core_onTile_streamFaults (c : Core) (n : Nat) (f : Tile → Tile) : (c.onTile n f).streamFaults = c.streamFaults := rfl
@[simp] theorem core_onTile_nodes (c : Core) (n : Nat) (f : Tile → Tile) : (c.onTile n f).nodes = c.nodes := rfl
@[simp] theorem core_onTile_gathers (c : Core) (n : Nat) (f : Tile → Tile) : (c.onTile n f).gathers = c.gathers := rfl
@[simp] theorem core_onTile_results (c : Core) (n : Nat) (f : Tile → Tile) : (c.onTile n f).results = c.results := rfl
@[simp] theorem core_onTile_cells (c : Core) (n : Nat) (f : Tile → Tile) : (c.onTile n f).cells = c.cells := rfl
@[simp] theorem core_onTile_empties (c : Core) (n : Nat) (f : Tile → Tile) : (c.onTile n f).empties = c.empties := rfl
@[simp] theorem core_onTile_dmarks (c : Core) (n : Nat) (f : Tile → Tile) : (c.onTile n f).dmarks = c.dmarks := rfl
@[simp] theorem core_onTile_rings (c : Core) (n : Nat) (f : Tile → Tile) : (c.onTile n f).rings = c.rings := rfl
@[simp] theorem core_onTile_user (c : Core) (n : Nat) (f : Tile → Tile) : (c.onTile n f).user = c.user := rfl
@[simp] theorem core_onTile_counters (c : Core) (n : Nat) (f : Tile → Tile) : (c.onTile n f).counters = c.counters := rfl
@[simp] theorem core_onTile_sc (c : Core) (n : Nat) (f : Tile → Tile) : (c.onTile n f).sc = c.sc := rfl
@[simp] theorem core_onTile_tlb (c : Core) (n : Nat) (f : Tile → Tile) : (c.onTile n f).tlb = c.tlb := rfl
@[simp] theorem core_onTile_poisoned (c : Core) (n : Nat) (f : Tile → Tile) : (c.onTile n f).poisoned = c.poisoned := rfl

/-! ## `Core.count` -/

@[simp] theorem core_count_launch (c : Core) (i n : Nat) : (c.count i n).launch = c.launch := rfl
@[simp] theorem core_count_partw (c : Core) (i n : Nat) : (c.count i n).partw = c.partw := rfl
@[simp] theorem core_count_prev (c : Core) (i n : Nat) : (c.count i n).prev = c.prev := rfl
@[simp] theorem core_count_configured (c : Core) (i n : Nat) : (c.count i n).configured = c.configured := rfl
@[simp] theorem core_count_zeroUntil (c : Core) (i n : Nat) : (c.count i n).zeroUntil = c.zeroUntil := rfl
@[simp] theorem core_count_fifo (c : Core) (i n : Nat) : (c.count i n).fifo = c.fifo := rfl
@[simp] theorem core_count_openFrame (c : Core) (i n : Nat) : (c.count i n).openFrame = c.openFrame := rfl
@[simp] theorem core_count_wideHalf (c : Core) (i n : Nat) : (c.count i n).wideHalf = c.wideHalf := rfl
@[simp] theorem core_count_frames (c : Core) (i n : Nat) : (c.count i n).frames = c.frames := rfl
@[simp] theorem core_count_elems (c : Core) (i n : Nat) : (c.count i n).elems = c.elems := rfl
@[simp] theorem core_count_tier2 (c : Core) (i n : Nat) : (c.count i n).tier2 = c.tier2 := rfl
@[simp] theorem core_count_tier3 (c : Core) (i n : Nat) : (c.count i n).tier3 = c.tier3 := rfl
@[simp] theorem core_count_reserved1 (c : Core) (i n : Nat) : (c.count i n).reserved1 = c.reserved1 := rfl
@[simp] theorem core_count_reserved2 (c : Core) (i n : Nat) : (c.count i n).reserved2 = c.reserved2 := rfl
@[simp] theorem core_count_arrival (c : Core) (i n : Nat) : (c.count i n).arrival = c.arrival := rfl
@[simp] theorem core_count_lost (c : Core) (i n : Nat) : (c.count i n).lost = c.lost := rfl
@[simp] theorem core_count_transit (c : Core) (i n : Nat) : (c.count i n).transit = c.transit := rfl
@[simp] theorem core_count_injected (c : Core) (i n : Nat) : (c.count i n).injected = c.injected := rfl
@[simp] theorem core_count_commits (c : Core) (i n : Nat) : (c.count i n).commits = c.commits := rfl
@[simp] theorem core_count_insts (c : Core) (i n : Nat) : (c.count i n).insts = c.insts := rfl
@[simp] theorem core_count_accesses (c : Core) (i n : Nat) : (c.count i n).accesses = c.accesses := rfl
@[simp] theorem core_count_precise (c : Core) (i n : Nat) : (c.count i n).precise = c.precise := rfl
@[simp] theorem core_count_vas (c : Core) (i n : Nat) : (c.count i n).vas = c.vas := rfl
@[simp] theorem core_count_streamFaults (c : Core) (i n : Nat) : (c.count i n).streamFaults = c.streamFaults := rfl
@[simp] theorem core_count_nodes (c : Core) (i n : Nat) : (c.count i n).nodes = c.nodes := rfl
@[simp] theorem core_count_gathers (c : Core) (i n : Nat) : (c.count i n).gathers = c.gathers := rfl
@[simp] theorem core_count_results (c : Core) (i n : Nat) : (c.count i n).results = c.results := rfl
@[simp] theorem core_count_cells (c : Core) (i n : Nat) : (c.count i n).cells = c.cells := rfl
@[simp] theorem core_count_empties (c : Core) (i n : Nat) : (c.count i n).empties = c.empties := rfl
@[simp] theorem core_count_dmarks (c : Core) (i n : Nat) : (c.count i n).dmarks = c.dmarks := rfl
@[simp] theorem core_count_tiles (c : Core) (i n : Nat) : (c.count i n).tiles = c.tiles := rfl
@[simp] theorem core_count_rings (c : Core) (i n : Nat) : (c.count i n).rings = c.rings := rfl
@[simp] theorem core_count_user (c : Core) (i n : Nat) : (c.count i n).user = c.user := rfl
@[simp] theorem core_count_sc (c : Core) (i n : Nat) : (c.count i n).sc = c.sc := rfl
@[simp] theorem core_count_tlb (c : Core) (i n : Nat) : (c.count i n).tlb = c.tlb := rfl
@[simp] theorem core_count_poisoned (c : Core) (i n : Nat) : (c.count i n).poisoned = c.poisoned := rfl

/-! ## Taking a trap and returning from it -/

@[simp] theorem takeTrap_mode (q : Seq) (cause code ctx ret : Nat) :
    (q.takeTrap cause code ctx ret).mode = q.mode := rfl
@[simp] theorem takeTrap_waitFor (q : Seq) (cause code ctx ret : Nat) :
    (q.takeTrap cause code ctx ret).waitFor = q.waitFor := rfl
@[simp] theorem takeTrap_x (q : Seq) (cause code ctx ret : Nat) :
    (q.takeTrap cause code ctx ret).x = q.x := rfl
@[simp] theorem takeTrap_aps (q : Seq) (cause code ctx ret : Nat) :
    (q.takeTrap cause code ctx ret).aps = q.aps := rfl
@[simp] theorem takeTrap_pc (q : Seq) (cause code ctx ret : Nat) :
    (q.takeTrap cause code ctx ret).pc = q.tvec.toNat := rfl
@[simp] theorem takeTrap_imem (q : Seq) (cause code ctx ret : Nat) :
    (q.takeTrap cause code ctx ret).imem = q.imem := rfl
@[simp] theorem takeTrap_params (q : Seq) (cause code ctx ret : Nat) :
    (q.takeTrap cause code ctx ret).params = q.params := rfl
@[simp] theorem takeTrap_ranNative (q : Seq) (cause code ctx ret : Nat) :
    (q.takeTrap cause code ctx ret).ranNative = q.ranNative := rfl
@[simp] theorem takeTrap_gen (q : Seq) (cause code ctx ret : Nat) :
    (q.takeTrap cause code ctx ret).gen = q.gen := rfl
@[simp] theorem takeTrap_genAp (q : Seq) (cause code ctx ret : Nat) :
    (q.takeTrap cause code ctx ret).genAp = q.genAp := rfl
@[simp] theorem takeTrap_start (q : Seq) (cause code ctx ret : Nat) :
    (q.takeTrap cause code ctx ret).start = q.start := rfl
@[simp] theorem takeTrap_phase (q : Seq) (cause code ctx ret : Nat) :
    (q.takeTrap cause code ctx ret).phase = q.phase := rfl
@[simp] theorem takeTrap_tvec (q : Seq) (cause code ctx ret : Nat) :
    (q.takeTrap cause code ctx ret).tvec = q.tvec := rfl
@[simp] theorem takeTrap_epc (q : Seq) (cause code ctx ret : Nat) :
    (q.takeTrap cause code ctx ret).epc = BitVec.ofNat 64 ret := rfl
@[simp] theorem takeTrap_ecause (q : Seq) (cause code ctx ret : Nat) :
    (q.takeTrap cause code ctx ret).ecause = BitVec.ofNat 64 (code * 256 + cause) := rfl
@[simp] theorem takeTrap_eval (q : Seq) (cause code ctx ret : Nat) :
    (q.takeTrap cause code ctx ret).eval = BitVec.ofNat 64 ctx := rfl
@[simp] theorem takeTrap_intrap (q : Seq) (cause code ctx ret : Nat) :
    (q.takeTrap cause code ctx ret).intrap = true := rfl
@[simp] theorem takeTrap_shortstall (q : Seq) (cause code ctx ret : Nat) :
    (q.takeTrap cause code ctx ret).shortstall = q.shortstall := rfl
@[simp] theorem takeTrap_bframe (q : Seq) (cause code ctx ret : Nat) :
    (q.takeTrap cause code ctx ret).bframe = q.bframe := rfl
@[simp] theorem takeTrap_ready (q : Seq) (cause code ctx ret : Nat) :
    (q.takeTrap cause code ctx ret).ready = q.ready := rfl
@[simp] theorem takeTrap_issueFrom (q : Seq) (cause code ctx ret : Nat) :
    (q.takeTrap cause code ctx ret).issueFrom = q.issueFrom := rfl
@[simp] theorem takeTrap_ctxfaults (q : Seq) (cause code ctx ret : Nat) :
    (q.takeTrap cause code ctx ret).ctxfaults = q.ctxfaults := rfl
@[simp] theorem takeTrap_chainNext (q : Seq) (cause code ctx ret : Nat) :
    (q.takeTrap cause code ctx ret).chainNext = q.chainNext := rfl
@[simp] theorem takeTrap_chainFirst (q : Seq) (cause code ctx ret : Nat) :
    (q.takeTrap cause code ctx ret).chainFirst = q.chainFirst := rfl
@[simp] theorem takeTrap_chainEnded (q : Seq) (cause code ctx ret : Nat) :
    (q.takeTrap cause code ctx ret).chainEnded = q.chainEnded := rfl
@[simp] theorem takeTrap_chainUsed (q : Seq) (cause code ctx ret : Nat) :
    (q.takeTrap cause code ctx ret).chainUsed = q.chainUsed := rfl
@[simp] theorem takeTrap_sawPhase (q : Seq) (cause code ctx ret : Nat) :
    (q.takeTrap cause code ctx ret).sawPhase = q.sawPhase := rfl
@[simp] theorem takeTrap_held (q : Seq) (cause code ctx ret : Nat) :
    (q.takeTrap cause code ctx ret).held = q.held := rfl

@[simp] theorem returnTrap_mode (q : Seq) : q.returnTrap.mode = q.mode := rfl
@[simp] theorem returnTrap_waitFor (q : Seq) : q.returnTrap.waitFor = q.waitFor := rfl
@[simp] theorem returnTrap_x (q : Seq) : q.returnTrap.x = q.x := rfl
@[simp] theorem returnTrap_aps (q : Seq) : q.returnTrap.aps = q.aps := rfl
@[simp] theorem returnTrap_pc (q : Seq) : q.returnTrap.pc = q.epc.toNat := rfl
@[simp] theorem returnTrap_imem (q : Seq) : q.returnTrap.imem = q.imem := rfl
@[simp] theorem returnTrap_params (q : Seq) : q.returnTrap.params = q.params := rfl
@[simp] theorem returnTrap_ranNative (q : Seq) : q.returnTrap.ranNative = q.ranNative := rfl
@[simp] theorem returnTrap_gen (q : Seq) : q.returnTrap.gen = q.gen := rfl
@[simp] theorem returnTrap_genAp (q : Seq) : q.returnTrap.genAp = q.genAp := rfl
@[simp] theorem returnTrap_start (q : Seq) : q.returnTrap.start = q.start := rfl
@[simp] theorem returnTrap_phase (q : Seq) : q.returnTrap.phase = q.phase := rfl
@[simp] theorem returnTrap_tvec (q : Seq) : q.returnTrap.tvec = q.tvec := rfl
@[simp] theorem returnTrap_epc (q : Seq) : q.returnTrap.epc = q.epc := rfl
@[simp] theorem returnTrap_ecause (q : Seq) : q.returnTrap.ecause = q.ecause := rfl
@[simp] theorem returnTrap_eval (q : Seq) : q.returnTrap.eval = q.eval := rfl
@[simp] theorem returnTrap_intrap (q : Seq) : q.returnTrap.intrap = false := rfl
@[simp] theorem returnTrap_shortstall (q : Seq) : q.returnTrap.shortstall = q.shortstall := rfl
@[simp] theorem returnTrap_bframe (q : Seq) : q.returnTrap.bframe = q.bframe := rfl
@[simp] theorem returnTrap_ready (q : Seq) : q.returnTrap.ready = q.ready := rfl
@[simp] theorem returnTrap_issueFrom (q : Seq) : q.returnTrap.issueFrom = q.issueFrom := rfl
@[simp] theorem returnTrap_ctxfaults (q : Seq) : q.returnTrap.ctxfaults = q.ctxfaults := rfl
@[simp] theorem returnTrap_chainNext (q : Seq) : q.returnTrap.chainNext = q.chainNext := rfl
@[simp] theorem returnTrap_chainFirst (q : Seq) : q.returnTrap.chainFirst = q.chainFirst := rfl
@[simp] theorem returnTrap_chainEnded (q : Seq) : q.returnTrap.chainEnded = q.chainEnded := rfl
@[simp] theorem returnTrap_chainUsed (q : Seq) : q.returnTrap.chainUsed = q.chainUsed := rfl
@[simp] theorem returnTrap_sawPhase (q : Seq) : q.returnTrap.sawPhase = q.sawPhase := rfl
@[simp] theorem returnTrap_held (q : Seq) : q.returnTrap.held = q.held := rfl

end Sys2Proof.Laws
end

