-- ==== Sys2Proof/Laws/Ops.lean ====
section
/-! SUPPORT. One lemma for each shared operation, that says once everything it can do. -/

namespace Sys2Proof.Laws

open Sys2Proof Machine

/-! ## Places: an instruction is performed by the agent that may perform it, in a place that exists -/

theorem atElem_next {s t : State} {f} (h : atElem s f = .next t) : ∃ k e, s.agent = .elem k e ∧ k < 64 ∧ e < 1024 ∧ t = f k e := by
  unfold atElem at h
  split at h
  · split at h
    · cases h; exact ⟨_, _, ‹_›, (‹_ ∧ _›).1, (‹_ ∧ _›).2, rfl⟩
    · cases h
  · cases h

theorem atElem_total (s : State) (f : Nat → Nat → State) :
    (∃ t, atElem s f = .next t) ∨ atElem s f = .fault .noSuchResource ∨ atElem s f = .fault .wrongAgent := by
  unfold atElem; split
  · split
    · exact .inl ⟨_, rfl⟩
    · exact .inr (.inl rfl)
  · exact .inr (.inr rfl)

theorem atNode_next {s t : State} {f} (h : atNode s f = .next t) : ∃ k n, s.agent = .node k n ∧ k < 64 ∧ n < 36 ∧ t = f k n := by
  unfold atNode at h
  split at h
  · split at h
    · cases h; exact ⟨_, _, ‹_›, (‹_ ∧ _›).1, (‹_ ∧ _›).2, rfl⟩
    · cases h
  · cases h

theorem atNode_total (s : State) (f : Nat → Nat → State) :
    (∃ t, atNode s f = .next t) ∨ atNode s f = .fault .noSuchResource ∨ atNode s f = .fault .wrongAgent := by
  unfold atNode; split
  · split
    · exact .inl ⟨_, rfl⟩
    · exact .inr (.inl rfl)
  · exact .inr (.inr rfl)

theorem atSeq_next {s t : State} {f} (h : atSeq s f = .next t) : ∃ c, s.agent = .seq c ∧ c < 16 ∧ t = f c := by
  unfold atSeq at h
  split at h
  · split at h
    · cases h; exact ⟨_, ‹_›, ‹_›, rfl⟩
    · cases h
  · cases h

theorem atSeq_total (s : State) (f : Nat → State) :
    (∃ t, atSeq s f = .next t) ∨ atSeq s f = .fault .noSuchResource ∨ atSeq s f = .fault .wrongAgent := by
  unfold atSeq; split
  · split
    · exact .inl ⟨_, rfl⟩
    · exact .inr (.inl rfl)
  · exact .inr (.inr rfl)

theorem atConfig_next {s t : State} {f} (h : atConfig s f = .next t) : ∃ k, s.agent = .config k ∧ k < 64 ∧ t = f k := by
  unfold atConfig at h
  split at h
  · split at h
    · cases h; exact ⟨_, ‹_›, ‹_›, rfl⟩
    · cases h
  · cases h

theorem atConfig_total (s : State) (f : Nat → State) :
    (∃ t, atConfig s f = .next t) ∨ atConfig s f = .fault .noSuchResource ∨ atConfig s f = .fault .wrongAgent := by
  unfold atConfig; split
  · split
    · exact .inl ⟨_, rfl⟩
    · exact .inr (.inl rfl)
  · exact .inr (.inr rfl)

theorem atCore_next {s t : State} {f} (h : atCore s f = .next t) : ∃ k, s.agent = .core k ∧ k < 64 ∧ t = f k := by
  unfold atCore at h
  split at h
  · split at h
    · cases h; exact ⟨_, ‹_›, ‹_›, rfl⟩
    · cases h
  · cases h

theorem atCore_total (s : State) (f : Nat → State) :
    (∃ t, atCore s f = .next t) ∨ atCore s f = .fault .noSuchResource ∨ atCore s f = .fault .wrongAgent := by
  unfold atCore; split
  · split
    · exact .inl ⟨_, rfl⟩
    · exact .inr (.inl rfl)
  · exact .inr (.inr rfl)

theorem atQueue_next {s t : State} {f} (h : atQueue s f = .next t) : ∃ q, s.agent = .queue q ∧ q < Config.queueCount ∧ t = f q := by
  unfold atQueue at h
  split at h
  · split at h
    · cases h; exact ⟨_, ‹_›, ‹_›, rfl⟩
    · cases h
  · cases h

theorem atQueue_total (s : State) (f : Nat → State) :
    (∃ t, atQueue s f = .next t) ∨ atQueue s f = .fault .noSuchResource ∨ atQueue s f = .fault .wrongAgent := by
  unfold atQueue; split
  · split
    · exact .inl ⟨_, rfl⟩
    · exact .inr (.inl rfl)
  · exact .inr (.inr rfl)

theorem atSched_next {s t : State} {f} (h : atSched s f = .next t) : ∃ d, s.agent = .sched d ∧ d < 9 ∧ t = f d := by
  unfold atSched at h
  split at h
  · split at h
    · cases h; exact ⟨_, ‹_›, ‹_›, rfl⟩
    · cases h
  · cases h

theorem atSched_total (s : State) (f : Nat → State) :
    (∃ t, atSched s f = .next t) ∨ atSched s f = .fault .noSuchResource ∨ atSched s f = .fault .wrongAgent := by
  unfold atSched; split
  · split
    · exact .inl ⟨_, rfl⟩
    · exact .inr (.inl rfl)
  · exact .inr (.inr rfl)

theorem atLaunch_next {s t : State} {f} (h : atLaunch s f = .next t) : ∃ l, s.agent = .launch l ∧ t = f l := by
  unfold atLaunch at h
  split at h
  · cases h; exact ⟨_, ‹_›, rfl⟩
  · cases h

theorem atLaunch_total (s : State) (f : Nat → State) :
    (∃ t, atLaunch s f = .next t) ∨ atLaunch s f = .fault .noSuchResource ∨ atLaunch s f = .fault .wrongAgent := by
  unfold atLaunch; split
  · exact .inl ⟨_, rfl⟩
  · exact .inr (.inr rfl)

theorem atLoader_next {s t : State} {f} (h : atLoader s f = .next t) : ∃ c, s.agent = .loader c ∧ c < 16 ∧ t = f c := by
  unfold atLoader at h
  split at h
  · split at h
    · cases h; exact ⟨_, ‹_›, ‹_›, rfl⟩
    · cases h
  · cases h

theorem atLoader_total (s : State) (f : Nat → State) :
    (∃ t, atLoader s f = .next t) ∨ atLoader s f = .fault .noSuchResource ∨ atLoader s f = .fault .wrongAgent := by
  unfold atLoader; split
  · split
    · exact .inl ⟨_, rfl⟩
    · exact .inr (.inl rfl)
  · exact .inr (.inr rfl)

theorem atAp_next {s t : State} {f} (h : atAp s f = .next t) : ∃ c a, s.agent = .ap c a ∧ c < 16 ∧ a < 16 ∧ t = f c a := by
  unfold atAp at h
  split at h
  · split at h
    · cases h; exact ⟨_, _, ‹_›, (‹_ ∧ _›).1, (‹_ ∧ _›).2, rfl⟩
    · cases h
  · cases h

theorem atAp_total (s : State) (f : Nat → Nat → State) :
    (∃ t, atAp s f = .next t) ∨ atAp s f = .fault .noSuchResource ∨ atAp s f = .fault .wrongAgent := by
  unfold atAp; split
  · split
    · exact .inl ⟨_, rfl⟩
    · exact .inr (.inl rfl)
  · exact .inr (.inr rfl)

theorem atInst_next {s t : State} {f} (h : atInst s f = .next t) : ∃ k r g, s.agent = .inst k r g ∧ k < 64 ∧ r < 8 ∧ t = f k r g := by
  unfold atInst at h
  split at h
  · split at h
    · cases h; exact ⟨_, _, _, ‹_›, (‹_ ∧ _›).1, (‹_ ∧ _›).2, rfl⟩
    · cases h
  · cases h

theorem atInst_total (s : State) (f : Nat → Nat → Tag → State) :
    (∃ t, atInst s f = .next t) ∨ atInst s f = .fault .noSuchResource ∨ atInst s f = .fault .wrongAgent := by
  unfold atInst; split
  · split
    · exact .inl ⟨_, rfl⟩
    · exact .inr (.inl rfl)
  · exact .inr (.inr rfl)

theorem atAccess_next {s t : State} {f} (h : atAccess s f = .next t) : ∃ k i, s.agent = .access k i ∧ k < 64 ∧ t = f k i := by
  unfold atAccess at h
  split at h
  · split at h
    · cases h; exact ⟨_, _, ‹_›, ‹_›, rfl⟩
    · cases h
  · cases h

theorem atAccess_total (s : State) (f : Nat → Nat → State) :
    (∃ t, atAccess s f = .next t) ∨ atAccess s f = .fault .noSuchResource ∨ atAccess s f = .fault .wrongAgent := by
  unfold atAccess; split
  · split
    · exact .inl ⟨_, rfl⟩
    · exact .inr (.inl rfl)
  · exact .inr (.inr rfl)

theorem atPort_next {s t : State} {f} (h : atPort s f = .next t) : ∃ p, s.agent = .port p ∧ p < 96 ∧ t = f p := by
  unfold atPort at h
  split at h
  · split at h
    · cases h; exact ⟨_, ‹_›, ‹_›, rfl⟩
    · cases h
  · cases h

theorem atPort_total (s : State) (f : Nat → State) :
    (∃ t, atPort s f = .next t) ∨ atPort s f = .fault .noSuchResource ∨ atPort s f = .fault .wrongAgent := by
  unfold atPort; split
  · split
    · exact .inl ⟨_, rfl⟩
    · exact .inr (.inl rfl)
  · exact .inr (.inr rfl)

theorem atEpoch_next {s t : State} {f} (h : atEpoch s f = .next t) : ∃ i, s.agent = .epoch i ∧ t = f i := by
  unfold atEpoch at h
  split at h
  · cases h; exact ⟨_, ‹_›, rfl⟩
  · cases h

theorem atEpoch_total (s : State) (f : Nat → State) :
    (∃ t, atEpoch s f = .next t) ∨ atEpoch s f = .fault .noSuchResource ∨ atEpoch s f = .fault .wrongAgent := by
  unfold atEpoch; split
  · exact .inl ⟨_, rfl⟩
  · exact .inr (.inr rfl)

theorem atRoute_next {s t : State} {f} (h : atRoute s f = .next t) : ∃ p n, s.agent = .route p n ∧ p < 8 ∧ n < 8 ∧ t = f p n := by
  unfold atRoute at h
  split at h
  · split at h
    · cases h; exact ⟨_, _, ‹_›, (‹_ ∧ _›).1, (‹_ ∧ _›).2, rfl⟩
    · cases h
  · cases h

theorem atRoute_total (s : State) (f : Nat → Nat → State) :
    (∃ t, atRoute s f = .next t) ∨ atRoute s f = .fault .noSuchResource ∨ atRoute s f = .fault .wrongAgent := by
  unfold atRoute; split
  · split
    · exact .inl ⟨_, rfl⟩
    · exact .inr (.inl rfl)
  · exact .inr (.inr rfl)

theorem atFn_next {s t : State} {f} (h : atFn s f = .next t) : ∃ n, s.agent = .fn n ∧ n < 9 ∧ t = f n := by
  unfold atFn at h
  split at h
  · split at h
    · cases h; exact ⟨_, ‹_›, ‹_›, rfl⟩
    · cases h
  · cases h

theorem atFn_total (s : State) (f : Nat → State) :
    (∃ t, atFn s f = .next t) ∨ atFn s f = .fault .noSuchResource ∨ atFn s f = .fault .wrongAgent := by
  unfold atFn; split
  · split
    · exact .inl ⟨_, rfl⟩
    · exact .inr (.inl rfl)
  · exact .inr (.inr rfl)

theorem atDevice_next {s t u : State} (h : atDevice s u = .next t) : s.agent = .device ∧ t = u := by
  unfold atDevice at h
  split at h
  · cases h; exact ⟨‹_›, rfl⟩
  · cases h

/-! ## Elements and sequencers -/

/-- What an element's step does: nothing where no fired set may issue; else the set is taken and the instruction acts on it. -/
theorem issueWith_next {s t : State} {a : ElemArgs} {ty : Bool} {lat : Nat} {act : State → Shot → Opnds → State}
    (h : issueWith s a ty lat act = .next t) :
    ∃ k e, s.agent = .elem k e ∧ k < 64 ∧ e < 1024 ∧
      ((s.issuable k e = none ∧ t = s) ∨
       ∃ x rest, s.issuable k e = some (x, rest) ∧
         t = act (s.takeShot k e rest)
           { k := k, e := e, args := a, frame := (s.elem k e).frame, slot := (s.elem k e).slot, inst := x.inst, ready := s.now + lat }
           (operandsOf a ty x)) := by
  obtain ⟨k, e, ha, hk, he, rfl⟩ := atElem_next h
  refine ⟨k, e, ha, hk, he, ?_⟩
  cases hi : s.issuable k e with
  | none => exact .inl ⟨rfl, rfl⟩
  | some p => exact .inr ⟨p.1, p.2, rfl, rfl⟩

/-- With a fired set to issue, an element instruction acts on it. -/
theorem issueWith_fires {s : State} {k e : Nat} {x : Fired} {rest : List Fired} (a : ElemArgs) (ty : Bool) (lat : Nat)
    (act : State → Shot → Opnds → State) (ha : s.agent = .elem k e) (hk : k < 64) (he : e < 1024)
    (hi : s.issuable k e = some (x, rest)) :
    issueWith s a ty lat act = .next (act (s.takeShot k e rest)
      { k := k, e := e, args := a, frame := (s.elem k e).frame, slot := (s.elem k e).slot, inst := x.inst, ready := s.now + lat }
      (operandsOf a ty x)) := by
  simp [issueWith, atElem, ha, hk, he, hi]

/-- R54: with an F token, an instruction of the plain rule forwards it. -/
theorem issueOp_fires_fault {s : State} {k e : Nat} {x : Fired} {rest : List Fired} (a : ElemArgs) (ty : Bool) (lat i : Nat)
    (act : State → Shot → Opnds → State) (ha : s.agent = .elem k e) (hk : k < 64) (he : e < 1024)
    (hi : s.issuable k e = some (x, rest)) (hf : (operandsOf a ty x).firstF = some i) :
    issueOp s a ty lat act = .next ((s.takeShot k e rest).forwardSlot
      { k := k, e := e, args := a, frame := (s.elem k e).frame, slot := (s.elem k e).slot, inst := x.inst, ready := s.now + lat }
      (operandsOf a ty x) i (operandsOf a ty x).dAll false) := by
  simp [issueOp, issueWith_fires a ty lat _ ha hk he hi, hf]

/-- Without an F token, it acts. -/
theorem issueOp_fires {s : State} {k e : Nat} {x : Fired} {rest : List Fired} (a : ElemArgs) (ty : Bool) (lat : Nat)
    (act : State → Shot → Opnds → State) (ha : s.agent = .elem k e) (hk : k < 64) (he : e < 1024)
    (hi : s.issuable k e = some (x, rest)) (hf : (operandsOf a ty x).firstF = none) :
    issueOp s a ty lat act = .next (act (s.takeShot k e rest)
      { k := k, e := e, args := a, frame := (s.elem k e).frame, slot := (s.elem k e).slot, inst := x.inst, ready := s.now + lat }
      (operandsOf a ty x)) := by
  simp [issueOp, issueWith_fires a ty lat _ ha hk he hi, hf]

/-- What a sequencer's step does: nothing where it may not issue, or where the interlock holds it; else the instruction acts. -/
theorem seqIssue_next {s t : State} {reads : List (BitVec 5)} {act : State → Nat → State} (h : seqIssue s reads act = .next t) :
    ∃ c, s.agent = .seq c ∧ c < 16 ∧
      (t = s ∨ t = s.onSeq c (fun _ => ((s.seq c).gate s.now reads).2) ∨
        (((s.seq c).gate s.now reads).1 = true ∧ (s.seq c).mode = .run ∧ (∃ l x, s.seqLaunch c = some (l, x) ∧ x.st = .running) ∧
          t = act (s.onSeq c fun _ => ((s.seq c).gate s.now reads).2) c)) := by
  obtain ⟨c, ha, hc, rfl⟩ := atSeq_next h
  refine ⟨c, ha, hc, ?_⟩
  cases hl : s.seqLaunch c with
  | none => exact .inl rfl
  | some p =>
    obtain ⟨l, x⟩ := p
    dsimp only
    split
    · exact .inl rfl
    · rename_i hm
      simp only [Bool.or_eq_true, bne_iff_ne, not_or, ne_eq, not_not] at hm
      split
      · exact .inr (.inr ⟨‹_›, hm.2, ⟨l, x, rfl, hm.1⟩, rfl⟩)
      · exact .inr (.inl rfl)

/-- The interlock changes only the counter and the cycle of issue (R112). -/
theorem gate_keeps (q : Seq) (now : Nat) (reads : List (BitVec 5)) :
    (q.gate now reads).2.pc = q.pc ∧ (q.gate now reads).2.x = q.x ∧ (q.gate now reads).2.mode = q.mode ∧
    (q.gate now reads).2.ranNative = q.ranNative ∧ (q.gate now reads).2.tvec = q.tvec ∧ (q.gate now reads).2.intrap = q.intrap := by
  unfold Seq.gate
  split
  · simp
  · dsimp only
    split <;> simp

/-- What a queue command does: nothing where the queue executes none. -/
theorem onCommand_next {s t : State} {act : State → Nat → State} (h : onCommand s act = .next t) :
    ∃ q, s.agent = .queue q ∧ q < Config.queueCount ∧
      (((s.runningCmd q).isSome = true ∧ t = act s q) ∨ (s.runningCmd q = none ∧ t = s)) := by
  obtain ⟨q, ha, hq, rfl⟩ := atQueue_next h
  refine ⟨q, ha, hq, ?_⟩
  cases hr : s.runningCmd q <;> simp

/-! ## Launch failures (R343) -/

/-- A launch fails once: the first failure counts. -/
theorem failLaunch_launch (s : State) (l : Nat) (f : Failure) :
    (s.failLaunch l f).launch l =
      if (s.launch l).st = .failing then s.launch l else { s.launch l with st := .failing, failure := some f } := by
  unfold State.failLaunch
  rw [onLaunch_launch]
  cases (s.launch l).st <;> simp

/-- It changes nothing but the table of launches. -/
theorem failLaunch_keeps (s : State) (l : Nat) (f : Failure) :
    (s.failLaunch l f).cores = s.cores ∧ (s.failLaunch l f).seqs = s.seqs ∧ (s.failLaunch l f).hbm = s.hbm ∧
    (s.failLaunch l f).hostMem = s.hostMem ∧ (s.failLaunch l f).parts = s.parts ∧ (s.failLaunch l f).queues = s.queues := ⟨rfl, rfl, rfl, rfl, rfl, rfl⟩

/-! ## Tags (R40, R41) -/

/-- A tag operation succeeds or names its DETAIL: 0x01 for ENTER at depth 12 or a level outside the stack, 0x02 below depth 0. -/
theorem tagApply_cases (op : TagOp) (t : Tag) : (∃ u, tagApply op t = .ok u) ∨ tagApply op t = .error 0x01 ∨ tagApply op t = .error 0x02 := by
  cases op <;> simp only [tagApply]
  · exact .inl ⟨_, rfl⟩
  all_goals split
  all_goals first | exact .inr (.inl rfl) | exact .inr (.inr rfl) | exact .inl ⟨_, rfl⟩

/-! ## Counters (R438) -/

/-- A counter of a core advances by `n`, modulo 2^32. -/
@[simp] theorem core_count_same (c : Core) (i n : Nat) : Tab.get 0 (c.count i n).counters i = Tab.get 0 c.counters i + BitVec.ofNat 32 n := by
  simp [Core.count]

theorem core_count_other (c : Core) (i n j : Nat) (h : j ≠ i) : Tab.get 0 (c.count i n).counters j = Tab.get 0 c.counters j := by
  simp [Core.count, tab_get_set_other _ _ _ h]

end Sys2Proof.Laws
end

