-- ==== Sys2Proof/Laws/PerInstr.lean ====
section
/-! SUPPORT. Statements about every instruction as syntax, one lemma per constructor. -/

namespace Sys2Proof.Laws.Words

open Sys2Proof Machine

/-- An instruction has no words (an event), one, the eight fields of an element slot with or without its WIDE half, or the sixteen of a
queue command (R71, R79, R90, R97, R98). -/
def Statement (i : Instr) : Prop := (encode i).length ∈ [0, 1, 8, 9, 16]

/-- The words of an element slot: F0 to F7, and the upper half of a WIDE immediate (R79, R87). -/
theorem slot_words (opc : Nat) (a : ElemArgs) :
    ((encodeElem opc a).f.map wd ++ (match (encodeElem opc a).wide with | none => [] | some u => [wd u.toNat])).length ∈ [0, 1, 8, 9, 16] := by
  cases h : (encodeElem opc a).wide <;> simp [encodeElem]

/-- The words of a queue command whose payload has six (R98). -/
theorem command_words (op : Nat) (h : CmdHeader) (p : List Word) (hp : p.length = 6) : (commandWords op h p).length = 16 := by
  cases hw : h.wait <;> cases hs : h.sig <;> simp [commandWords, hw, hs, dw, splitWords, hp]

/-- Sixteen words are one of the lengths. -/
theorem of_command (i : Instr) (op : Nat) (h : CmdHeader) (p : List Word) (hp : p.length = 6) (hi : encode i = commandWords op h p) :
    Statement i := by simp [Statement, hi, command_words op h p hp]

theorem pcieLinkTrained : ∀ a b, Statement (.pcieLinkTrained a b) := fun _ _ => .head _
theorem thermalLimit : ∀ a, Statement (.thermalLimit a) := fun _ => .head _
theorem resourceMapOut : ∀ a, Statement (.resourceMapOut a) := fun _ => .head _
theorem uncorrectableError : ∀ a, Statement (.uncorrectableError a) := fun _ => .head _
theorem registerWrite : ∀ a b c, Statement (.registerWrite a b c) := fun _ _ _ => .head _
theorem doorbell : ∀ a b c, Statement (.doorbell a b c) := fun _ _ _ => .head _
theorem launch : ∀ a b, Statement (.launch a b) := fun _ _ => of_command _ _ _ _ rfl rfl
theorem chain : ∀ a b, Statement (.chain a b) := fun _ _ => of_command _ _ _ _ rfl rfl
theorem capRead : ∀ a b c, Statement (.capRead a b c) := fun _ _ _ => of_command _ _ _ _ rfl rfl
theorem healthRead : ∀ a b, Statement (.healthRead a b) := fun _ _ => of_command _ _ _ _ rfl rfl
theorem modeSet : ∀ a b, Statement (.modeSet a b) := fun _ _ => of_command _ _ _ _ rfl rfl
theorem partitionCfg : ∀ a b, Statement (.partitionCfg a b) := fun _ _ => of_command _ _ _ _ rfl rfl
theorem partitionTeardown : ∀ a b, Statement (.partitionTeardown a b) := fun _ _ => of_command _ _ _ _ rfl rfl
theorem rankSet : ∀ a b, Statement (.rankSet a b) := fun _ _ => of_command _ _ _ _ rfl rfl
theorem invalRange : ∀ a b, Statement (.invalRange a b) := fun _ _ => of_command _ _ _ _ rfl rfl
theorem ringRestart : ∀ a b c, Statement (.ringRestart a b c) := fun _ _ _ => of_command _ _ _ _ rfl rfl
theorem ringRestartFaultRing : ∀ a b, Statement (.ringRestartFaultRing a b) := fun _ _ => of_command _ _ _ _ rfl rfl
theorem preempt : ∀ a b c, Statement (.preempt a b c) := fun _ _ _ => of_command _ _ _ _ rfl rfl
theorem resume : ∀ a b c, Statement (.resume a b c) := fun _ _ _ => of_command _ _ _ _ rfl rfl
theorem sealLoadCreate : ∀ a b, Statement (.sealLoadCreate a b) := fun _ _ => of_command _ _ _ _ rfl rfl
theorem sealLoadImport : ∀ a b, Statement (.sealLoadImport a b) := fun _ _ => of_command _ _ _ _ rfl rfl
theorem sealLoadDestroy : ∀ a b, Statement (.sealLoadDestroy a b) := fun _ _ => of_command _ _ _ _ rfl rfl
theorem sessionOpen : ∀ a b, Statement (.sessionOpen a b) := fun _ _ => of_command _ _ _ _ rfl rfl
theorem sessionClose : ∀ a b, Statement (.sessionClose a b) := fun _ _ => of_command _ _ _ _ rfl rfl
theorem replyBind : ∀ a b, Statement (.replyBind a b) := fun _ _ => of_command _ _ _ _ rfl rfl
theorem replyUnbind : ∀ a b, Statement (.replyUnbind a b) := fun _ _ => of_command _ _ _ _ rfl rfl
theorem usageSignReport : ∀ a b, Statement (.usageSignReport a b) := fun _ _ => of_command _ _ _ _ rfl rfl
theorem usageSignUsage : ∀ a b, Statement (.usageSignUsage a b) := fun _ _ => of_command _ _ _ _ rfl rfl
theorem kernelAdmitLibrary : ∀ a b, Statement (.kernelAdmitLibrary a b) := fun _ _ => of_command _ _ _ _ rfl rfl
theorem kernelAdmitRaw : ∀ a b, Statement (.kernelAdmitRaw a b) := fun _ _ => of_command _ _ _ _ rfl rfl
theorem kernelAdmitRevoke : ∀ a b, Statement (.kernelAdmitRevoke a b) := fun _ _ => of_command _ _ _ _ rfl rfl
theorem field : ∀ a b c, Statement (.field a b c) := fun _ _ _ => .tail _ (.head _)
theorem wide : ∀ a, Statement (.wide a) := fun _ => .tail _ (.head _)
theorem frameOpen : ∀ a b c, Statement (.frameOpen a b c) := fun _ _ _ => .tail _ (.head _)
theorem frameClose : ∀ a, Statement (.frameClose a) := fun _ => .tail _ (.head _)
theorem framePlace : ∀ a, Statement (.framePlace a) := fun _ => .tail _ (.head _)
theorem frameBin : ∀ a b c, Statement (.frameBin a b c) := fun _ _ _ => .tail _ (.head _)
theorem boutFrameInput : ∀ a b c, Statement (.boutFrameInput a b c) := fun _ _ _ => .tail _ (.head _)
theorem boutThisInput : ∀ a b, Statement (.boutThisInput a b) := fun _ _ => .tail _ (.head _)
theorem boutNodePort : ∀ a b c, Statement (.boutNodePort a b c) := fun _ _ _ => .tail _ (.head _)
theorem cnext : ∀ a b c, Statement (.cnext a b c) := fun _ _ _ => .tail _ (.head _)
theorem cset : ∀ a b, Statement (.cset a b) := fun _ _ => .tail _ (.head _)
theorem hbind : ∀ a b c, Statement (.hbind a b c) := fun _ _ _ => .tail _ (.head _)
theorem hfree : ∀ a b, Statement (.hfree a b) := fun _ _ => .tail _ (.head _)
theorem flitReceive : ∀ a b c, Statement (.flitReceive a b c) := fun _ _ _ => .head _
theorem linkRetrain : ∀ a b, Statement (.linkRetrain a b) := fun _ _ => .head _
theorem spdmKeyExchange : ∀ a b c d, Statement (.spdmKeyExchange a b c d) := fun _ _ _ _ => .head _
theorem domainList : ∀ a b, Statement (.domainList a b) := fun _ _ => .head _
theorem const : ∀ a, Statement (.const a) := fun _ => slot_words _ _
theorem add : ∀ a, Statement (.add a) := fun _ => slot_words _ _
theorem sub : ∀ a, Statement (.sub a) := fun _ => slot_words _ _
theorem addsat : ∀ a, Statement (.addsat a) := fun _ => slot_words _ _
theorem subsat : ∀ a, Statement (.subsat a) := fun _ => slot_words _ _
theorem mul : ∀ a, Statement (.mul a) := fun _ => slot_words _ _
theorem mulh : ∀ a, Statement (.mulh a) := fun _ => slot_words _ _
theorem mad : ∀ a, Statement (.mad a) := fun _ => slot_words _ _
theorem div : ∀ a, Statement (.div a) := fun _ => slot_words _ _
theorem rem : ∀ a, Statement (.rem a) := fun _ => slot_words _ _
theorem and : ∀ a, Statement (.and a) := fun _ => slot_words _ _
theorem or : ∀ a, Statement (.or a) := fun _ => slot_words _ _
theorem xor : ∀ a, Statement (.xor a) := fun _ => slot_words _ _
theorem andn : ∀ a, Statement (.andn a) := fun _ => slot_words _ _
theorem shl : ∀ a, Statement (.shl a) := fun _ => slot_words _ _
theorem shr : ∀ a, Statement (.shr a) := fun _ => slot_words _ _
theorem sra : ∀ a, Statement (.sra a) := fun _ => slot_words _ _
theorem rot : ∀ a, Statement (.rot a) := fun _ => slot_words _ _
theorem min : ∀ a, Statement (.min a) := fun _ => slot_words _ _
theorem max : ∀ a, Statement (.max a) := fun _ => slot_words _ _
theorem abs : ∀ a, Statement (.abs a) := fun _ => slot_words _ _
theorem clz : ∀ a, Statement (.clz a) := fun _ => slot_words _ _
theorem popc : ∀ a, Statement (.popc a) := fun _ => slot_words _ _
theorem bfx : ∀ a, Statement (.bfx a) := fun _ => slot_words _ _
theorem bfi : ∀ a, Statement (.bfi a) := fun _ => slot_words _ _
theorem cmp : ∀ a, Statement (.cmp a) := fun _ => slot_words _ _
theorem lea : ∀ a, Statement (.lea a) := fun _ => slot_words _ _
theorem ext : ∀ a, Statement (.ext a) := fun _ => slot_words _ _
theorem perm : ∀ a, Statement (.perm a) := fun _ => slot_words _ _
theorem sacc : ∀ a, Statement (.sacc a) := fun _ => slot_words _ _
theorem sswap : ∀ a, Statement (.sswap a) := fun _ => slot_words _ _
theorem scount : ∀ a, Statement (.scount a) := fun _ => slot_words _ _
theorem fadd : ∀ a, Statement (.fadd a) := fun _ => slot_words _ _
theorem fsub : ∀ a, Statement (.fsub a) := fun _ => slot_words _ _
theorem fmul : ∀ a, Statement (.fmul a) := fun _ => slot_words _ _
theorem fma : ∀ a, Statement (.fma a) := fun _ => slot_words _ _
theorem fmin : ∀ a, Statement (.fmin a) := fun _ => slot_words _ _
theorem fmax : ∀ a, Statement (.fmax a) := fun _ => slot_words _ _
theorem fsgn : ∀ a, Statement (.fsgn a) := fun _ => slot_words _ _
theorem fcmp : ∀ a, Statement (.fcmp a) := fun _ => slot_words _ _
theorem frcp : ∀ a, Statement (.frcp a) := fun _ => slot_words _ _
theorem frsq : ∀ a, Statement (.frsq a) := fun _ => slot_words _ _
theorem fex2 : ∀ a, Statement (.fex2 a) := fun _ => slot_words _ _
theorem flg2 : ∀ a, Statement (.flg2 a) := fun _ => slot_words _ _
theorem fcvt : ∀ a, Statement (.fcvt a) := fun _ => slot_words _ _
theorem frnd : ∀ a, Statement (.frnd a) := fun _ => slot_words _ _
theorem fclass : ∀ a, Statement (.fclass a) := fun _ => slot_words _ _
theorem steer : ∀ a, Statement (.steer a) := fun _ => slot_words _ _
theorem select : ∀ a, Statement (.select a) := fun _ => slot_words _ _
theorem gate : ∀ a, Statement (.gate a) := fun _ => slot_words _ _
theorem merge : ∀ a, Statement (.merge a) := fun _ => slot_words _ _
theorem copy : ∀ a, Statement (.copy a) := fun _ => slot_words _ _
theorem sink : ∀ a, Statement (.sink a) := fun _ => slot_words _ _
theorem purge : ∀ a, Statement (.purge a) := fun _ => slot_words _ _
theorem window : ∀ a, Statement (.window a) := fun _ => slot_words _ _
theorem enter : ∀ a, Statement (.enter a) := fun _ => slot_words _ _
theorem next : ∀ a, Statement (.next a) := fun _ => slot_words _ _
theorem leave : ∀ a, Statement (.leave a) := fun _ => slot_words _ _
theorem tagget : ∀ a, Statement (.tagget a) := fun _ => slot_words _ _
theorem tagset : ∀ a, Statement (.tagset a) := fun _ => slot_words _ _
theorem call : ∀ a, Statement (.call a) := fun _ => slot_words _ _
theorem ret : ∀ a, Statement (.ret a) := fun _ => slot_words _ _
theorem ld : ∀ a, Statement (.ld a) := fun _ => slot_words _ _
theorem st : ∀ a, Statement (.st a) := fun _ => slot_words _ _
theorem ldx : ∀ a, Statement (.ldx a) := fun _ => slot_words _ _
theorem stx : ∀ a, Statement (.stx a) := fun _ => slot_words _ _
theorem lds : ∀ a, Statement (.lds a) := fun _ => slot_words _ _
theorem iput : ∀ a, Statement (.iput a) := fun _ => slot_words _ _
theorem iget : ∀ a, Statement (.iget a) := fun _ => slot_words _ _
theorem atom : ∀ a, Statement (.atom a) := fun _ => slot_words _ _
theorem red : ∀ a, Statement (.red a) := fun _ => slot_words _ _
theorem fence : ∀ a, Statement (.fence a) := fun _ => slot_words _ _
theorem talloc : ∀ a, Statement (.talloc a) := fun _ => slot_words _ _
theorem tstate : ∀ a, Statement (.tstate a) := fun _ => slot_words _ _
theorem tfree : ∀ a, Statement (.tfree a) := fun _ => slot_words _ _
theorem send : ∀ a, Statement (.send a) := fun _ => slot_words _ _
theorem ringInit : ∀ a, Statement (.ringInit a) := fun _ => slot_words _ _
theorem awaitf : ∀ a, Statement (.awaitf a) := fun _ => slot_words _ _
theorem relslot : ∀ a, Statement (.relslot a) := fun _ => slot_words _ _
theorem rst : ∀ a, Statement (.rst a) := fun _ => slot_words _ _
theorem rld : ∀ a, Statement (.rld a) := fun _ => slot_words _ _
theorem rat : ∀ a, Statement (.rat a) := fun _ => slot_words _ _
theorem rred : ∀ a, Statement (.rred a) := fun _ => slot_words _ _
theorem rcopen : ∀ a, Statement (.rcopen a) := fun _ => slot_words _ _
theorem rrel : ∀ a, Statement (.rrel a) := fun _ => slot_words _ _
theorem barArrive : ∀ a, Statement (.barArrive a) := fun _ => slot_words _ _
theorem barWait : ∀ a, Statement (.barWait a) := fun _ => slot_words _ _
theorem censUp : ∀ a, Statement (.censUp a) := fun _ => slot_words _ _
theorem censDn : ∀ a, Statement (.censDn a) := fun _ => slot_words _ _
theorem phaseWait : ∀ a, Statement (.phaseWait a) := fun _ => slot_words _ _
theorem waitT : ∀ a, Statement (.waitT a) := fun _ => slot_words _ _
theorem seqOpen : ∀ a, Statement (.seqOpen a) := fun _ => slot_words _ _
theorem seqClose : ∀ a, Statement (.seqClose a) := fun _ => slot_words _ _
theorem commit : ∀ a, Statement (.commit a) := fun _ => slot_words _ _
theorem kvAlloc : ∀ a, Statement (.kvAlloc a) := fun _ => slot_words _ _
theorem kvAttach : ∀ a, Statement (.kvAttach a) := fun _ => slot_words _ _
theorem kvFree : ∀ a, Statement (.kvFree a) := fun _ => slot_words _ _
theorem pfxAttach : ∀ a, Statement (.pfxAttach a) := fun _ => slot_words _ _
theorem pfxEvict : ∀ a, Statement (.pfxEvict a) := fun _ => slot_words _ _
theorem gStep : ∀ a, Statement (.gStep a) := fun _ => slot_words _ _
theorem gMask : ∀ a, Statement (.gMask a) := fun _ => slot_words _ _
theorem gFork : ∀ a, Statement (.gFork a) := fun _ => slot_words _ _
theorem gRoll : ∀ a, Statement (.gRoll a) := fun _ => slot_words _ _
theorem gSave : ∀ a, Statement (.gSave a) := fun _ => slot_words _ _
theorem gLoad : ∀ a, Statement (.gLoad a) := fun _ => slot_words _ _
theorem smerge : ∀ a, Statement (.smerge a) := fun _ => slot_words _ _
theorem sdec : ∀ a, Statement (.sdec a) := fun _ => slot_words _ _
theorem senc : ∀ a, Statement (.senc a) := fun _ => slot_words _ _
theorem trap : ∀ a, Statement (.trap a) := fun _ => slot_words _ _
theorem fault : ∀ a, Statement (.fault a) := fun _ => slot_words _ _
theorem sregRd : ∀ a, Statement (.sregRd a) := fun _ => slot_words _ _
theorem sregWr : ∀ a, Statement (.sregWr a) := fun _ => slot_words _ _
theorem vadd : ∀ a, Statement (.vadd a) := fun _ => .tail _ (.head _)
theorem vsub : ∀ a, Statement (.vsub a) := fun _ => .tail _ (.head _)
theorem vmul : ∀ a, Statement (.vmul a) := fun _ => .tail _ (.head _)
theorem vfma : ∀ a, Statement (.vfma a) := fun _ => .tail _ (.head _)
theorem vmax : ∀ a, Statement (.vmax a) := fun _ => .tail _ (.head _)
theorem vmin : ∀ a, Statement (.vmin a) := fun _ => .tail _ (.head _)
theorem vexp : ∀ a, Statement (.vexp a) := fun _ => .tail _ (.head _)
theorem vrcp : ∀ a, Statement (.vrcp a) := fun _ => .tail _ (.head _)
theorem vrsq : ∀ a, Statement (.vrsq a) := fun _ => .tail _ (.head _)
theorem vtanh : ∀ a, Statement (.vtanh a) := fun _ => .tail _ (.head _)
theorem vsum : ∀ a, Statement (.vsum a) := fun _ => .tail _ (.head _)
theorem vmaxr : ∀ a, Statement (.vmaxr a) := fun _ => .tail _ (.head _)
theorem vscl : ∀ a, Statement (.vscl a) := fun _ => .tail _ (.head _)
theorem vcmp : ∀ a, Statement (.vcmp a) := fun _ => .tail _ (.head _)
theorem vsel : ∀ a, Statement (.vsel a) := fun _ => .tail _ (.head _)
theorem vperm : ∀ a, Statement (.vperm a) := fun _ => .tail _ (.head _)
theorem vbcast : ∀ a, Statement (.vbcast a) := fun _ => .tail _ (.head _)
theorem vcvt : ∀ a, Statement (.vcvt a) := fun _ => .tail _ (.head _)
theorem vtileRd : ∀ a b c, Statement (.vtileRd a b c) := fun _ _ _ => .tail _ (.head _)
theorem vtileWr : ∀ a b c, Statement (.vtileWr a b c) := fun _ _ _ => .tail _ (.head _)
theorem vnoise : ∀ a, Statement (.vnoise a) := fun _ => .tail _ (.head _)
theorem vmask : ∀ a, Statement (.vmask a) := fun _ => .tail _ (.head _)
theorem vargmax : ∀ a, Statement (.vargmax a) := fun _ => .tail _ (.head _)
theorem mwLoad : ∀ a b c d, Statement (.mwLoad a b c d) := fun _ _ _ _ => .tail _ (.head _)
theorem mwSwap : ∀ a, Statement (.mwSwap a) := fun _ => .tail _ (.head _)
theorem mmRun : ∀ a b c, Statement (.mmRun a b c) := fun _ _ _ => .tail _ (.head _)
theorem mmZp : ∀ a, Statement (.mmZp a) := fun _ => .tail _ (.head _)
theorem mmRec : ∀ a, Statement (.mmRec a) := fun _ => .tail _ (.head _)
theorem mmEnd : ∀ a b, Statement (.mmEnd a b) := fun _ _ => .tail _ (.head _)
theorem accCfg : ∀ a, Statement (.accCfg a) := fun _ => .tail _ (.head _)
theorem cvq : ∀ a, Statement (.cvq a) := fun _ => .tail _ (.head _)
theorem cvdq : ∀ a, Statement (.cvdq a) := fun _ => .tail _ (.head _)
theorem cvf : ∀ a b c, Statement (.cvf a b c) := fun _ _ _ => .tail _ (.head _)
theorem seqAdd : ∀ a b c d, Statement (.seqAdd a b c d) := fun _ _ _ _ => .tail _ (.head _)
theorem seqSub : ∀ a b c d, Statement (.seqSub a b c d) := fun _ _ _ _ => .tail _ (.head _)
theorem seqAnd : ∀ a b c d, Statement (.seqAnd a b c d) := fun _ _ _ _ => .tail _ (.head _)
theorem seqOr : ∀ a b c d, Statement (.seqOr a b c d) := fun _ _ _ _ => .tail _ (.head _)
theorem seqXor : ∀ a b c d, Statement (.seqXor a b c d) := fun _ _ _ _ => .tail _ (.head _)
theorem seqShl : ∀ a b c d, Statement (.seqShl a b c d) := fun _ _ _ _ => .tail _ (.head _)
theorem seqShr : ∀ a b c d, Statement (.seqShr a b c d) := fun _ _ _ _ => .tail _ (.head _)
theorem seqSra : ∀ a b c d, Statement (.seqSra a b c d) := fun _ _ _ _ => .tail _ (.head _)
theorem seqMul : ∀ a b c d, Statement (.seqMul a b c d) := fun _ _ _ _ => .tail _ (.head _)
theorem seqSlt : ∀ a b c d, Statement (.seqSlt a b c d) := fun _ _ _ _ => .tail _ (.head _)
theorem seqSltu : ∀ a b c d, Statement (.seqSltu a b c d) := fun _ _ _ _ => .tail _ (.head _)
theorem seqAddi : ∀ a b c d, Statement (.seqAddi a b c d) := fun _ _ _ _ => .tail _ (.head _)
theorem seqAndi : ∀ a b c d, Statement (.seqAndi a b c d) := fun _ _ _ _ => .tail _ (.head _)
theorem seqOri : ∀ a b c d, Statement (.seqOri a b c d) := fun _ _ _ _ => .tail _ (.head _)
theorem seqXori : ∀ a b c d, Statement (.seqXori a b c d) := fun _ _ _ _ => .tail _ (.head _)
theorem seqShli : ∀ a b c d, Statement (.seqShli a b c d) := fun _ _ _ _ => .tail _ (.head _)
theorem seqShri : ∀ a b c d, Statement (.seqShri a b c d) := fun _ _ _ _ => .tail _ (.head _)
theorem seqSrai : ∀ a b c d, Statement (.seqSrai a b c d) := fun _ _ _ _ => .tail _ (.head _)
theorem seqSlti : ∀ a b c d, Statement (.seqSlti a b c d) := fun _ _ _ _ => .tail _ (.head _)
theorem seqLui : ∀ a b c, Statement (.seqLui a b c) := fun _ _ _ => .tail _ (.head _)
theorem seqLd : ∀ a b c d, Statement (.seqLd a b c d) := fun _ _ _ _ => .tail _ (.head _)
theorem seqLw : ∀ a b c d, Statement (.seqLw a b c d) := fun _ _ _ _ => .tail _ (.head _)
theorem seqSd : ∀ a b c d, Statement (.seqSd a b c d) := fun _ _ _ _ => .tail _ (.head _)
theorem seqSw : ∀ a b c d, Statement (.seqSw a b c d) := fun _ _ _ _ => .tail _ (.head _)
theorem seqBeq : ∀ a b c d, Statement (.seqBeq a b c d) := fun _ _ _ _ => .tail _ (.head _)
theorem seqBne : ∀ a b c d, Statement (.seqBne a b c d) := fun _ _ _ _ => .tail _ (.head _)
theorem seqBlt : ∀ a b c d, Statement (.seqBlt a b c d) := fun _ _ _ _ => .tail _ (.head _)
theorem seqBge : ∀ a b c d, Statement (.seqBge a b c d) := fun _ _ _ _ => .tail _ (.head _)
theorem seqBltu : ∀ a b c d, Statement (.seqBltu a b c d) := fun _ _ _ _ => .tail _ (.head _)
theorem seqBgeu : ∀ a b c d, Statement (.seqBgeu a b c d) := fun _ _ _ _ => .tail _ (.head _)
theorem seqJal : ∀ a b c, Statement (.seqJal a b c) := fun _ _ _ => .tail _ (.head _)
theorem seqJalr : ∀ a b c d, Statement (.seqJalr a b c d) := fun _ _ _ _ => .tail _ (.head _)
theorem sbind : ∀ a b c d, Statement (.sbind a b c d) := fun _ _ _ _ => .tail _ (.head _)
theorem sgo : ∀ a b c, Statement (.sgo a b c) := fun _ _ _ => .tail _ (.head _)
theorem swait : ∀ a b c, Statement (.swait a b c) := fun _ _ _ => .tail _ (.head _)
theorem bpush : ∀ a b, Statement (.bpush a b) := fun _ _ => .tail _ (.head _)
theorem bframe : ∀ a b, Statement (.bframe a b) := fun _ _ => .tail _ (.head _)
theorem qpop : ∀ a b, Statement (.qpop a b) := fun _ _ => .tail _ (.head _)
theorem qpopNb : ∀ a b, Statement (.qpopNb a b) := fun _ _ => .tail _ (.head _)
theorem cwait : ∀ a b c, Statement (.cwait a b c) := fun _ _ _ => .tail _ (.head _)
theorem cosig : ∀ a b c, Statement (.cosig a b c) := fun _ _ _ => .tail _ (.head _)
theorem cosigAdd : ∀ a b c, Statement (.cosigAdd a b c) := fun _ _ _ => .tail _ (.head _)
theorem pbar : ∀ a b, Statement (.pbar a b) := fun _ _ => .tail _ (.head _)
theorem pbarFinal : ∀ a b, Statement (.pbarFinal a b) := fun _ _ => .tail _ (.head _)
theorem seqTrap : ∀ a b, Statement (.seqTrap a b) := fun _ _ => .tail _ (.head _)
theorem eret : ∀ a, Statement (.eret a) := fun _ => .tail _ (.head _)
theorem srd : ∀ a b c, Statement (.srd a b c) := fun _ _ _ => .tail _ (.head _)
theorem swr : ∀ a b c, Statement (.swr a b c) := fun _ _ _ => .tail _ (.head _)
theorem halt : ∀ a, Statement (.halt a) := fun _ => .tail _ (.head _)
theorem bringUpStepDone : ∀ a, Statement (.bringUpStepDone a) := fun _ => .head _
theorem correctedError : ∀ a b, Statement (.correctedError a b) := fun _ _ => .head _
theorem powerGood : Statement .powerGood := .head _
theorem functionLevelReset : Statement .functionLevelReset := .head _
theorem pmInterval : Statement .pmInterval := .head _
theorem schedulerSlot : Statement .schedulerSlot := .head _
theorem waitObjectPoll : Statement .waitObjectPoll := .head _
theorem invalRangeDrainDone : Statement .invalRangeDrainDone := .head _
theorem preemptDrainDone : Statement .preemptDrainDone := .head _
theorem chainBlockLoad : Statement .chainBlockLoad := .head _
theorem launchFailComplete : Statement .launchFailComplete := .head _
theorem arrivalBufferRelease : Statement .arrivalBufferRelease := .head _
theorem streamEmit : Statement .streamEmit := .head _
theorem matcherTake : Statement .matcherTake := .head _
theorem tier2SearchReturn : Statement .tier2SearchReturn := .head _
theorem tier3Reinject : Statement .tier3Reinject := .head _
theorem memAccessComplete : Statement .memAccessComplete := .head _
theorem commitInstance : Statement .commitInstance := .head _
theorem faultPrecise : Statement .faultPrecise := .head _
theorem ctxfaultTake : Statement .ctxfaultTake := .head _
theorem nodePacketArrival : Statement .nodePacketArrival := .head _
theorem handlerDispatch : Statement .handlerDispatch := .head _
theorem serpentPortStray : Statement .serpentPortStray := .head _
theorem gatherWrite : Statement .gatherWrite := .head _
theorem passArrival : Statement .passArrival := .head _
theorem endTokenArrival : Statement .endTokenArrival := .head _
theorem sendCopy : Statement .sendCopy := .head _
theorem commitNodeResult : Statement .commitNodeResult := .head _
theorem kvDrainDone : Statement .kvDrainDone := .head _
theorem barrierDone : Statement .barrierDone := .head _
theorem quiescenceDetect : Statement .quiescenceDetect := .head _
theorem phaseBoundary : Statement .phaseBoundary := .head _
theorem waitTTimeout : Statement .waitTTimeout := .head _
theorem hostCompletionTimeout : Statement .hostCompletionTimeout := .head _
theorem fabricOpen : Statement .fabricOpen := .head _
theorem openack : Statement .openack := .head _
theorem wr : Statement .wr := .head _
theorem rel : Statement .rel := .head _
theorem relnote : Statement .relnote := .head _
theorem resend : Statement .resend := .head _
theorem fabricFail : Statement .fabricFail := .head _
theorem epochOpenTimeout : Statement .epochOpenTimeout := .head _
theorem epochRelTimeout : Statement .epochRelTimeout := .head _
theorem epochWaitTimeout : Statement .epochWaitTimeout := .head _
theorem rldreq : Statement .rldreq := .head _
theorem rldrep : Statement .rldrep := .head _
theorem ratreq : Statement .ratreq := .head _
theorem ratrep : Statement .ratrep := .head _
theorem requestResendTimeout : Statement .requestResendTimeout := .head _
theorem wcon : Statement .wcon := .head _
theorem windowRoundTimeout : Statement .windowRoundTimeout := .head _
theorem packetAgeDiscard : Statement .packetAgeDiscard := .head _
theorem keyUpdate : Statement .keyUpdate := .head _
theorem spdmSessionEnd : Statement .spdmSessionEnd := .head _
theorem accRel : Statement .accRel := .tail _ (.head _)
theorem fabricPortTrained : Statement .fabricPortTrained := .head _
theorem cwaitObjectRead : Statement .cwaitObjectRead := .head _
theorem illegalSequencerInstruction : Statement .illegalSequencerInstruction := .head _
theorem reservedFrameWord : Statement .reservedFrameWord := .head _
theorem reservedPtypePacket : Statement .reservedPtypePacket := .head _

end Sys2Proof.Laws.Words
end

