-- ==== Sys2Proof/Tests/Slice0.lean ====
section
/-! SUPPORT. Tests: ill-formed instructions, words written out from the spec's encodings, single steps with results worked out by hand from
the rules, and for each statement of Obligations.lean states that meet its hypotheses. -/

namespace Sys2Proof.Tests

open Sys2Proof Machine Claims

set_option Elab.async false

/-! ## Helpers -/

/-- Whether an outcome is a next state that passes a check. -/
def okWith (o : Out) (p : State → Bool) : Bool := match o with | .next t => p t | _ => false

/-- Whether an outcome is exactly this next state. -/
def goes (o : Out) (t : State) : Bool := okWith o (· == t)


/-- Whether an outcome is this fault. -/
def stopsWith (o : Out) (f : Fault) : Bool := match o with | .fault g => decide (g = f) | _ => false

/-! ## Encodings

The words are laid out from the tables of R71 to R99 and R138. -/

/-- A row of an element test: F0, F4, F5 and F6; F1 names operand b of slot 3, and F7 task 9 (R79 to R86). -/
def decodesElem (f0 f4 f5 f6 : Nat) (i : ElemArgs → Instr) (ty : ElemType) (n cond : Nat) (op : TagOp) (x : F6) (ma : MA := .normal) (t : Bool := true) : Bool :=
  decide ((decodeElem { f := [f0, if t then 0b01_01_0000011_000_00_0000 else 0, 0, 0, f4, f5, f6, 0b001001_0000000_0000000], wide := none }).toOption =
    some (i { ty := ty, arity := BitVec.ofNat 2 n, ma := ma, cond := BitVec.ofNat 3 cond, t1 := if t then { dest := .slot 3 1, whenP := 0, slv := 0 } else Target.nil,
              t2 := Target.nil, t3 := Target.nil, sub := none, imm := BitVec.ofNat 16 f4, wide := none, tagOp := op, f6 := x, task := 9, pofs := 0 }))

theorem decode_integer : (decodesElem 0b000000000_0000_00_00_000 0x1234 0x0 0x0 .const .s32 0 0 (.keep) (.pred false 0) &&
    decodesElem 0b000000001_0000_01_00_000 0x0 0x0 0x0 .add .s32 1 0 (.keep) (.pred false 0) &&
    decodesElem 0b000000010_0000_01_00_000 0x0 0x0 0x0 .sub .s32 1 0 (.keep) (.pred false 0) &&
    decodesElem 0b000000011_0000_01_00_000 0x0 0x0 0x0 .addsat .s32 1 0 (.keep) (.pred false 0) &&
    decodesElem 0b000000100_0000_01_00_000 0x0 0x0 0x0 .subsat .s32 1 0 (.keep) (.pred false 0) &&
    decodesElem 0b000000101_0000_01_00_000 0x0 0x0 0x0 .mul .s32 1 0 (.keep) (.pred false 0) &&
    decodesElem 0b000000110_0000_01_00_000 0x0 0x0 0x0 .mulh .s32 1 0 (.keep) (.pred false 0) &&
    decodesElem 0b000000111_0000_10_00_000 0x0 0x0 0x0 .mad .s32 2 0 (.keep) (.pred false 0) &&
    decodesElem 0b000001000_0000_01_00_000 0x0 0x0 0x0 .div .s32 1 0 (.keep) (.pred false 0) &&
    decodesElem 0b000001001_0000_01_00_000 0x0 0x0 0x0 .rem .s32 1 0 (.keep) (.pred false 0) &&
    decodesElem 0b000001010_0000_01_00_000 0x0 0x0 0x0 .and .s32 1 0 (.keep) (.pred false 0) &&
    decodesElem 0b000001011_0000_01_00_000 0x0 0x0 0x0 .or .s32 1 0 (.keep) (.pred false 0) &&
    decodesElem 0b000001100_0000_01_00_000 0x0 0x0 0x0 .xor .s32 1 0 (.keep) (.pred false 0) &&
    decodesElem 0b000001101_0000_01_00_000 0x0 0x0 0x0 .andn .s32 1 0 (.keep) (.pred false 0) &&
    decodesElem 0b000001110_0000_01_00_000 0x0 0x0 0x0 .shl .s32 1 0 (.keep) (.pred false 0) &&
    decodesElem 0b000001111_0000_01_00_000 0x0 0x0 0x0 .shr .s32 1 0 (.keep) (.pred false 0) &&
    decodesElem 0b000010000_0000_01_00_000 0x0 0x0 0x0 .sra .s32 1 0 (.keep) (.pred false 0) &&
    decodesElem 0b000010001_0000_01_00_000 0x0 0x0 0x0 .rot .s32 1 0 (.keep) (.pred false 0) &&
    decodesElem 0b000010010_0000_01_00_000 0x0 0x0 0x0 .min .s32 1 0 (.keep) (.pred false 0) &&
    decodesElem 0b000010011_0000_01_00_000 0x0 0x0 0x0 .max .s32 1 0 (.keep) (.pred false 0) &&
    decodesElem 0b000010100_0000_00_00_000 0x0 0x0 0x0 .abs .s32 0 0 (.keep) (.pred false 0) &&
    decodesElem 0b000010101_0000_00_00_000 0x0 0x0 0x0 .clz .s32 0 0 (.keep) (.pred false 0) &&
    decodesElem 0b000010110_0000_00_00_000 0x0 0x0 0x0 .popc .s32 0 0 (.keep) (.pred false 0) &&
    decodesElem 0b000010111_0000_10_00_000 0x0 0x0 0x0 .bfx .s32 2 0 (.keep) (.pred false 0) &&
    decodesElem 0b000011000_0000_11_00_000 0x0 0x0 0x0 .bfi .s32 3 0 (.keep) (.pred false 0) &&
    decodesElem 0b000011001_0000_01_00_101 0x0 0x0 0x0 .cmp .s32 1 5 (.keep) (.pred false 0) &&
    decodesElem 0b000011010_0000_10_00_000 0x0 0x0 0x0 .lea .s32 2 0 (.keep) (.pred false 0) &&
    decodesElem 0b000011011_0000_00_00_001 0x0 0x0 0x0 .ext .s32 0 1 (.keep) (.pred false 0) &&
    decodesElem 0b000011100_0001_01_00_000 0x0 0x0 0x0 .perm .n32 1 0 (.keep) (.pred false 0) &&
    decodesElem 0b000011101_0000_00_00_000 0x0 0x0 0x0 .sacc .s32 0 0 (.keep) (.pred false 0) &&
    decodesElem 0b000011110_0000_00_00_000 0x0 0x0 0x0 .sswap .s32 0 0 (.keep) (.pred false 0) &&
    decodesElem 0b000011111_0001_00_00_000 0xffff 0x0 0x0 .scount .n32 0 0 (.keep) (.pred false 0)) = true := by decide +kernel
theorem decode_float : (decodesElem 0b010000000_0110_01_00_000 0x0 0x0 0x0 .fadd .f32 1 0 (.keep) (.pred false 0) &&
    decodesElem 0b010000001_0110_01_00_000 0x0 0x0 0x0 .fsub .f32 1 0 (.keep) (.pred false 0) &&
    decodesElem 0b010000010_0110_01_00_000 0x0 0x0 0x0 .fmul .f32 1 0 (.keep) (.pred false 0) &&
    decodesElem 0b010000011_0110_10_00_000 0x0 0x0 0x0 .fma .f32 2 0 (.keep) (.pred false 0) &&
    decodesElem 0b010000100_0110_01_00_000 0x0 0x0 0x0 .fmin .f32 1 0 (.keep) (.pred false 0) &&
    decodesElem 0b010000101_0110_01_00_000 0x0 0x0 0x0 .fmax .f32 1 0 (.keep) (.pred false 0) &&
    decodesElem 0b010000110_0110_01_00_010 0x0 0x0 0x0 .fsgn .f32 1 2 (.keep) (.pred false 0) &&
    decodesElem 0b010000111_0110_01_00_111 0x0 0x0 0x0 .fcmp .f32 1 7 (.keep) (.pred false 0) &&
    decodesElem 0b010001000_0110_00_00_000 0x0 0x0 0x0 .frcp .f32 0 0 (.keep) (.pred false 0) &&
    decodesElem 0b010001001_0110_00_00_000 0x0 0x0 0x0 .frsq .f32 0 0 (.keep) (.pred false 0) &&
    decodesElem 0b010001010_0110_00_00_000 0x0 0x0 0x0 .fex2 .f32 0 0 (.keep) (.pred false 0) &&
    decodesElem 0b010001011_0110_00_00_000 0x0 0x0 0x0 .flg2 .f32 0 0 (.keep) (.pred false 0) &&
    decodesElem 0b010001100_0110_00_00_011 0x2 0x0 0x0 .fcvt .f32 0 3 (.keep) (.pred false 0) &&
    decodesElem 0b010001101_0110_00_00_011 0x0 0x0 0x0 .frnd .f32 0 3 (.keep) (.pred false 0) &&
    decodesElem 0b010001110_0110_00_00_000 0x0 0x0 0x0 .fclass .f32 0 0 (.keep) (.pred false 0)) = true := by decide +kernel
theorem decode_flow : (decodesElem 0b100000000_0000_01_00_000 0x0 0x0 0xa .steer .s32 1 0 (.keep) (.pred true 2) &&
    decodesElem 0b100000001_0000_10_00_000 0x0 0x0 0x9 .select .s32 2 0 (.keep) (.pred true 1) &&
    decodesElem 0b100000010_0000_00_00_000 0x0 0x0 0x0 .merge .s32 0 0 (.keep) (.pred false 0) &&
    decodesElem 0b100000011_0000_00_00_000 0x0 0x0 0x0 .copy .s32 0 0 (.keep) (.pred false 0) &&
    decodesElem 0b100000100_0000_00_00_000 0x0 0x0 0x0 .sink .s32 0 0 (.keep) (.pred false 0) .normal false &&
    decodesElem 0b100000101_0000_01_00_000 0x0 0x0 0xa .gate .s32 1 0 (.keep) (.pred true 2) &&
    decodesElem 0b100000110_0000_01_00_000 0x0 0x0 0x0 .window .s32 1 0 (.keep) (.pred false 0) &&
    decodesElem 0b100000111_0000_00_00_000 0x0 0x10031 0x0 .enter .s32 0 0 (.enter 3 1) (.pred false 0) &&
    decodesElem 0b100001000_0000_00_00_000 0x0 0x30031 0x0 .leave .s32 0 0 (.leave 3 1) (.pred false 0) &&
    decodesElem 0b100001001_0000_00_00_000 0x0 0x20031 0x0 .next .s32 0 0 (.next 3 1) (.pred false 0) &&
    decodesElem 0b100001010_0000_00_00_000 0xd0 0x0 0x0 .tagget .s32 0 0 (.keep) (.pred false 0) &&
    decodesElem 0b100001011_0000_01_00_000 0x41 0x0 0x0 .tagset .s32 1 0 (.keep) (.pred false 0) &&
    decodesElem 0b100001100_0000_00_00_000 0x0 0x10031 0x0 .call .s32 0 0 (.enter 3 1) (.pred false 0) &&
    decodesElem 0b100001101_0000_00_00_000 0x0 0x30031 0x0 .ret .s32 0 0 (.leave 3 1) (.pred false 0) &&
    decodesElem 0b100001110_0000_00_10_000 0x0 0x0 0x0 .purge .s32 0 0 (.keep) (.pred false 0) .purge) = true := by decide +kernel
theorem decode_memory : (decodesElem 0b101000000_0000_00_00_010 0x0 0x0 0x3f081 .ld .s32 0 2 (.keep) (.wave 63 2 1) &&
    decodesElem 0b101000001_0000_01_00_010 0x0 0x0 0x3f081 .st .s32 1 2 (.keep) (.wave 63 2 1) &&
    decodesElem 0b101000010_0000_00_00_010 0x0 0x0 0x0 .ldx .s32 0 2 (.keep) (.pred false 0) &&
    decodesElem 0b101000011_0000_01_00_010 0x0 0x0 0x0 .stx .s32 1 2 (.keep) (.pred false 0) &&
    decodesElem 0b101000100_0000_00_00_000 0x0 0x0 0x3f081 .lds .s32 0 0 (.keep) (.wave 63 2 1) &&
    decodesElem 0b101000101_0000_01_00_000 0x0 0x0 0x0 .iput .s32 1 0 (.keep) (.pred false 0) &&
    decodesElem 0b101000110_0000_00_00_000 0x0 0x0 0x0 .iget .s32 0 0 (.keep) (.pred false 0) &&
    decodesElem 0b101000111_0000_10_00_111 0x0 0x0 0x3f081 .atom .s32 2 7 (.keep) (.wave 63 2 1) &&
    decodesElem 0b101001000_0000_01_00_101 0x0 0x0 0x3f081 .red .s32 1 5 (.keep) (.wave 63 2 1) &&
    decodesElem 0b101001001_0000_00_00_100 0x1 0x0 0x3f081 .fence .s32 0 4 (.keep) (.wave 63 2 1) &&
    decodesElem 0b101001010_0000_00_00_000 0x0 0x0 0x0 .talloc .s32 0 0 (.keep) (.pred false 0) &&
    decodesElem 0b101001011_0000_00_00_000 0x0 0x0 0x0 .tstate .s32 0 0 (.keep) (.pred false 0) &&
    decodesElem 0b101001100_0000_00_00_000 0x0 0x0 0x0 .tfree .s32 0 0 (.keep) (.pred false 0) &&
    decodesElem 0b101001101_0000_01_00_000 0x0 0x0 0x0 .send .s32 1 0 (.keep) (.pred false 0) &&
    decodesElem 0b101001110_0000_01_00_000 0x0 0x0 0x0 .ringInit .s32 1 0 (.keep) (.pred false 0) &&
    decodesElem 0b101001111_0000_00_00_000 0x0 0x0 0x0 .awaitf .s32 0 0 (.keep) (.pred false 0) &&
    decodesElem 0b101010000_0000_00_00_000 0x0 0x0 0x0 .relslot .s32 0 0 (.keep) (.pred false 0)) = true := by decide +kernel
theorem decode_fabric : (decodesElem 0b110000000_0000_01_00_100 0x0 0x0 0x0 .rst .s32 1 4 (.keep) (.pred false 0) &&
    decodesElem 0b110000001_0000_00_00_010 0x0 0x0 0x0 .rld .s32 0 2 (.keep) (.pred false 0) &&
    decodesElem 0b110000010_0000_10_00_111 0x0 0x0 0x0 .rat .s32 2 7 (.keep) (.pred false 0) &&
    decodesElem 0b110000011_0000_01_00_101 0x0 0x0 0x0 .rred .s32 1 5 (.keep) (.pred false 0) &&
    decodesElem 0b110000100_0000_00_00_000 0x0 0x0 0x0 .rcopen .s32 0 0 (.keep) (.pred false 0) &&
    decodesElem 0b110000101_0000_00_00_000 0x0 0x0 0x0 .rrel .s32 0 0 (.keep) (.pred false 0) &&
    decodesElem 0b110100000_0000_00_00_111 0x0 0x0 0x0 .barArrive .s32 0 7 (.keep) (.pred false 0) &&
    decodesElem 0b110100001_0000_00_00_111 0x0 0x0 0x0 .barWait .s32 0 7 (.keep) (.pred false 0) &&
    decodesElem 0b110100010_0000_00_00_000 0x0 0x0 0x0 .censUp .s32 0 0 (.keep) (.pred false 0) &&
    decodesElem 0b110100011_0000_00_00_000 0x0 0x0 0x0 .censDn .s32 0 0 (.keep) (.pred false 0) &&
    decodesElem 0b110100100_0000_00_00_000 0x0 0x0 0x0 .phaseWait .s32 0 0 (.keep) (.pred false 0) &&
    decodesElem 0b110100101_0000_01_00_000 0x0 0x0 0x0 .waitT .s32 1 0 (.keep) (.pred false 0)) = true := by decide +kernel
theorem decode_system : (decodesElem 0b111000000_0000_00_00_000 0x0 0x0 0x0 .seqOpen .s32 0 0 (.keep) (.pred false 0) &&
    decodesElem 0b111000001_0000_00_00_000 0x0 0x0 0x0 .seqClose .s32 0 0 (.keep) (.pred false 0) &&
    decodesElem 0b111000010_0000_00_00_000 0x0 0x0 0x0 .commit .s32 0 0 (.keep) (.pred false 0) &&
    decodesElem 0b111000011_0000_00_00_000 0x0 0x0 0x0 .kvAlloc .s32 0 0 (.keep) (.pred false 0) &&
    decodesElem 0b111000100_0000_01_00_000 0x0 0x0 0x0 .kvAttach .s32 1 0 (.keep) (.pred false 0) &&
    decodesElem 0b111000101_0000_00_00_000 0x0 0x0 0x0 .kvFree .s32 0 0 (.keep) (.pred false 0) &&
    decodesElem 0b111000110_0000_01_00_000 0x0 0x0 0x0 .pfxAttach .s32 1 0 (.keep) (.pred false 0) &&
    decodesElem 0b111000111_0000_00_00_000 0x0 0x0 0x0 .pfxEvict .s32 0 0 (.keep) (.pred false 0) &&
    decodesElem 0b111001000_0000_01_00_000 0x0 0x0 0x0 .gStep .s32 1 0 (.keep) (.pred false 0) &&
    decodesElem 0b111001001_0000_00_00_000 0x0 0x0 0x0 .gMask .s32 0 0 (.keep) (.pred false 0) &&
    decodesElem 0b111001010_0000_00_00_000 0x0 0x0 0x0 .gFork .s32 0 0 (.keep) (.pred false 0) &&
    decodesElem 0b111001011_0000_01_00_000 0x0 0x0 0x0 .gRoll .s32 1 0 (.keep) (.pred false 0) &&
    decodesElem 0b111001100_0000_00_00_000 0x0 0x0 0x0 .gSave .s32 0 0 (.keep) (.pred false 0) &&
    decodesElem 0b111001101_0000_00_00_000 0x0 0x0 0x0 .gLoad .s32 0 0 (.keep) (.pred false 0) &&
    decodesElem 0b111001110_0110_11_00_000 0x0 0x0 0x0 .smerge .f32 3 0 (.keep) (.pred false 0) &&
    decodesElem 0b111100000_0000_01_00_000 0x0 0x0 0x0 .sdec .s32 1 0 (.keep) (.pred false 0) &&
    decodesElem 0b111100001_0000_01_00_000 0x0 0x0 0x0 .senc .s32 1 0 (.keep) (.pred false 0) &&
    decodesElem 0b111100010_0000_00_00_000 0x0 0x0 0x0 .trap .s32 0 0 (.keep) (.pred false 0) &&
    decodesElem 0b111100011_0000_00_00_000 0x0 0x0 0x0 .fault .s32 0 0 (.keep) (.pred false 0) &&
    decodesElem 0b111100100_0000_00_00_000 0x0 0x0 0x0 .sregRd .s32 0 0 (.keep) (.pred false 0) &&
    decodesElem 0b111100101_0000_01_00_000 0x0 0x0 0x0 .sregWr .s32 1 0 (.keep) (.pred false 0)) = true := by decide +kernel
theorem decode_sequencer1 : ([(0b001_0000000_00001_00010_00011_0000000, .seqAdd 1 1 2 3),
    (0b001_0000001_00001_00010_00011_0000000, .seqSub 1 1 2 3),
    (0b001_0000010_00001_00010_00011_0000000, .seqAnd 1 1 2 3),
    (0b001_0000011_00001_00010_00011_0000000, .seqOr 1 1 2 3),
    (0b001_0000100_00001_00010_00011_0000000, .seqXor 1 1 2 3),
    (0b001_0000101_00001_00010_00011_0000000, .seqShl 1 1 2 3),
    (0b001_0000110_00001_00010_00011_0000000, .seqShr 1 1 2 3),
    (0b001_0000111_00001_00010_00011_0000000, .seqSra 1 1 2 3),
    (0b001_0001000_00001_00010_00011_0000000, .seqMul 1 1 2 3),
    (0b001_0001001_00001_00010_00011_0000000, .seqSlt 1 1 2 3),
    (0b001_0001010_00001_00010_00011_0000000, .seqSltu 1 1 2 3),
    (0b001_0010000_00001_00010_100000000001, .seqAddi 1 1 2 0x801),
    (0b001_0010001_00001_00010_100000000001, .seqAndi 1 1 2 0x801),
    (0b001_0010010_00001_00010_100000000001, .seqOri 1 1 2 0x801),
    (0b001_0010011_00001_00010_100000000001, .seqXori 1 1 2 0x801),
    (0b001_0010100_00001_00010_000000_100001, .seqShli 1 1 2 33),
    (0b001_0010101_00001_00010_000000_100001, .seqShri 1 1 2 33),
    (0b001_0010110_00001_00010_000000_100001, .seqSrai 1 1 2 33),
    (0b001_0010111_00001_00010_100000000001, .seqSlti 1 1 2 0x801),
    (0b001_0011000_00001_10000000000000001, .seqLui 1 1 0x10001),
    (0b001_0100000_00001_00010_100000000001, .seqLd 1 1 2 0x801),
    (0b001_0100001_00001_00010_100000000001, .seqLw 1 1 2 0x801),
    (0b001_0100010_00001_00010_100000000001, .seqSd 1 1 2 0x801),
    (0b001_0100011_00001_00010_100000000001, .seqSw 1 1 2 0x801),
    (0b001_0101000_00001_00010_100000000001, .seqBeq 1 1 2 0x801),
    (0b001_0101001_00001_00010_100000000001, .seqBne 1 1 2 0x801)] : List (Word × Instr)).all (fun x => decide ((decodeSeq x.1).toOption = some x.2)) = true := by decide +kernel
theorem decode_sequencer2 : ([(0b001_0101010_00001_00010_100000000001, .seqBlt 1 1 2 0x801),
    (0b001_0101011_00001_00010_100000000001, .seqBge 1 1 2 0x801),
    (0b001_0101100_00001_00010_100000000001, .seqBltu 1 1 2 0x801),
    (0b001_0101101_00001_00010_100000000001, .seqBgeu 1 1 2 0x801),
    (0b001_0101111_00001_00010_100000000001, .seqJalr 1 1 2 0x801),
    (0b001_0101110_00001_10000000000000001, .seqJal 1 1 0x10001),
    (0b001_1000000_00110_00000_0010_00_010001, .sbind 1 6 2 17),
    (0b001_1000001_00110_00000_0010_00_000000, .sgo 1 6 2),
    (0b001_1000010_00110_00000_0010_00_000000, .swait 1 6 2),
    (0b001_1000011_00110_00000000000000000, .bpush 1 6),
    (0b001_1000100_00000_00000000000000_101, .bframe 1 5),
    (0b001_1000101_00110_00000000000000000, .qpop 1 6),
    (0b001_1000101_00110_00000000000000001, .qpopNb 1 6),
    (0b001_1000110_00110_00111_000000000000, .cwait 1 6 7),
    (0b001_1000111_00110_00111_000000000000, .cosig 1 6 7),
    (0b001_1000111_00110_00111_000000000001, .cosigAdd 1 6 7),
    (0b001_1001000_00110_00000000000000000, .pbar 1 6),
    (0b001_1001000_00110_00000000000000001, .pbarFinal 1 6),
    (0b001_1001001_00000000000000_10000001, .seqTrap 1 0x81),
    (0b001_1001010_0000000000000000000000, .eret 1),
    (0b001_1001011_00110_000000000_10000001, .srd 1 6 0x81),
    (0b001_1001100_00110_000000000_10000001, .swr 1 6 0x81),
    (0b001_1001101_0000000000000000000000, .halt 1)] : List (Word × Instr)).all (fun x => decide ((decodeSeq x.1).toOption = some x.2)) = true := by decide +kernel
theorem decode_configuration : ([(0b00_0000101_010_00000000100100000000, .field 5 2 0x900),
    (0b10_0000000000_00001010101111001101, .wide 0xABCD),
    (0b01_0000_011_000011_000010_00000000000, .frameOpen 3 3 2),
    (0b01_0001_011_00000000000000000000000, .frameClose 3),
    (0b01_0010_1_0000000000000000000000000, .framePlace true),
    (0b01_0011_00001_0001001_10_000000000000, .frameBin 1 9 2),
    (0b01_0100_00001_00_111_11111_00000000000, .boutFrameInput 1 7 31),
    (0b01_0100_00001_01_000_11111_00000000000, .boutThisInput 1 31),
    (0b01_0100_00001_10_0100011_11_0000000000, .boutNodePort 1 35 3),
    (0b01_0101_01_110_0010_0011_00_01_000000000, .cnext 1 6 (.next 3 1)),
    (0b01_0110_000000000_1_1000000000000001, .cset true 0x8001),
    (0b01_0111_100000_000101_10000000000001, .hbind 32 5 0x2001),
    (0b01_1000_100000_000101_00000000000000, .hfree 32 5)] : List (Word × Instr)).all (fun x => decide ((decodeConfig x.1).toOption = some x.2)) = true := by decide +kernel
theorem decode_vector : ([(0b000000_010_10010_00001_01111_10011_000, .vadd ⟨.f16x2, 18, 1, 15, 19, 0⟩),
    (0b000001_010_10010_00001_01111_10011_000, .vsub ⟨.f16x2, 18, 1, 15, 19, 0⟩),
    (0b000010_010_10010_00001_01111_10011_000, .vmul ⟨.f16x2, 18, 1, 15, 19, 0⟩),
    (0b000011_010_10010_00001_01111_10011_000, .vfma ⟨.f16x2, 18, 1, 15, 19, 0⟩),
    (0b000100_010_10010_00001_01111_10011_000, .vmax ⟨.f16x2, 18, 1, 15, 19, 0⟩),
    (0b000101_010_10010_00001_01111_10011_000, .vmin ⟨.f16x2, 18, 1, 15, 19, 0⟩),
    (0b000110_010_10010_00001_01111_10011_000, .vexp ⟨.f16x2, 18, 1, 15, 19, 0⟩),
    (0b000111_010_10010_00001_01111_10011_000, .vrcp ⟨.f16x2, 18, 1, 15, 19, 0⟩),
    (0b001000_010_10010_00001_01111_10011_000, .vrsq ⟨.f16x2, 18, 1, 15, 19, 0⟩),
    (0b001001_010_10010_00001_01111_10011_000, .vtanh ⟨.f16x2, 18, 1, 15, 19, 0⟩),
    (0b001010_010_10010_00001_01111_10011_000, .vsum ⟨.f16x2, 18, 1, 15, 19, 0⟩),
    (0b001011_010_10010_00001_01111_10011_000, .vmaxr ⟨.f16x2, 18, 1, 15, 19, 0⟩),
    (0b001100_010_10010_00001_01111_10011_000, .vscl ⟨.f16x2, 18, 1, 15, 19, 0⟩),
    (0b001101_010_10010_00001_01111_10011_111, .vcmp ⟨.f16x2, 18, 1, 15, 19, 7⟩),
    (0b001110_010_10010_00001_01111_10011_000, .vsel ⟨.f16x2, 18, 1, 15, 19, 0⟩),
    (0b001111_010_10010_00001_01111_10011_000, .vperm ⟨.f16x2, 18, 1, 15, 19, 0⟩),
    (0b010000_010_10010_00001_01111_10011_000, .vbcast ⟨.f16x2, 18, 1, 15, 19, 0⟩),
    (0b010001_010_10010_00001_01111_10011_101, .vcvt ⟨.f16x2, 18, 1, 15, 19, 5⟩),
    (0b010100_000_10010_00001_01111_10011_000, .vnoise ⟨.f32, 18, 1, 15, 19, 0⟩),
    (0b010101_000_10010_00001_01111_10011_000, .vmask ⟨.f32, 18, 1, 15, 19, 0⟩),
    (0b010110_000_10010_00001_01111_10011_000, .vargmax ⟨.f32, 18, 1, 15, 19, 0⟩),
    (0b010010_1111_10000001_10000000000001, .vtileRd 15 0x81 0x2001),
    (0b010011_1111_10000001_10000000000001, .vtileWr 15 0x81 0x2001)] : List (Word × Instr)).all (fun x => decide ((decodeNode .vector x.1).toOption = some x.2)) = true := by decide +kernel
theorem decode_matrix : ([(0b000000_0001_10_1_100000000001_0000000, .mwLoad .q8 2 true 0x801),
    (0b000001_000000_1_0000000000000000000, .mwSwap true),
    (0b000010_0100_10_1000000000001_0000000, .mmRun .e5m2 2 0x1001),
    (0b000011_0000000_10000001_00000000000, .mmZp 0x81),
    (0b000100_000000_1_0000000000000000000, .mmRec true),
    (0b000101_0000_10_0000_1000000000000001, .mmEnd 2 0x8001)] : List (Word × Instr)).all (fun x => decide ((decodeNode .matrix x.1).toOption = some x.2)) = true := by decide +kernel
theorem decode_acc_conv : ([(.acc, 0b000110_000000_10000001_000000000000, .accCfg 0x81),
    (.acc, 0b000111_00000000000000000000000000, .accRel),
    (.conv, 0b000000_1000_0001_1_10_10000001_0000000, .cvq ⟨.fp32, .q8, true, 2, 0x81⟩),
    (.conv, 0b000001_0000_0110_1_10_10000001_0000000, .cvdq ⟨.q4, .bf16, true, 2, 0x81⟩),
    (.conv, 0b000010_0110_0011_1_00000000000000000, .cvf .bf16 .e4m3 true)] : List (NodeKind × Word × Instr)).all (fun x => decide ((decodeNode x.1 x.2.1).toOption = some x.2.2)) = true := by decide +kernel
/-- A header with a wait object, a signal object and an interrupt (R98). -/
def hdr : CmdHeader := { cid := 0x1234, wait := some (0x40, 0x55), sig := some (0x80, 0x66), irq := true }
theorem decode_commands1 : ([([0x01101234, 0xE0000000, 0x40, 0, 0x55, 0, 0x80, 0, 0x66, 0, 0x3040, 1, 0x100, 2, 0x80030005, 0xE0204020], .launch hdr ⟨0x100003040, 0x200000100, 0x8003, 5, true, true, true, 0x204020⟩),
    ([0x02101234, 0xE0000000, 0x40, 0, 0x55, 0, 0x80, 0, 0x66, 0, 0x3040, 1, 0, 0, 0, 0], .chain hdr 0x100003040),
    ([0x03101234, 0xE0000000, 0x40, 0, 0x55, 0, 0x80, 0, 0x66, 0, 0x3040, 1, 0x108, 0, 0, 0], .capRead hdr 0x100003040 0x108),
    ([0x04101234, 0xE0000000, 0x40, 0, 0x55, 0, 0x80, 0, 0x66, 0, 0x3040, 1, 0, 0, 0, 0], .healthRead hdr 0x100003040),
    ([0x05101234, 0xE0000000, 0x40, 0, 0x55, 0, 0x80, 0, 0x66, 0, 3, 0, 0, 0, 0, 0], .modeSet hdr 3),
    ([0x06101234, 0xE0000000, 0x40, 0, 0x55, 0, 0x80, 0, 0x66, 0, 0x188105, 0x40003, 0x3040, 1, 0, 0], .partitionCfg hdr ⟨5, 0x81, 8, true, 3, 4, 0x100003040⟩),
    ([0x06101234, 0xE0000000, 0x40, 0, 0x55, 0, 0x80, 0, 0x66, 0, 0x5, 0, 0, 0, 0, 0], .partitionTeardown hdr ⟨5, 0, 0, false, 0, 0, 0⟩),
    ([0x07101234, 0xE0000000, 0x40, 0, 0x55, 0, 0x80, 0, 0x66, 0, 0x8010002, 0x50003, 1, 2, 0x80000000, 0], .rankSet hdr ⟨0x801, 2, 3, 5, 0x800000000000000200000001⟩),
    ([0x08101234, 0xE0000000, 0x40, 0, 0x55, 0, 0x80, 0, 0x66, 0, 0x30000, 1, 0x20000, 2, 0x3000F, 0], .invalRange hdr ⟨0x100030000, 0x200020000, 3, 15⟩),
    ([0x09101234, 0xE0000000, 0x40, 0, 0x55, 0, 0x80, 0, 0x66, 0, 0x10001, 0x77, 0, 0, 0, 0], .ringRestart hdr 0x10001 0x77),
    ([0x09101234, 0xE0000000, 0x40, 0, 0x55, 0, 0x80, 0, 0x66, 0, 0x80000000, 0x77, 0, 0, 0, 0], .ringRestartFaultRing hdr 0x77),
    ([0x0A101234, 0xE0000000, 0x40, 0, 0x55, 0, 0x80, 0, 0x66, 0, 0x10001, 0, 0x3040, 1, 0, 0], .preempt hdr 0x10001 0x100003040),
    ([0x0B101234, 0xE0000000, 0x40, 0, 0x55, 0, 0x80, 0, 0x66, 0, 0x10001, 0, 0x3040, 1, 0, 0], .resume hdr 0x10001 0x100003040)] : List (List Word × Instr)).all (fun x => decide ((decodeCommand x.1).toOption = some x.2)) = true := by decide +kernel
theorem decode_commands2 : ([([0x10101234, 0xE0000000, 0x40, 0, 0x55, 0, 0x80, 0, 0x66, 0, 0x5, 0, 0x3040, 1, 0, 0], .sealLoadCreate hdr ⟨5, 0, 0x100003040, 0⟩),
    ([0x10101234, 0xE0000000, 0x40, 0, 0x55, 0, 0x80, 0, 0x66, 0, 0x10000005, 2, 0x3040, 1, 0x10000, 2], .sealLoadImport hdr ⟨5, 2, 0x100003040, 0x200010000⟩),
    ([0x10101234, 0xE0000000, 0x40, 0, 0x55, 0, 0x80, 0, 0x66, 0, 0x20000005, 0, 0, 0, 0, 0], .sealLoadDestroy hdr ⟨5, 0, 0, 0⟩),
    ([0x11101234, 0xE0000000, 0x40, 0, 0x55, 0, 0x80, 0, 0x66, 0, 0x5, 0, 0x3040, 1, 0x80, 2], .sessionOpen hdr ⟨5, 0, 0x100003040, 0x200000080⟩),
    ([0x11101234, 0xE0000000, 0x40, 0, 0x55, 0, 0x80, 0, 0x66, 0, 0x10000005, 7, 0, 0, 0, 0], .sessionClose hdr ⟨5, 7, 0, 0⟩),
    ([0x12101234, 0xE0000000, 0x40, 0, 0x55, 0, 0x80, 0, 0x66, 0, 0x50081, 7, 0x30000, 1, 2, 0x80000009], .replyBind hdr ⟨5, 0x81, 7, 0x100030000, 2, true, 9⟩),
    ([0x12101234, 0xE0000000, 0x40, 0, 0x55, 0, 0x80, 0, 0x66, 0, 0x80000081, 0, 0, 0, 0, 0], .replyUnbind hdr 0x81),
    ([0x13101234, 0xE0000000, 0x40, 0, 0x55, 0, 0x80, 0, 0x66, 0, 0x405, 0, 0x3040, 1, 0, 0], .usageSignReport hdr ⟨true, 5, 0, 0x100003040⟩),
    ([0x13101234, 0xE0000000, 0x40, 0, 0x55, 0, 0x80, 0, 0x66, 0, 0x10000005, 7, 0x3040, 1, 0, 0], .usageSignUsage hdr ⟨false, 5, 7, 0x100003040⟩),
    ([0x14101234, 0xE0000000, 0x40, 0, 0x55, 0, 0x80, 0, 0x66, 0, 0x5, 2, 0x3040, 1, 0x10000, 2], .kernelAdmitLibrary hdr ⟨0, 5, 2, 0x100003040, 0x200010000⟩),
    ([0x14101234, 0xE0000000, 0x40, 0, 0x55, 0, 0x80, 0, 0x66, 0, 0x10000005, 2, 0x3040, 1, 0x10000, 2], .kernelAdmitRaw hdr ⟨0, 5, 2, 0x100003040, 0x200010000⟩),
    ([0x14101234, 0xE0000000, 0x40, 0, 0x55, 0, 0x80, 0, 0x66, 0, 0x28010005, 0, 0, 0, 0, 0], .kernelAdmitRevoke hdr ⟨0x801, 5, 0, 0, 0⟩)] : List (List Word × Instr)).all (fun x => decide ((decodeCommand x.1).toOption = some x.2)) = true := by decide +kernel
/-- R295: a header flit of a write of 64 bytes. -/
theorem decode_packet : (let p := decodePacket [0x01180040, 0xFFF07FFF, 0x00005003, 0x00020005, 0x00090011, 0x6213F010, 0x80020007, 0x89ABCDEF, 0x01234567, 0x00050100, 1, 2, 3, 4, 5, 6] []
    p.ptype == 1 && p.ver == 1 && p.d && !p.f && p.len == 0x40 && p.job == 0xFFF && p.spart == 7 && p.srank == 0xFFF && p.dpart == 5 && p.drank == 3 && p.gen == 2 &&
    p.cid == 0 && p.reqid == 9 && p.seq == 0x11 && p.ty == 6 && p.op == 2 && p.wexp == 0x13 && p.ncon == 0xF01 && p.sdv && p.tmo == 2 && p.sdom == 7 &&
    p.va == 0x123456789ABCDEF && p.cnt == 0x100 && p.flg == 5 && p.val == 0x00000004000000030000000200000001 && p.tag == 0x0000000600000005) = true := by decide +kernel

/-- The words of a table row go through the decoder, and the step after `withFetchWord` runs the row's instruction first (R110, R68, R191). -/
theorem table_words : decodeTableWord 32 0b000_0000000_00001_00010_00011_0000000 = some (.seqAdd 0 1 2 3) ∧ decodeTableWord 32 0x41861000 = some (.frameOpen 3 3 2) ∧
    decodeTableWord 32 0xFFFFFFFF = none ∧ decodeTableWord 0 0 = none := by decide +kernel
theorem fetch_sequencer : okWith (step (State.reset.withFetchWord 32 0b000_0010000_00001_00000_000000000111)) (fun t => (t.seq 0).reg 1 == 7 && (t.seq 0).pc == 4) = true := by decide +kernel
theorem fetch_configuration : okWith (step (State.reset.withFetchWord 32 0x41861000)) (fun t => (t.core 0).openFrame == some 3) = true := by decide +kernel

/-! ## Ill-formed instructions: one term for each check -/

/-- Well-formed arguments of an element instruction, to be spoilt. -/
def plainArgs : ElemArgs :=
  { ty := .s32, arity := 1, ma := .normal, cond := 0, t1 := { dest := .slot 3 1, whenP := 0, slv := 0 }, t2 := Target.nil, t3 := Target.nil, sub := none, imm := 0, wide := none,
    tagOp := .keep, f6 := .pred false 0, task := 0, pofs := 0 }
def vargs : VArgs := { vt := .f32, d := 3, a := 1, b := 2, c := 20, mod := 0 }
def waveArgs : ElemArgs := { plainArgs with arity := 0, f6 := .wave 1 2 3 }
def misaligned : CmdHeader := { wait := some (4, 0) }
theorem well_formed : ([.add plainArgs, .ld waveArgs, .vadd vargs, .mmEnd 0 1, .capRead {} 0 4, .cnext 1 0 (.next 0 0)] : List Instr).all Instr.wf = true := by decide +kernel
theorem ill_formed_elements : ([.add { plainArgs with ty := .f32 }, .add { plainArgs with arity := 0 }, .add { plainArgs with cond := 1 },
    .add { plainArgs with t1 := { dest := .slot 3 1, whenP := 1, slv := 0 } }, .add { plainArgs with t1 := { dest := .slot 3 1, whenP := 0, slv := 1 } },
    .add { plainArgs with t1 := { dest := .slot 3 1, whenP := 3, slv := 0 }, f6 := .pred false 1 }, .add { plainArgs with t1 := { dest := .node 36 0, whenP := 0, slv := 0 } },
    .add { plainArgs with ma := .sticky, t1 := { dest := .slot 3 1, whenP := 0, slv := 13 } }, .add { plainArgs with t2 := { dest := .none, whenP := 0, slv := 1 } },
    .add { plainArgs with sub := some 2 }, .clz { plainArgs with arity := 0, sub := some 0 }, .add { plainArgs with imm := 1 }, .scount { plainArgs with ty := .n32, arity := 0 },
    .add { plainArgs with ty := .n8x4, sub := some 1, imm := 256 }, .add { plainArgs with tagOp := .enter 11 2 }, .enter { plainArgs with arity := 0 },
    .add { plainArgs with f6 := .pred false 5 }, .add { plainArgs with f6 := .pred false 3 }, .add { plainArgs with f6 := .wave 1 2 3 }, .ld plainArgs,
    .ld { waveArgs with f6 := .wave 1 63 3 }, .steer plainArgs, .select { plainArgs with arity := 2, f6 := .pred false 0 }, .sink { plainArgs with arity := 0 },
    .purge { plainArgs with arity := 0 }, .fcvt { plainArgs with ty := .f32, arity := 0, cond := 0 }, .atom { waveArgs with arity := 2, cond := 0 },
    .talloc { plainArgs with arity := 0, ty := .n32 }] : List Instr).all (fun i => !i.wf) = true := by decide +kernel
theorem ill_formed_commands : ([.launch misaligned ⟨0, 0, 1, 0, false, false, false, 0⟩, .chain { sig := some (4, 0) } 0, .launch {} ⟨0, 0, 0, 0, false, false, false, 0⟩, .capRead {} 0 5,
    .partitionCfg {} ⟨0, 1, 9, false, 0, 0, 0⟩, .partitionCfg {} ⟨0, 0, 0, false, 0, 0, 0⟩, .partitionTeardown {} ⟨0, 1, 0, false, 0, 0, 0⟩, .sealLoadCreate {} ⟨0, 1, 0, 0⟩,
    .sealLoadCreate {} ⟨0, 0, 0, 64⟩, .sealLoadImport {} ⟨0, 0, 0, 0⟩, .sessionOpen {} ⟨0, 1, 0, 0⟩,
    .kernelAdmitLibrary {} ⟨1, 0, 0, 0, 0⟩] : List Instr).all (fun i => !i.wf) = true := by decide +kernel
/-- R76, R400, R403, R407, R412 give no value to a field that an operation does not use: it is kept, whatever it holds. -/
theorem test_unused_fields : ([.sealLoadDestroy {} ⟨0, 0, 64, 0⟩, .sessionClose {} ⟨0, 1, 64, 0⟩, .sessionClose {} ⟨0, 1, 0, 64⟩, .usageSignReport {} ⟨false, 0, 1, 0⟩,
    .usageSignUsage {} ⟨true, 0, 0, 0⟩, .kernelAdmitRevoke {} ⟨1, 0, 1, 0, 0⟩, .kernelAdmitRevoke {} ⟨1, 0, 0, 64, 64⟩, .cnext 1 0 (.next 11 2)] : List Instr).all (fun i => i.wf &&
      (decodeCommand (encode i) == .ok i || (encode i).map decodeConfig == [.ok i])) = true := by decide +kernel
theorem ill_formed_node_commands : ([.vadd { vargs with d := 20 }, .vadd { vargs with a := 21 }, .vadd { vargs with b := 21 }, .vfma { vargs with c := 21 }, .vadd { vargs with mod := 1 },
    .vexp { vargs with vt := .s32 }, .vcmp { vargs with vt := .s32, mod := 6 }, .vcvt { vargs with mod := 0 }, .vcvt { vargs with mod := 3 }, .vmask { vargs with vt := .s32 },
    .mwLoad .s8 0 false 0, .mwLoad .bf16 1 false 0, .mwLoad .q8 3 false 0, .mmRun .q8 0 0, .mmEnd 0 0, .cvq ⟨.s8, .q8, false, 0, 0⟩, .cvdq ⟨.q8, .fp32, true, 0, 0⟩, .cvf .fp32 .bf16 false,
    .cvf .bf16 .s8 true, .cnext 3 0 (.next 0 0)] : List Instr).all (fun i => !i.wf) = true := by decide +kernel
/-- Two words of R91, R93 spoilt bit by bit are refused by name (R95). -/
theorem rejects_by_name : decodeMatrix 0b000101_0000_10_0001_1000000000000001 = .error .reserved ∧ decodeMatrix 0b001000_00000000000000000000000000 = .error .opcode ∧
    decodeVector 0b010111_00000000000000000000000000 = .error .opcode ∧ decodeVector 0b000000_100_00000000000000000000000 = .error .typeCode ∧
    decodeSeq 0b001_0001011_0000000000000000000000 = .error .opcode ∧ decodeCommand [0x02101234, 1, 0, 0, 0, 0, 0, 0, 0, 0, 0, 0, 0, 0, 0, 0] = .error .reserved ∧
    decodeConfig 0xC0000000 = .error .kind := by decide +kernel

theorem witness_round_trip : (Instr.add plainArgs).wf = true ∧ ({ ptype := 1, ver := 1, len := 2, data := [1, 2] } : Packet).wf = true := by decide +kernel
/-! ## Elements -/

/-- Core 2 serves launch 0; its element 5, in frame 0 at instruction slot 3, has one fired set. Slots 1 and 2 of the block are elements 7
and 8. -/
def elemState (toks : List (Option Token)) (tag : Tag) (s : Word := 0) (sd : Bool := false) : State :=
  { agent := .elem 2 5, launches := [(0, {})],
    cores := [(2, { launch := some 0, frames := [(0, { map := [(1, 7), (2, 8)] })],
                    elems := [(5, { frame := 0, slot := 3, s := s, sd := sd, fired := [{ toks := toks, tag := tag, due := 0, inst := 0xA }] })] })] }

/-- The tag of the tests: context 0, depth 1, iteration 5. -/
def tag1 : Tag := 0x0001000000000005

/-- Tokens of these payloads in slots 0 onward. -/
def toksOf (vs : List Word) : List (Option Token) :=
  vs.zipIdx.map fun v => some { elem := 5, slot := v.2, tag := tag1, val := v.1 }

/-- The fired set that `elemState` issues. -/
def shotOf (toks : List (Option Token)) (tag : Tag) : Fired := { toks := toks, tag := tag, due := 0, inst := 0xA }

/-- A target at an operand slot of the block. -/
def slotT (n os : Nat) (w : Nat := 0) (v : Nat := 0) : Target :=
  { dest := .slot (BitVec.ofNat 7 n) (BitVec.ofNat 2 os), whenP := BitVec.ofNat 2 w, slv := BitVec.ofNat 4 v }

/-- Fields of the tests: a type, the arity for `n` operands, a result for operand 1 of slot 1. -/
def argsOf (ty : ElemType) (n : Nat) (cond : Nat := 0) (imm : Nat := 0) : ElemArgs :=
  { ty := ty, arity := BitVec.ofNat 2 (n - 1), cond := BitVec.ofNat 3 cond, imm := BitVec.ofNat 16 imm, t1 := slotT 1 1 }

/-- Payloads that core 2 has sent. -/
def sentVals (s : State) : List Word := (s.core 2).transit.filterMap fun t => match t.msg with | .narrow x _ => some x.val | _ => none

/-- The payloads that an instruction sends on operands `vs`. -/
def results (i : ElemArgs → Instr) (a : ElemArgs) (vs : List Word) : Option (List Word) :=
  match exec (i a) (elemState (toksOf vs) tag1) with | .next t => some (sentVals t) | _ => none

/-- The tokens that it sends. -/
def sentToks (i : ElemArgs → Instr) (a : ElemArgs) (toks : List (Option Token)) (tag : Tag := tag1) : List Token :=
  match exec (i a) (elemState toks tag) with
  | .next t => (t.core 2).transit.filterMap fun t => match t.msg with | .narrow x _ => some x | _ => none
  | _ => []

/-! R161 to R168, worked out by hand. -/

theorem test_add_wraps : results .add (argsOf .n8x4 2) [0xFF01807F, 0x01017F01] = some [0x0002FF80] := by decide +kernel
theorem test_sub_wraps : results .sub (argsOf .s16x2 2) [0x00008000, 0x00010001] = some [0xFFFF7FFF] := by decide +kernel
theorem test_addsat_clamps : results .addsat (argsOf .s16x2 2) [0x7FFF8000, 0x0001FFFF] = some [0x7FFF8000] := by decide +kernel
theorem test_subsat_clamps : results .subsat (argsOf .n8x4 2) [0x00FF1080, 0x01010F81] = some [0x00FE0100] := by decide +kernel
theorem test_mul_low : results .mul (argsOf .s32 2) [0x00010000, 0x00010001] = some [0x00010000] := by decide +kernel
theorem test_mulh_signed : results .mulh (argsOf .s32 2) [0xFFFFFFFF, 0x00000002] = some [0xFFFFFFFF] := by decide +kernel
theorem test_mulh_unsigned : results .mulh (argsOf .n32 2) [0xFFFFFFFF, 0x00000002] = some [0x00000001] := by decide +kernel
theorem test_mad_sums : results .mad (argsOf .n16x2 3) [0x00020003, 0x00040005, 0x0001FFFF] = some [0x0009000E] := by decide +kernel
theorem test_div_toward_zero : results .div (argsOf .s32 2) [0xFFFFFFF9, 2] = some [0xFFFFFFFD] := by decide +kernel
theorem test_rem_takes_sign : results .rem (argsOf .s32 2) [0xFFFFFFF9, 2] = some [0xFFFFFFFF] := by decide +kernel
theorem test_div_by_zero : results .div (argsOf .n32 2) [1, 0] = some [0x1008A010] := by decide +kernel
theorem test_and_or : results .and (argsOf .s32 2) [0xF0F0F0F0, 0xFF00FF00] = some [0xF000F000] ∧
    results .or (argsOf .s32 2) [0xF0F0F0F0, 0x0F000000] = some [0xFFF0F0F0] := by decide +kernel
theorem test_xor_andn : results .xor (argsOf .s32 2) [0xF0F0F0F0, 0xFF00FF00] = some [0x0FF00FF0] ∧
    results .andn (argsOf .s32 2) [0xF0F0F0F0, 0xFF00FF00] = some [0x00F000F0] := by decide +kernel
theorem test_shl_amount_modulo : results .shl (argsOf .n16x2 2) [0x00010001, 0x0011000F] = some [0x00028000] := by decide +kernel
theorem test_shr_logical : results .shr (argsOf .s8x4 2) [0x80808080, 0x01020307] = some [0x40201001] := by decide +kernel
theorem test_sra_arithmetic : results .sra (argsOf .n8x4 2) [0x80808080, 0x01020307] = some [0xC0E0F0FF] := by decide +kernel
theorem test_rot_left : results .rot (argsOf .n32 2) [0x80000001, 33] = some [0x00000003] := by decide +kernel
theorem test_min_max_signed : results .min (argsOf .s8x4 2) [0x80017F00, 0x00FF8001] = some [0x80FF8000] ∧
    results .max (argsOf .n8x4 2) [0x80017F00, 0x00FF8001] = some [0x80FF8001] := by decide +kernel
theorem test_abs_most_negative : results .abs (argsOf .s16x2 1) [0x8000FFFF] = some [0x80000001] := by decide +kernel
theorem test_clz_popc : results .clz (argsOf .n32 1) [0] = some [32] ∧ results .clz (argsOf .n32 1) [0x00010000] = some [15] ∧
    results .popc (argsOf .n32 1) [0xFFFFFFFF] = some [32] := by decide +kernel
theorem test_bfx_extends : results .bfx (argsOf .s32 3) [0x00000F00, 8, 4] = some [0xFFFFFFFF] ∧
    results .bfx (argsOf .n32 3) [0xF0000000, 28, 40] = some [0x0000000F] := by decide +kernel
theorem test_bfi_inserts : results .bfi (argsOf .n32 4) [0xFFFFFFFF, 0x5, 4, 4] = some [0xFFFFFF5F] := by decide +kernel
theorem test_cmp_signed : results .cmp (argsOf .s16x2 2 2) [0xFFFF0001, 0x00000001] = some [0xFFFF0000] ∧
    results .cmp (argsOf .n16x2 2 2) [0xFFFF0000, 0x00000001] = some [0x0000FFFF] := by decide +kernel
theorem test_lea_scales : results .lea (argsOf .n32 3) [0x100, 3, 2] = some [0x10C] := by decide +kernel
theorem test_ext_byte : results .ext (argsOf .s32 1 0) [0x1280] = some [0xFFFFFF80] ∧ results .ext (argsOf .n32 1 1) [0x18000] = some [0x8000] := by
  decide +kernel
theorem test_const_imm : results .const (argsOf .s32 1 0 0x8000) [7] = some [0xFFFF8000] ∧
    results .const (argsOf .f32 1 0 0x3F80) [7] = some [0x3F800000] := by decide +kernel
theorem test_perm_selects : results .perm (argsOf .n32 2) [0x80112233, 0x0000F8B3] = some [0xFF00FF80] := by decide +kernel

/-! R169 to R176: the examples of the spec, and values worked out by hand. -/

theorem test_fadd_lanes : results .fadd (argsOf .f32 2) [0x3F800000, 0x40000000] = some [0x40400000] ∧
    results .fadd (argsOf .bf16x2 2) [0x3F803F80, 0x3F80BF80] = some [0x40000000] := by decide +kernel
theorem test_fsub_cancels : results .fsub (argsOf .f32 2) [0x3F800000, 0x3F800000] = some [0] := by decide +kernel
theorem test_fmul_exact : results .fmul (argsOf .f16x2 2) [0x40004000, 0x42003C00] = some [0x46004000] := by decide +kernel
theorem test_fma_once : results .fma (argsOf .f32 3) [0x40000000, 0x40400000, 0x3F800000] = some [0x40E00000] := by decide +kernel
theorem test_fmin_zero_order : results .fmin (argsOf .f32 2) [0x00000000, 0x80000000] = some [0x80000000] ∧
    results .fmax (argsOf .f32 2) [0x80000000, 0x00000000] = some [0x00000000] := by decide +kernel
theorem test_fsgn_inverts : results .fsgn (argsOf .f32 2 1) [0x3F800000, 0x40000000] = some [0xBF800000] ∧
    results .fsgn (argsOf .f32 2 2) [0xBF800000, 0xC0000000] = some [0x3F800000] := by decide +kernel
theorem test_fcmp_nan : results .fcmp (argsOf .bf16x2 2 1) [0x7FC03F80, 0x3F803F80] = some [0xFFFF0000] := by decide +kernel
theorem test_frcp_third : results .frcp (argsOf .f32 1) [0x40400000] = some [0x3EAAAAA8] := by decide +kernel
theorem test_frsq_exact : results .frsq (argsOf .f32 1) [0x40800000] = some [0x3F000000] := by decide +kernel
theorem test_fex2_grid : results .fex2 (argsOf .f32 1) [0xC3150000] = some [0] ∧ results .fex2 (argsOf .f32 1) [0xC3120000] = some [8] := by
  decide +kernel
theorem test_flg2_power : results .flg2 (argsOf .f32 1) [0x41000000] = some [0x40400000] := by decide +kernel
theorem test_fcvt_examples : results .fcvt (argsOf .f32 1 3 0) [0xC0200000] = some [0xFFFFFFFE] ∧
    results .fcvt (argsOf .f32 1 1 1) [0x3F808000] = some [0x00003F81] := by decide +kernel
theorem test_fcvt_nan : results .fcvt (argsOf .f32 1 3 0) [0x7FC00000] = some [0x1008A020] := by decide +kernel
theorem test_frnd_ties : results .frnd (argsOf .f32 1 0) [0x40200000] = some [0x40000000] ∧
    results .frnd (argsOf .f32 1 3) [0xBF000000] = some [0x80000000] := by decide +kernel
theorem test_fclass_bits : results .fclass (argsOf .f32 1) [0x7F800001] = some [1] ∧ results .fclass (argsOf .bf16x2 1) [0x80000001] = some [0x00200080] := by
  decide +kernel
theorem test_sacc_adds : okWith (exec (.sacc (argsOf .s32 1)) (elemState (toksOf [3]) tag1 0xFFFFFFFF)) (fun t => (t.elem 2 5).s == 2 && sentVals t == [2]) = true := by
  decide +kernel
theorem test_sswap_swaps : okWith (exec (.sswap (argsOf .s32 1)) (elemState (toksOf [3]) tag1 9 true)) (fun t =>
    (t.elem 2 5).s == 3 && (t.elem 2 5).sd == false && sentVals t == [9]) = true := by decide +kernel
theorem test_scount_last : okWith (exec (.scount (argsOf .s32 1 0 3)) (elemState (toksOf [7]) tag1 2)) (fun t => (t.elem 2 5).s == 0 && sentVals t == [7]) = true ∧
    okWith (exec (.scount (argsOf .s32 1 0 3)) (elemState (toksOf [7]) tag1 1)) (fun t => (t.elem 2 5).s == 2 && sentVals t == []) = true := by decide +kernel
theorem test_smerge_orders : (results .smerge (argsOf .n32 4) [0x3F800000, 5, 0x40000000, 6]).isSome = true := by decide +kernel

/-! R177 to R188: dataflow control and tags. -/

/-- Fields of a dataflow instruction: arity, predicate slot, tag operation, immediate, targets at slots 1 and 2 taken on true and false. -/
def flowArgs (n : Nat) (pred : Nat := 0) (op : TagOp := .keep) (imm : Nat := 0) (t1 : Target := slotT 1 1 1) (t2 : Target := slotT 2 0 2) : ElemArgs :=
  { arity := BitVec.ofNat 2 (n - 1), f6 := .pred false (BitVec.ofNat 3 pred), tagOp := op, imm := BitVec.ofNat 16 imm, t1 := t1, t2 := t2 }

/-- An F token. -/
def faultTok (slot : Nat) (d : Bool := false) : Token :=
  { elem := 5, slot := slot, tag := tag1, val := 0x10000010, d := d, origin := some 0x77 }
def okTok (slot : Nat) (v : Word) (d : Bool := false) : Token := { elem := 5, slot := slot, tag := tag1, val := v, d := d }

/-- What is sent: element, operand slot, payload, D bit and origin. -/
def brief (ts : List Token) : List (Nat × Nat × Word × Bool × Option Tag) := ts.map fun t => (t.elem, t.slot, t.val, t.d, t.origin)

theorem test_steer_arms : brief (sentToks .steer (flowArgs 2 2) (toksOf [9, 1])) = [(7, 1, 9, false, none)] ∧
    brief (sentToks .steer (flowArgs 2 2) (toksOf [9, 0])) = [(8, 0, 9, false, none)] := ⟨by decide +kernel, by decide +kernel⟩
theorem test_steer_faults : brief (sentToks .steer (flowArgs 2 2) [some (faultTok 0), some (okTok 1 0)]) = [(8, 0, 0x10000010, false, some 0x77)] ∧
    brief (sentToks .steer (flowArgs 2 2) [some (okTok 0 1), some (faultTok 1)]) =
      [(7, 1, 0x10000010, false, some 0x77), (8, 0, 0x10000010, false, some 0x77)] := ⟨by decide +kernel, by decide +kernel⟩
theorem test_select_unchosen : brief (sentToks .select (flowArgs 3 1 .keep 0 (slotT 1 1) Target.nil) [some (okTok 0 1), some (okTok 1 4), some (faultTok 2 true)]) =
    [(7, 1, 4, false, none)] := by decide +kernel
theorem test_gate_false : brief (sentToks .gate (flowArgs 2 2) (toksOf [9, 0])) = [] := by decide +kernel
theorem test_merge_one : brief (sentToks .merge (flowArgs 2 0 .keep 0 (slotT 1 1) Target.nil) [none, some (okTok 1 6 true)]) = [(7, 1, 6, true, none)] := by
  decide +kernel
theorem test_copy_both : brief (sentToks .copy (flowArgs 1 0 .keep 0 (slotT 1 1) (slotT 2 0)) (toksOf [3])) = [(7, 1, 3, false, none), (8, 0, 3, false, none)] := by
  decide +kernel
theorem test_sink_consumes : okWith (exec (.sink (flowArgs 1 0 .keep 0 Target.nil Target.nil)) (elemState (toksOf [3]) tag1)) (fun t =>
    (t.elem 2 5).fired == [] && sentVals t == []) = true := by decide +kernel
theorem test_purge_marks : (sentToks .purge { flowArgs 1 0 .keep 0 (slotT 1 1 0 6) Target.nil with ma := .purge } (toksOf [3])).map (fun t => (t.ma, t.slv)) = [(.purge, 6)] := by
  decide +kernel
theorem test_enter_depth : (sentToks .enter (flowArgs 1 0 (.enter 4 3) 0 (slotT 1 1) Target.nil) (toksOf [3])).map (·.tag) = [0x0002000000000005] := by
  decide +kernel
theorem test_next_counts : (sentToks .next (flowArgs 1 0 (.next 0 3) 0 (slotT 1 1) Target.nil) (toksOf [3]) 0x000100000000FFFF).map (·.tag) = [0x0001000000000000] := by
  decide +kernel
theorem test_leave_clears : (sentToks .leave (flowArgs 1 0 (.leave 0 3) 0 (slotT 1 1) Target.nil) (toksOf [3])).map (·.tag) = [0] := by decide +kernel
theorem test_enter_at_12 : brief (sentToks .enter (flowArgs 1 0 (.enter 4 3) 0 (slotT 1 1) Target.nil) (toksOf [3]) 0x000C000000000005) =
    [(7, 1, 0x1008A001, false, some 0x000C000000000005)] := by decide +kernel
theorem test_tagget_fields : results .tagget (flowArgs 1 0 .keep 3 (slotT 1 1) Target.nil) [0] = some [5] ∧
    results .tagget (flowArgs 1 0 .keep 0xD0 (slotT 1 1) Target.nil) [0] = some [1] := by decide +kernel
theorem test_tagset_wide : (sentToks .tagset (flowArgs 2 0 .keep 0x01 (slotT 1 1) Target.nil) (toksOf [3, 0xFF])).map (fun t => (t.tag, t.val)) =
    [(0x00010000000000FF, 3)] ∧
    results .tagset (flowArgs 2 0 .keep 0x01 (slotT 1 1) Target.nil) [3, 0x100] = some [0x1008A003] := by decide +kernel
theorem test_call_site : (sentToks .call (flowArgs 2 0 (.enter 4 1) 0 (slotT 1 1) Target.nil) (toksOf [3, 2])).map (fun t => (t.tag, t.val)) =
    [(0x0002000000020005, 3)] := by decide +kernel
theorem test_ret_site : (sentToks .ret (flowArgs 1 0 (.leave 4 1) 0 (slotT 1 1 2) (slotT 2 0)) (toksOf [3]) 0x0002000000010005).map (fun t => (t.elem, t.tag)) =
    [(8, 0x0001000000000005)] ∧
    results .ret (flowArgs 1 0 (.leave 0 3) 0 (slotT 1 1) Target.nil) [3] = some [0x1008A005] := by decide +kernel
theorem test_window_emits : results .window (flowArgs 2 0 .keep 0 (slotT 1 1) Target.nil) [3, 1] = some [3] := by decide +kernel

/-! Witnesses for the statements about elements. -/

/-- The premises of `Gives` and `Yields`: a fired set to issue at element 5 of core 2, with no F token. -/
theorem witness_fires : Fires (elemState (toksOf [3, 4]) tag1) 2 5 (shotOf (toksOf [3, 4]) tag1) [] ∧
    (operandsOf (argsOf .s32 2) true (shotOf (toksOf [3, 4]) tag1)).firstF = none ∧
    (operandsOf (argsOf .s32 2) false (shotOf (toksOf [3, 4]) tag1)).firstF = none := by decide +kernel
theorem witness_types : (∀ t ∈ [ElemType.s32, .n32, .s16x2, .n16x2, .s8x4, .n8x4], IntType (argsOf t 2 5)) ∧ Int32Type (argsOf .n32 2) ∧
    SignedType (argsOf .s8x4 1) ∧ (∀ t ∈ [ElemType.f32, .bf16x2, .f16x2], FloatType (argsOf t 2)) ∧ (argsOf .s32 2 5).cond.toNat ≤ 5 ∧
    (argsOf .n32 1 1).cond.toNat ≤ 1 := by decide +kernel
theorem witness_division : (let o := operandsOf (argsOf .s32 2) true (shotOf (toksOf [0x80000000, 0xFFFFFFFF]) tag1)
    Int32Type (argsOf .s32 2) ∧ o.val 0 < 2 ^ 32 ∧ o.val 1 < 2 ^ 32 ∧ o.val 1 ≠ 0 ∧ o.firstF = none) ∧
    (operandsOf (argsOf .n32 2) true (shotOf (toksOf [7, 0]) tag1)).val 1 = 0 := by decide +kernel
theorem witness_state_register : (argsOf .s32 1 0 3).imm.toNat ≤ ((elemState (toksOf [7]) tag1 2).elem 2 5).s.toNat + 1 ∧
    (((elemState (toksOf [7]) tag1 1).elem 2 5).s + 1).toNat < (argsOf .s32 1 0 3).imm.toNat ∧
    (operandsOf (argsOf .s32 1) true (shotOf [some (faultTok 0)] tag1)).firstF ≠ none := by decide +kernel
theorem witness_conversion : convert .f32 3 0 0x7FC00000 = none ∧ convert .f32 3 0 0x4F32D05E = some 0x7FFFFFFF := by decide +kernel
theorem witness_rounding : fp16 ∈ [fp32, fp16, bf16] ∧ fround fp16 .rne false 65520 0 false = 0x7C00 ∧ fround fp16 .rne false 65519 0 false = 0x7BFF ∧
    fround bf16 .rne false 0x3F808 0 false = fround bf16 .rne false 0x3F8 8 false ∧ fround bf16 .rne true 0x101 0 false = 0xC380 := by decide +kernel
/-- One fired set for each clause about `steer`, `select`, `gate`, `merge` and `window`. -/
theorem witness_dataflow :
    (let f (ts : List (Option Token)) := operandsOf (flowArgs 2 2) false (shotOf ts tag1)
     (f [some (okTok 0 1), some (faultTok 1)]).f 1 = true ∧
     ((f [some (faultTok 0), some (okTok 1 0)]).f 1 = false ∧ (f [some (faultTok 0), some (okTok 1 0)]).f 0 = true) ∧
     ((f (toksOf [1, 0])).f 0 = false ∧ (f (toksOf [1, 0])).f 1 = false ∧ predicate (flowArgs 2 2) (f (toksOf [1, 0])) = false) ∧
     predicate (flowArgs 2 2) (f [some (faultTok 0), some (okTok 1 1)]) = true ∧
     predicate (flowArgs 2 2) (f (toksOf [1, 1])) = true ∧
     (f [some (okTok 0 0), some (okTok 1 1), some (faultTok 2)]).f (if predicate (flowArgs 3 1) (f [some (okTok 0 0), some (okTok 1 1), some (faultTok 2)]) then 1 else 2) = true) ∧
    (let s := elemState (toksOf [3, 1]) tag1
     (s.core 2).windowHeld 5 tag1 = false) := by decide +kernel
theorem witness_window_held : (let s := (elemState (toksOf [3, 1]) tag1).onCore 2 fun c =>
      { c with frames := [(0, { map := [], levels := [(0, 16)] })], tier3 := [{ elem := 9, slot := 0, tag := 0x0001000000020005, val := 0 }] }
    s.agent = .elem 2 5 ∧ (s.core 2).windowHeld 5 tag1 = true ∧ goes (exec (.window (flowArgs 2)) s) s = true) := by decide +kernel
theorem witness_tags : 4 * (8 : BitVec 4).toNat + 4 * ((3 : BitVec 2).toNat + 1) ≤ 48 ∧ tagApply (.enter 8 3) 0x000B000000000000 = .ok 0x000C000000000000 ∧
    tagApply (.enter 8 3) 0x000CFFFFFFFFFFFF = .error 1 ∧ tagApply (.next 8 3) 0x0001FFFF00000000 = .ok 0x0001000000000000 ∧
    tagApply (.leave 8 3) 0xABC1FFFF00000001 = .ok 0xABC0000000000001 ∧ tagApply (.next 8 3) 0x0000FFFF00000000 = .error 2 := by decide +kernel
theorem witness_tag_instructions : (flowArgs 1 0 .keep 0xB0).imm.toNat = 16 * 11 + 0 ∧ 4 * 11 + 4 * (0 + 1) ≤ 48 ∧ (flowArgs 1 0 .keep 0xC0).imm = 0xC0 ∧
    (flowArgs 1 0 .keep 0xD0).imm = 0xD0 ∧ (flowArgs 1 0 (.enter 11 0)).tagOp = .enter 11 0 ∧
    depthOf (0x0000000000000005 : Tag) = 0 ∧ tagLevel tag1 4 1 = 0 ∧
    Target.isNil ([slotT 1 1, Target.nil, Target.nil].getD 0 Target.nil) = false ∧ Target.isNil ([slotT 1 1, Target.nil, Target.nil].getD 2 Target.nil) = true ∧
    2 < tagLevel tag1 0 3 := by decide +kernel
theorem witness_emission : (∀ t ∈ [slotT 1 1 1, Target.nil, slotT 2 3 2], slotsOrNone t) ∧
    ([some (okTok 0 1), some (faultTok 1)] : List (Option Token)).getD 1 none = some (faultTok 1) ∧ (faultTok 1).origin = some 0x77 := by
  refine ⟨?_, by decide +kernel, rfl⟩
  intro t ht
  fin_cases ht <;> exact trivial
theorem witness_fault_forwarded : (operandsOf (argsOf .s32 2) true (shotOf [some (okTok 0 1), some (faultTok 1)] tag1)).firstF = some 1 ∧
    (operandsOf (flowArgs 1) false (shotOf [some (faultTok 0)] tag1)).firstF = some 0 ∧
    Fires (elemState [some (okTok 0 1), some (faultTok 1)] tag1) 2 5 (shotOf [some (okTok 0 1), some (faultTok 1)] tag1) [] := by decide +kernel
theorem witness_element_frame : Instr.add (argsOf .s32 2) ∈ typedInstrs (argsOf .s32 2) ∧ (elemState (toksOf [1, 2]) tag1).agent = .elem 2 5 ∧
    okWith (exec (.add (argsOf .s32 2)) (elemState (toksOf [1, 2]) tag1)) (fun _ => true) = true := by decide +kernel

/-! ## Accesses -/

/-- Fields of a memory instruction: type and size, and the wave fields of an ordered one. -/
def memArgs (ty : ElemType) (n : Nat) (cond : Nat := 0) (wave : Bool := false) : ElemArgs :=
  { ty := ty, arity := BitVec.ofNat 2 (n - 1), cond := BitVec.ofNat 3 cond, t1 := slotT 1 1,
    f6 := if wave then .wave 63 1 63 else .pred false 0 }

/-- An element address in the local window. -/
def win (off : Nat) : Word := BitVec.ofNat 32 (0xF0000000 + off)

/-- Core 2 serves launch 0 and holds one access, which has the turn. -/
def accState (i : Instr) (vs : List Word) (c : Core) (width : Nat := 4) (l : Launch := {}) : State :=
  { agent := .access 2 7, launches := [(0, l)],
    cores := [(2, { c with launch := some 0, frames := [(0, { map := [(1, 7), (2, 8)] })],
                           accesses := [{ id := 7, elem := 5, frame := 0, slot := 0, instr := i, toks := toksOf vs, tag := tag1, inst := tag1,
                                          region := .localWin, width := width, va := windowBase + 0x100 }] })] }
def accOf (s : State) : Access := ((s.core 2).access? 7).getD { id := 0, elem := 0, frame := 0, slot := 0, instr := .memAccessComplete, toks := [], tag := 0, inst := 0 }

/-- What an access gives when it is performed. -/
def performs (i : Instr) (vs : List Word) (c : Core) (p : State → Bool) (width : Nat := 4) : Bool :=
  okWith (exec .memAccessComplete (accState i vs c width)) p

/-- The scratchpad holds 0x80 at byte 0x100 and D at word 0x40. -/
def scr80 : Core := { cells := [(0x100, 0x80), (0x101, 0x01)], dmarks := [0x40] }

theorem test_fire_ldx : okWith (exec (.ldx (memArgs .n32 1)) (elemState (toksOf [win 0x100]) tag1)) (fun t =>
    (t.core 2).accesses.map (fun a => (a.stage, a.region, a.width, a.va)) == [(.ready, .localWin, 4, windowBase + 0x100)]) = true := by decide +kernel
theorem test_fire_stx : okWith (exec (.stx (memArgs .n32 2)) (elemState (toksOf [win 0x100, 5]) tag1)) (fun t =>
    (t.core 2).accesses.map (·.stage) == [.held] && (t.core 2).cells == []) = true := by decide +kernel
theorem test_fire_ordered : okWith (exec (.st (memArgs .n32 2 0 true)) (elemState (toksOf [win 0x100, 5]) tag1)) (fun t =>
    (t.core 2).insts.map (fun n => n.chain.map fun w => (w.pred, w.own, w.succ)) == [[(63, 1, 63)]] && (t.core 2).accesses.length == 1) = true ∧
    okWith (exec (.ld (memArgs .n32 1 0 true)) (elemState (toksOf [win 0x100]) tag1)) (fun t => (t.core 2).accesses.map (·.stage) == [.ready]) = true := by decide +kernel
theorem test_fire_misaligned : results .iget (memArgs .n32 1) [win 0x102] = some [0x0108A000] ∧ results .atom (memArgs .n32 2 0 true) [win 0x101, 1] = some [0x0108A000] := by
  decide +kernel
theorem test_fire_beyond : results .ldx (memArgs .n32 1) [win 0x1000000] = some [0x0408A062] ∧ results .red (memArgs .n32 2 0 true) [win 0x1000000, 1] = some [0x0408A062] := by
  decide +kernel
theorem test_ldx_signed : performs (.ldx (memArgs .s32 1 2)) [win 0x100] scr80 (fun t => sentVals t == [0xFFFFFF80]) 1 = true ∧
    performs (.ldx (memArgs .n32 1 1)) [win 0x100] scr80 (fun t => sentVals t == [0x180]) 2 = true := by decide +kernel
theorem test_ld_reads : performs (.ld (memArgs .n32 1)) [win 0x100] scr80 (fun t => sentVals t == [0x180] && (t.core 2).accesses == []) = true := by decide +kernel
theorem test_stx_writes : performs (.stx (memArgs .n32 2 1)) [win 0x100, 0x12345678] scr80 (fun t => (t.core 2).cells == [(0x100, 0x78), (0x101, 0x56)] &&
    sentVals t == [win 0x100]) 2 = true := by decide +kernel
theorem test_st_zero_removes : performs (.st (memArgs .n32 2 2)) [win 0x100, 0] scr80 (fun t => (t.core 2).cells == [(0x101, 0x01)]) 1 = true := by decide +kernel
theorem test_lds_waits : performs (.lds (memArgs .n32 1)) [win 0x100] { scr80 with empties := [0x40] } (fun t => (t.core 2).accesses.map (·.stage) == [.waiting]) = true ∧
    performs (.lds (memArgs .n32 1)) [win 0x100] scr80 (fun t => sentVals t == [0x180]) = true := by decide +kernel
theorem test_iput_fills : performs (.iput (memArgs .n32 2)) [win 0x100, 9] { scr80 with empties := [0x40] } (fun t => (t.core 2).empties == [] && (t.core 2).cells == [(0x100, 9)]) = true ∧
    performs (.iput (memArgs .n32 2)) [win 0x100, 9] scr80 (fun t => sentVals t == [0x0908A000] && (t.core 2).cells == scr80.cells) = true := by decide +kernel
theorem test_iget_full : performs (.iget (memArgs .n32 1)) [win 0x100] scr80 (fun t => sentVals t == [0x180] && (t.core 2).empties == []) = true := by decide +kernel
theorem test_iget_pool_empty : performs (.iget (memArgs .n32 1)) [win 0x100] { scr80 with empties := [0x40] } (fun t => sentVals t == [0x0808A000]) = true := by decide +kernel
theorem test_atom_old : performs (.atom (memArgs .n32 2)) [win 0x100, 0xFFFFFFFF] scr80 (fun t => sentVals t == [0x180] && (t.core 2).cells == [(0x100, 0x7F), (0x101, 1)]) = true ∧
    performs (.atom (memArgs .n32 3 7)) [win 0x100, 0x180, 2] scr80 (fun t => (t.core 2).cells == [(0x100, 2)]) = true := by decide +kernel
theorem test_red_passes : performs (.red (memArgs .n32 2 2)) [win 0x100, 5] scr80 (fun t => sentVals t == [win 0x100] && (t.core 2).cells == scr80.cells) = true := by decide +kernel

/-- Tile 3: two rows at byte 0x4000. -/
def tileCore (st : TileState) (d : Bool := false) : Core := { cells := [(0x4000, 5), (0x4200, 6)], tiles := [(3, { st := st, first := 1, nrow := 1, dmark := d })] }

theorem test_talloc_region : performs (.talloc (memArgs .n32 1)) [0x04000801] {} (fun t => ((t.core 2).tile 4).st == .ready && ((t.core 2).tile 4).first == 1 &&
    ((t.core 2).tile 4).nrow == 1 && !(t.core 2).scrFull 0x1000 && (t.core 2).scrFull 0x1080) = true := by decide +kernel
theorem test_talloc_faults : performs (.talloc (memArgs .n32 1)) [0x03000801] (tileCore .ready) (fun t => sentVals t == [0x0408A067]) = true ∧
    performs (.talloc (memArgs .n32 1)) [0x04000801] (tileCore .ready) (fun t => sentVals t == [0x0408A066]) = true ∧
    performs (.talloc (memArgs .n32 1)) [0x04000C00] (tileCore .ready) (fun t => sentVals t == [0x0408A062]) = true := by decide +kernel
theorem test_tfree_zeroes : performs (.tfree (memArgs .n32 1)) [3] (tileCore .ready) (fun t => (t.core 2).cells == [(0x4200, 6)] && ((t.core 2).tile 3).st == .empty) = true ∧
    performs (.tfree (memArgs .n32 1)) [4] (tileCore .ready) (fun t => sentVals t == [0x0408A031]) = true := by decide +kernel
theorem test_tstate_word : performs (.tstate (memArgs .n32 1)) [3] (tileCore .ready true) (fun t => sentVals t == [0x10006]) = true := by decide +kernel
theorem test_relslot_fires : okWith (exec (.relslot (memArgs .n32 1)) (elemState (toksOf [0]) tag1)) (fun t => (t.core 2).accesses.map (·.stage) == [.held]) = true := by
  decide +kernel
theorem test_ring_init_fires : okWith (exec (.ringInit (memArgs .n32 2)) (elemState (toksOf [win 0x1000, 0x20100300]) tag1)) (fun t =>
    (t.core 2).accesses.map (fun a => (a.stage, a.va, a.width)) == [(.held, windowBase + 0x1000, 4 * 2 * 256)]) = true := by decide +kernel
theorem test_send_refused : results .send (memArgs .n32 2) [0xFFFFFFFF, 1] = some [0x0408A06F] := by decide +kernel
theorem test_awaitf_unmapped : (results .awaitf (memArgs .n32 1) [0x20000000]).isSome = true := by decide +kernel
theorem test_wait_t : results .waitT (argsOf .n32 2) [8, 0] = some [8] := by decide +kernel
theorem test_fence_performed : performs (.fence (memArgs .n32 1)) [8] {} (fun t => sentVals t == [8]) = true := by decide +kernel
theorem test_fence_fires : okWith (exec (.fence (memArgs .n32 1 0 true)) (elemState (toksOf [8]) tag1)) (fun t => (t.core 2).accesses.map (·.stage) == [.ready]) = true := by
  decide +kernel

/-- A launch of partition 1 that takes part in route 2 with two arrivals. -/
def routeLaunch : Launch := { part := some 1, routes := [(2, 1)] }
def routeState (i : Instr) (v : Word) (r : Route) (c : Core := {}) : State :=
  { accState i [v] c 4 routeLaunch with parts := [(1, { routes := [(2, r)] })] }

theorem test_bar_arrive : okWith (exec .memAccessComplete (routeState (.barArrive (memArgs .n32 1 2)) 0 { nm1 := 1, cnt := 1 })) (fun t =>
    (Tab.get {} (t.part 1).routes 2).ep == 1 && (Tab.get {} (t.part 1).routes 2).due == [48]) = true ∧
    okWith (exec .memAccessComplete (routeState (.barArrive (memArgs .n32 1 2)) 0 { nm1 := 1, cnt := 0 })) (fun t =>
    (Tab.get {} (t.part 1).routes 2).cnt == 1) = true := by decide +kernel
theorem test_bar_wait : okWith (exec .memAccessComplete (routeState (.barWait (memArgs .n32 1 2)) 0 { nm1 := 1, ep := 1, done := 1 })) (fun t => sentVals t == [0]) = true := by
  decide +kernel
theorem test_cens : performs (.censUp (memArgs .n32 1)) [0xFFFF] { sc := 1 } (fun t => (t.core 2).sc == 0x10000) = true ∧
    performs (.censUp (memArgs .n32 1)) [1] { sc := 0xFFFFFFFF } (fun t => sentVals t == [0x1008A082]) = true ∧
    performs (.censDn (memArgs .n32 1)) [2] { sc := 1 } (fun t => sentVals t == [0x1008A081]) = true ∧
    performs (.censDn (memArgs .n32 1)) [1] { sc := 1 } (fun t => (t.core 2).sc == 0 && sentVals t == [1]) = true ∧
    performs (.censUp (memArgs .n32 1)) [0x10000] {} (fun t => sentVals t == [0x1008A083]) = true := by decide +kernel
theorem test_sreg_wr : performs (.sregWr (memArgs .n32 2)) [0x1F, 9] {} (fun t => (t.core 2).user == [(15, 9)]) = true := by decide +kernel
theorem test_phase_wait : performs (.phaseWait (memArgs .n32 1)) [0] {} (fun t => (t.core 2).accesses.map (·.stage) == [.waiting]) = true := by decide +kernel
theorem test_sreg_rd : results .sregRd (memArgs .n32 1) [0x000] = some [2] ∧ results .sregRd (memArgs .n32 1) [0x004] = some [0x00204020] ∧
    results .sregRd (memArgs .n32 1) [0x200] = some [0x0408A0C1] := by decide +kernel
theorem test_fault_code : results .fault (memArgs .n32 1) [0x1280] = some [0x8008A012] ∧ results .fault (memArgs .n32 1) [0x127F] = some [0x1008A0C0] := by decide +kernel
theorem test_sdec_not_sealed : results .sdec (memArgs .n32 2) [0, 0] = some [0x0408A0B0] ∧ results .senc (memArgs .n32 2) [0, 0] = some [0x0408A0B0] := by decide +kernel

/-! Witnesses for the statements about accesses. -/

/-- A leaf entry of a page table: class, domain, rights and frame. -/
def leaf (cls sdom : Nat) (r w : Bool) (pa : Nat) (sync : Bool := false) : Nat :=
  2 ^ 63 + 2 ^ 62 + cls * 2 ^ 59 + (if sync then 2 ^ 57 else 0) + (if r then 2 ^ 55 else 0) + (if w then 2 ^ 54 else 0) + pa + sdom * 2 ^ 6

/-- Three pages of 64 KiB in ASID 3 of partition 1: OPEN at 0x1_0000 and sealed ones of domain 6 behind it. -/
def pages : List Tlb := [⟨3, 0, 0x10000, leaf 0 0 true true 0x50000⟩, ⟨3, 0, 0x20000, leaf 4 6 true false 0x60000⟩, ⟨3, 0, 0x30000, leaf 2 6 true true 0x70000⟩]
/-- A launch of partition 1 with segments 0 to 2 at those pages, and a remote segment 0 of job 5, rank 9. -/
def richLaunch (sdv : Bool := false) : Launch :=
  { asid := 3, part := some 1, segs := [2 ^ 63 + 0x10000, 2 ^ 63 + 0x20000, 2 ^ 63 + 0x30000], q := 4, cid := 0x22,
    remote := [[0, 0x80000000, 0x00050009, 0x00000064]],
    cmd := { chain := 0, hbase := 0, cmask := 1, sdom := 6, sdv := sdv, kpol := false, role := false, partw := 0 } }
def rich (s : State) (sdv : Bool := false) : State :=
  { s with launches := [(0, richLaunch sdv)], parts := [(1, { units := [0], first := 3, count := 1 })] }.onCore 2 fun c => { c with tlb := pages }

/-- R236: a store to host memory is seen by the package at once, by the host once it has left the outbound posted queue. -/
theorem test_posted : (let s := ({} : State).physWrite (leafTrans 1 0 (leaf 0 0 true true 0x50000 + 2 ^ 58) 0x40) [7]
    byteAt s.hostMem 0x50040 == 7 && byteAt s.hostView 0x50040 == 0 && byteAt s.postAll.hostView 0x50040 == 7) = true := by decide +kernel
/-- The checks of every memory instruction pass on a word of the window, and of translated memory. -/
theorem witness_memory_fires : ((memForms (memArgs .n32 2 0 true)).all fun f =>
    let s := (elemState (toksOf [win 0x100, 0]) tag1).newId.2
    match s.checkSpot 2 0xF0000100 f.bytes f.rd f.wr false with | (.ok p, _) => f.needs p && 0xF0000100 % f.align == 0 | _ => false) = true ∧
    ((memForms (memArgs .n32 2 0)).all fun f => match (rich (elemState (toksOf [0x100, 0]) tag1)).checkSpot 2 0x100 f.bytes f.rd f.wr false with | (.ok _, _) => true | _ => false) = true ∧
    ((memForms (memArgs .n32 2 0)).all fun f => match (elemState (toksOf [0x100, 0]) tag1).checkSpot 2 0x100 f.bytes f.rd f.wr false with | (.error _, _) => true | _ => false) = true := by
  decide +kernel
theorem witness_memory_wave : (memArgs .n32 2 0 true).f6 = .wave 63 1 63 ∧
    ((({} : Core).acceptLink 0 0xA { pred := 63, own := 1, succ := 63, access := 0 }).1 = true) := by decide +kernel
theorem witness_control_fires : sendOk 0x03000001 0x2000 = true ∧ bits 0x03000001 23 22 ≠ 2 ∧
    sendOk 0x03800001 0x00000100 = true ∧ bits 0x03800001 23 22 = 2 ∧ (0x100 : Nat) % 256 = 0 ∧ sendOk 0x03C00001 0 = false := by decide +kernel
theorem witness_send_to_memory : (match (rich (elemState (toksOf [0x03800001, 0x100]) tag1)).checkSpot 2 0x100 512 false true false with | (.ok _, _) => true | _ => false) = true := by
  decide +kernel
/-- Core 2 with a ring object at byte 0x1000 of its scratchpad, of four slots of 256 bytes, one of them filled. -/
def ringCore : Core := { cells := [(0x1009, 3), (0x1010, 1)], rings := [(2, 0xF0001000)] }
theorem witness_ring : (let s := (elemState (toksOf [0x20000000]) tag1).onCore 2 fun c => { c with cells := ringCore.cells, rings := ringCore.rings }
    match s.ringView 2 (bits 0x20000000 31 28) with | (.ok r, _) => r.nslot == 3 && r.wptr == 1 && r.rptr == 0 && r.filled 0 && !r.filled 1 | _ => false) = true ∧
    (match (elemState (toksOf [win 0x1000, 0x20100300]) tag1).checkRing 2 0xF0001000 0x20100300 false with | (.ok _, _) => true | _ => false) = true := by decide +kernel
theorem test_awaitf_filled : okWith (exec .memAccessComplete (accState (.awaitf (memArgs .n32 1)) [0x20000000] ringCore)) (fun t => sentVals t == [0xF0001100]) = true := by
  decide +kernel
theorem witness_remote : ([(0x180, Instr.rst (memArgs .n32 2)), (0x181, .rld (memArgs .n32 1)), (0x182, .rat (memArgs .n32 2)), (0x183, .rred (memArgs .n32 2)), (0x184, .rcopen (memArgs .n32 1))].all fun f =>
      ((rich (elemState (toksOf [0x40, 1]) tag1)).remoteBad 2 f.1 (memArgs .n32 2) (operandsOf (memArgs .n32 2) true (shotOf (toksOf [0x40, 1]) tag1))).isNone) = true ∧
    ((rich (elemState (toksOf [0, 1]) tag1)).remoteBad 2 0x185 (memArgs .n32 1) (operandsOf (memArgs .n32 1) false (shotOf (toksOf [0, 1]) tag1))).isNone = true ∧
    ((elemState (toksOf [0x40]) tag1).remoteBad 2 0x181 (memArgs .n32 1) (operandsOf (memArgs .n32 1) true (shotOf (toksOf [0x40]) tag1))).isSome = true ∧
    okWith (exec (.rst (memArgs .n32 2)) (rich (elemState (toksOf [0x40, 1]) tag1))) (fun t => (t.core 2).accesses.map (·.stage) == [.held]) = true ∧
    okWith (exec (.rld (memArgs .n32 1)) (rich (elemState (toksOf [0x40]) tag1))) (fun t => (t.core 2).accesses.map (·.stage) == [.ready]) = true := by decide +kernel
theorem test_remote_held : [Instr.rat (memArgs .n32 2), .rred (memArgs .n32 2), .rcopen (memArgs .n32 1), .rrel (memArgs .n32 1)].all (fun i =>
    okWith (exec i (rich (elemState (toksOf [0, 1]) tag1))) (fun t => (t.core 2).accesses.map (·.stage) == [.held] && (t.core 2).insts.map (·.rels) == [[3]])) = true := by decide +kernel
theorem witness_session_checks : (match (rich (elemState (toksOf [0x10000040, 0x20000000]) tag1) true).checkSdec 2 0x10000040 0x20000000 with | (.ok _, _) => true | _ => false) = true ∧
    (match (rich (elemState (toksOf [0x20000000, 1]) tag1) true).checkSenc 2 0x20000000 1 with | (.ok _, _) => true | _ => false) = true := by decide +kernel
theorem witness_system : (rich (elemState (toksOf [0x1280]) tag1)).coreLaunch 2 = some (0, richLaunch) ∧ richLaunch.part = some 1 ∧ (0x1280 : Nat) < 2 ^ 16 ∧ 0x80 ≤ 0x1280 % 256 ∧
    0xFFFF % 256 ≥ 0x80 ∧ okWith (exec (.trap (memArgs .n32 1)) (rich (elemState (toksOf [0x1280]) tag1))) (fun t => sentVals t == [0x1280]) = true := by decide +kernel
theorem witness_window : (let s := accState (.ldx (memArgs .n32 1)) [win 0x100] scr80
    Performs s 2 (accOf s) ∧ InWindow s 2 (accOf s) 4 false ∧ (s.core 2).storesBefore (accOf s) = []) := by decide +kernel
theorem witness_window_store : (let s := accState (.stx (memArgs .n32 2)) [win 0xFFFFFC, 1] scr80
    Performs s 2 (accOf s) ∧ InWindow s 2 (accOf s) 4 true) := by decide +kernel
theorem witness_sync_access : (let s := accState (.iput (memArgs .n32 2)) [win 0x100, 1] { scr80 with empties := [0x40] }
    Performs s 2 (accOf s) ∧ InWindow s 2 (accOf s) 4 false ∧ (s.core 2).scrFull 0x40 = false ∧ (s.core 2).scrFull 0x41 = true ∧ s.newId.2.spillTake 2 1 = none) ∧
    (let s := { accState (.iget (memArgs .n32 1)) [win 0x100] { scr80 with empties := [0x40] } 4 { part := some 1 } with parts := [(1, { spillFrames := [1] })] }
    Performs s 2 (accOf s) ∧ (s.newId.2.spillTake 2 1).isSome = true) := by decide +kernel
theorem witness_scratchpad : ([1, 2] : List Byte) ≠ [] ∧ (({} : Core).scrWrite 0x103 [1, 2] true).dmarks = [0x40, 0x41] ∧ Memory.wf scr80.cells = true := by decide +kernel
theorem witness_translated : (let t := leafTrans 1 0 (leaf 0 0 true true 0x50000) 0x10080
    t.host = false ∧ t.cls = 0 ∧ ∀ l ∈ linesTouched t.pa 4, Tab.find? (State.reset).lines l = none) ∧ (leafTrans 1 0 (leaf 0 0 true true 0x50000 + 2 ^ 58) 0x10080).host = true := by
  decide +kernel
theorem witness_tiles : (let s := accState (.talloc (memArgs .n32 1)) [0x04000801] (tileCore .ready)
    Performs s 2 (accOf s) ∧ ((s.core 2).tile 4).st = .empty ∧ 0x4000 + 0x200 ≤ (s.core 2).scrBytes ∧ (s.core 2).tilesOf 0x4000 0x200 ≠ []) ∧
    (({} : Core).tilesOf 0x4000 0x200 = []) ∧ ((tileCore .ready).tile 3).st = .ready := by decide +kernel
theorem witness_synchronisation : (let s := routeState (.barArrive (memArgs .n32 1 2)) 0 { nm1 := 1, cnt := 1 }
    Performs s 2 (accOf s) ∧ s.coreLaunch 2 = some (0, routeLaunch) ∧ Tab.find? routeLaunch.routes 2 = some 1 ∧ Tab.find? routeLaunch.routes 3 = none) ∧
    Route.isDone { nm1 := 1, done := 1 } 0 = true ∧ Route.isDone { nm1 := 1, done := 1 } 1 = false := by decide +kernel
theorem test_bar_not_claimed : okWith (exec .memAccessComplete (routeState (.barWait (memArgs .n32 1 3)) 0 {})) (fun t => sentVals t == [0x0408A080]) = true := by decide +kernel
theorem test_units_held : ((unitInstrs (memArgs .n32 2)).all fun i => okWith (exec i (elemState (toksOf [0, 0]) tag1)) (fun t => (t.core 2).accesses.map (·.stage) == [.held])) = true ∧
    ((syncInstrs (memArgs .n32 1)).all fun i => okWith (exec i (elemState (toksOf [0]) tag1)) (fun t => (t.core 2).accesses.map (·.stage) == [.ready])) = true := by decide +kernel

/-! ## Configuration -/

/-- Core 2 of launch 0 with one word in its configuration FIFO. -/
def cfgState (c : Core := {}) (l : Launch := {}) : State :=
  { agent := .config 2, launches := [(0, l)], cores := [(2, { c with launch := some 0, configured := true, fifo := [(0, 7)] })] }
/-- Frame 1 is open with two inputs and two outputs. -/
def openCore (fr : Frame := {}) : Core := { openFrame := some 1, frames := [(1, { fr with status := .opened, nin := 2, nout := 2 })] }
def frameAfter (i : Instr) (fr : Frame := {}) : Option Frame := match exec i (cfgState (openCore fr)) with | .next t => some ((t.core 2).frame 1) | _ => none
def failureAfter (i : Instr) (c : Core := {}) : Option Failure := match exec i (cfgState c) with | .next t => (t.launch 0).failure | _ => none
def badCfg2 : Failure := { status := 6, detail0 := 0x02000000 }

theorem test_open : okWith (exec (.frameOpen 1 32 1) (cfgState {})) (fun t => (t.core 2).openFrame == some 1 && ((t.core 2).frame 1).nin == 32 && (t.core 2).fifo == []) = true ∧
    failureAfter (.frameOpen 1 33 1) = some badCfg2 ∧ failureAfter (.frameOpen 1 1 1) (openCore) = some badCfg2 := by decide +kernel
theorem test_open_busy : failureAfter (.frameOpen 0 1 1) { elems := [(5, { tier1 := [okTok 0 1] })] } = some { status := 7, detail0 := 0x02000000 } := by decide +kernel
theorem test_field : (frameAfter (.field 3 0 0x80840)).map (fun f => Tab.get {} f.slots 3) = some { f := [some 0x80840, none, none, none, none, none, none, none] } := by decide +kernel
theorem test_wide_field : okWith (exec (.field 3 4 0x11) (cfgState { openCore with wideHalf := some 0xABCD })) (fun t =>
    (Tab.get {} ((t.core 2).frame 1).slots 3).wide == some 0xABCD && (t.core 2).wideHalf == none) = true := by decide +kernel
theorem test_wide : okWith (exec (.wide 0xABCD) (cfgState (openCore))) (fun t => (t.core 2).wideHalf == some 0xABCD) = true ∧
    failureAfter (.wide 1) { openCore with wideHalf := some 0 } = some badCfg2 := by decide +kernel
theorem test_place : (frameAfter (.framePlace true)).map (·.place) = some true ∧ failureAfter (.framePlace true) (openCore { fieldSeen := true }) = some badCfg2 := by decide +kernel
theorem test_bin : (frameAfter (.frameBin 1 9 2)).map (·.bins) = some [(1, (9, 2))] ∧ failureAfter (.frameBin 2 9 2) openCore = some badCfg2 := by decide +kernel
theorem test_bouts : (frameAfter (.boutFrameInput 1 7 31)).map (·.bouts) = some [(1, .frame 7 31)] ∧ (frameAfter (.boutThisInput 0 1)).map (·.bouts) = some [(0, .here 1)] ∧
    (frameAfter (.boutNodePort 0 35 3)).map (·.bouts) = some [(0, .node 35 3)] ∧ failureAfter (.boutNodePort 0 36 0) openCore = some badCfg2 := by decide +kernel
theorem test_cnext : (frameAfter (.cnext 0 6 .keep)).map (·.cnext) = some (some (.frame 6 .keep)) ∧ (frameAfter (.cnext 3 0 .keep)).map (·.cnext) = some (some .entry) := by
  decide +kernel
theorem test_cset : (frameAfter (.cset false 3)).map (·.cset) = some 3 ∧ failureAfter (.cset true 1) openCore = some badCfg2 := by decide +kernel
theorem test_reserved_word : failureAfter .reservedFrameWord openCore = some badCfg2 := by decide +kernel

/-- Frame 1 holds `copy .a -> out0` in slot 3, with output 0 bound and `next=end`. -/
def copyFrame (f1 : Nat := 0x80000) : Frame :=
  { slots := [(3, { f := [some (0x103 * 2 ^ 11), some f1, none, none, none, none, none, none] })], bouts := [(0, .here 0), (1, .here 0)], cnext := some .last, fieldSeen := true }
theorem test_close : okWith (exec (.frameClose 1) (cfgState (openCore (copyFrame)))) (fun t => ((t.core 2).frame 1).status == .closed && (t.core 2).openFrame == none &&
    ((t.elem 2 19).instr).isSome && ((t.core 2).frame 1).acceptFrom == some 1) = true := by decide +kernel
theorem test_close_blocked : failureAfter (.frameClose 1) (openCore { copyFrame with slots := [(3, { f := [some (0x1FF * 2 ^ 11), none, none, none, none, none, none, none] })] }) =
    some { status := 0x0E, detail0 := 0x02130000, code := 0x0A, score := 2, sx := 19, sy := 0 } := by decide +kernel
theorem test_hfree : okWith (exec (.hfree 16 5) (cfgState { nodes := [(16, { handlers := [(5, ⟨0, [], []⟩), (6, ⟨0, [], []⟩)] })] })) (fun t => (t.node 2 16).handlers.map (·.1) == [6]) = true ∧
    failureAfter (.hfree 36 0) = some { status := 8, detail0 := 0x02000024 } := by decide +kernel

/-- An IMAGE page at 0x1_0000 of ASID 3, whose lines are in the cache, with a handler image in it. -/
def imageBytes (ws : List Word) : List Host.Cell := writeBytes [] 0x50000 (ws.flatMap fun w => leBytes w.toNat 4)
def imageState (ws : List Word) (a : Agent) (c : Core) : State :=
  { agent := a, launches := [(0, { asid := 3, part := some 1, cmd := { chain := 0, hbase := 0x10000, cmask := 1, sdom := 0, sdv := false, kpol := false, role := false, partw := 0 } })],
    parts := [(1, { units := [0], first := 3, count := 1 })], clusterTlb := [(0, [⟨3, 0, 0x10000, leaf 5 0 true false 0x50000⟩])], hbm := imageBytes ws,
    cache := (List.range 4).map fun i => (0xA00 + i, { cls := 5, sdom := 0, part := 1, key := 0 }),
    cores := [(0, { c with launch := some 0 }), (1, { launch := some 0 }), (2, { launch := some 0 }), (3, { launch := some 0 })] }
/-- R91, R92, R100: a handler image of one `vfma.f32 w1, w1, w0` whose c is the zero vector. -/
def vecImage : List Word := [0x53424C4B, 0x00010001, 0x00010001, 0, 0b00001100000001000010000010100000]
theorem test_hbind : okWith (exec (.hbind 16 5 0) (imageState vecImage (.config 0) { configured := true, fifo := [(0, 7)] })) (fun t =>
    (Tab.find? (t.node 0 16).handlers 5).map (·.cmds) == some [.vfma ⟨.f32, 1, 1, 0, 20, 0⟩]) = true := by decide +kernel

theorem witness_takes : Takes (cfgState openCore) 2 [] ∧ (openCore).wideHalf = none ∧ ((wordTaken (cfgState openCore) 2 []).core 2).openFrame = some 1 ∧
    ({} : Core).frameBusy 7 = false ∧ ({ elems := [(5, { tier1 := [okTok 0 1] })] } : Core).frameBusy 0 = true ∧ (cfgState openCore).coreLost 2 = false := by
  refine ⟨⟨rfl, by decide, by decide, by decide +kernel, 0, 7, rfl, by decide⟩, rfl, rfl, rfl, by decide +kernel, rfl⟩
theorem witness_wide_pending : Takes (cfgState { openCore with wideHalf := some 0xABCD }) 2 [] ∧ (0xABCD : BitVec 20).toNat < 2 ^ 16 := by
  exact ⟨⟨rfl, by decide, by decide, by decide +kernel, 0, 7, rfl, by decide⟩, by decide⟩
theorem witness_cset : (∀ j < 16, (3 : BitVec 16).getLsbD j = true → 0 + j < 2) ∧ ((openCore).frame 1).nout = 2 := by decide +kernel
theorem witness_close : (let s1 := wordTaken (cfgState (openCore (copyFrame))) 2 []
    let fr := (s1.core 2).frame 1
    let ps := fr.slots.map fun (x : Nat × SlotCfg) => fr.placed 1 x.1 x.2
    fr.cnext ≠ none ∧ (∀ o < fr.nout, Tab.find? fr.bouts o ≠ none) ∧ fr.blockedElems 1 ps ++ (ps.filter fun p => s1.elemLost 2 p.elem).map (·.elem) = [] ∧
    Tab.wf fr.slots = true ∧ (s1.bindable 2 16).isSome = true ∧ s1.bindable 2 36 = none) := by decide +kernel
theorem witness_hbind : (let s1 := wordTaken (imageState vecImage (.config 0) { configured := true, fifo := [(0, 7)] }) 0 []
    match s1.sysRead (some 0) 3 0x10000 16 clsImage with
    | (.ok hb, s2) => imageHeaderOk (wordsOfBytes hb) && bit (wordAt (wordsOfBytes hb) 2) 0 && bits (wordAt (wordsOfBytes hb) 2) 4 2 == kindCode .vector &&
        (match s2.sysRead (some 0) 3 0x10010 4 clsImage with
         | (.ok b, s3) => (match s3.imageLocked (some 0) 0 0x10000 20 with | (.ok _, _) => true | _ => false) && (handlerOf (s3.launch 0) 0 16 .vector 0x10000 (wordsOfBytes b)).isSome
         | _ => false)
    | _ => false) = true := by decide +kernel

/-! ## Sequencers -/

/-- Sequencer 0 of launch 0, at pc 0x100 of a program from a SEQIMG image. -/
def seqState (q : Seq := {}) (l : Launch := {}) : State :=
  { agent := .seq 0, launches := [(0, { l with cmd := { chain := 0, hbase := 0x5000, cmask := 1, sdom := 0, sdv := false, kpol := false, role := false, partw := 0 } })],
    seqs := [(0, { q with mode := .run, ranNative := true, pc := 0x100 })],
    cores := [(0, { launch := some 0 }), (1, { launch := some 0 }), (2, { launch := some 0 }), (3, { launch := some 0 })] }
/-- x1 and x2. -/
def regs (a b : DWord) : Seq := { x := [(1, a), (2, b)] }
/-- x3, pc and issue cycle after an instruction on x1 and x2. -/
def scalar (i : Instr) (a b : DWord) : Option (DWord × Nat × Nat) :=
  match exec i (seqState (regs a b)) with | .next t => some ((t.seq 0).reg 3, (t.seq 0).pc, (t.seq 0).issueFrom) | _ => none
def failsWith (i : Instr) (q : Seq) (status detail0 : Nat) : Bool :=
  okWith (exec i (seqState q)) fun t => (t.launch 0).failure.any (fun f => f.status == status && f.detail0 == detail0) && (t.seq 0).mode == .stopped

theorem test_seq_add : scalar (.seqAdd 5 3 1 2) 0xFFFFFFFFFFFFFFFF 1 = some (0, 0x104, 6) := by decide +kernel
theorem test_seq_sub : scalar (.seqSub 0 3 1 2) 0 1 = some (0xFFFFFFFFFFFFFFFF, 0x104, 1) := by decide +kernel
theorem test_seq_logic : scalar (.seqAnd 0 3 1 2) 0xF0 0x3C = some (0x30, 0x104, 1) ∧ scalar (.seqOr 0 3 1 2) 0xF0 0x3C = some (0xFC, 0x104, 1) ∧
    scalar (.seqXor 0 3 1 2) 0xF0 0x3C = some (0xCC, 0x104, 1) := by decide +kernel
theorem test_seq_shifts : scalar (.seqShl 0 3 1 2) 1 65 = some (2, 0x104, 1) ∧ scalar (.seqShr 0 3 1 2) 0x8000000000000000 63 = some (1, 0x104, 1) ∧
    scalar (.seqSra 0 3 1 2) 0x8000000000000000 63 = some (0xFFFFFFFFFFFFFFFF, 0x104, 1) := by decide +kernel
theorem test_seq_mul : scalar (.seqMul 0 3 1 2) 0x100000000 0x100000001 = some (0x100000000, 0x104, 1) := by decide +kernel
theorem test_seq_slt : scalar (.seqSlt 0 3 1 2) 0xFFFFFFFFFFFFFFFF 0 = some (1, 0x104, 1) ∧ scalar (.seqSltu 0 3 1 2) 0xFFFFFFFFFFFFFFFF 0 = some (0, 0x104, 1) := by decide +kernel
theorem test_seq_imm : scalar (.seqAddi 0 3 1 0xFFF) 5 0 = some (4, 0x104, 1) ∧ scalar (.seqAndi 0 3 1 0x800) 0xFFFF 0 = some (0xF800, 0x104, 1) ∧
    scalar (.seqOri 0 3 1 1) 2 0 = some (3, 0x104, 1) ∧ scalar (.seqXori 0 3 1 0xFFF) 0 0 = some (0xFFFFFFFFFFFFFFFF, 0x104, 1) := by decide +kernel
theorem test_seq_imm_shift : scalar (.seqShli 0 3 1 63) 1 0 = some (0x8000000000000000, 0x104, 1) ∧ scalar (.seqShri 0 3 1 63) 0x8000000000000000 0 = some (1, 0x104, 1) ∧
    scalar (.seqSrai 0 3 1 4) 0xFFFFFFFFFFFFFF00 0 = some (0xFFFFFFFFFFFFFFF0, 0x104, 1) ∧ scalar (.seqSlti 0 3 1 0xFFF) 0 0 = some (0, 0x104, 1) := by decide +kernel
theorem test_seq_lui : scalar (.seqLui 0 3 0x1FFFF) 0 0 = some (0xFFFFFFFFFFFFF000, 0x104, 1) := by decide +kernel
theorem test_seq_x0 : okWith (exec (.seqAdd 0 0 1 2) (seqState (regs 1 2))) (fun t => (t.seq 0).reg 0 == 0 && (t.seq 0).x == [(1, 1), (2, 2)]) = true := by decide +kernel
theorem test_seq_branch : scalar (.seqBeq 0 1 2 0xFFF) 5 5 = some (0, 0xFC, 3) ∧ scalar (.seqBeq 0 1 2 0xFFF) 5 6 = some (0, 0x104, 1) ∧
    scalar (.seqBne 7 1 2 4) 5 6 = some (0, 0x110, 8) ∧ scalar (.seqBlt 0 1 2 1) 0xFFFFFFFFFFFFFFFF 0 = some (0, 0x104, 3) := by decide +kernel
theorem test_seq_branch2 : scalar (.seqBge 0 1 2 2) 0 0xFFFFFFFFFFFFFFFF = some (0, 0x108, 3) ∧ scalar (.seqBltu 0 1 2 2) 0 0xFFFFFFFFFFFFFFFF = some (0, 0x108, 3) ∧
    scalar (.seqBgeu 0 1 2 2) 0 0xFFFFFFFFFFFFFFFF = some (0, 0x104, 1) := by decide +kernel
theorem test_seq_jal : scalar (.seqJal 0 3 0x1FFFF) 0 0 = some (0x104, 0xFC, 3) ∧ scalar (.seqJalr 0 3 1 4) 0x2000 0 = some (0x104, 0x2004, 3) := by decide +kernel
theorem test_seq_bad_pc : failsWith (.seqJalr 0 0 1 0) (regs 0x10000 0) 9 0x100 = true ∧ failsWith (.seqJalr 0 0 1 0) (regs 2 0) 9 0x100 = true ∧
    failsWith (.seqJal 0 0 0x10000) {} 9 0x100 = true := by decide +kernel
theorem test_seq_illegal : failsWith .illegalSequencerInstruction {} 9 0x100 = true ∧ failsWith (.srd 0 3 0x10) {} 9 0x100 = true ∧ failsWith (.eret 0) {} 9 0x100 = true := by
  decide +kernel
theorem test_seq_trap : okWith (exec (.seqTrap 0 0x42) (seqState { tvec := 0x800 })) (fun t => (t.seq 0).pc == 0x800 && (t.seq 0).epc == 0x104 &&
    (t.seq 0).ecause == 0x4200 && (t.seq 0).intrap) = true ∧ failsWith (.seqTrap 0 0x42) {} 0x0D 0x42 = true := by decide +kernel
theorem test_eret : okWith (exec (.eret 0) (seqState { epc := 0x204, intrap := true })) (fun t => (t.seq 0).pc == 0x204 && !(t.seq 0).intrap) = true := by decide +kernel
theorem test_ctxfault : okWith (exec .ctxfaultTake (seqState { tvec := 0x800, ctxfaults := [7, 8] })) (fun t => (t.seq 0).pc == 0x800 && (t.seq 0).epc == 0x100 &&
    (t.seq 0).eval == 7 && (t.seq 0).ecause == 1 && (t.seq 0).ctxfaults == [8]) = true := by decide +kernel

/-- The same with an OPEN page at 0x1_0000 of ASID 3, whose lines no class tag names. -/
def seqPage (q : Seq) (hbm : List Host.Cell := []) : State :=
  { seqState q { asid := 3, part := some 1 } with
    parts := [(1, { units := [0], first := 3, count := 1 })], clusterTlb := [(0, [⟨3, 0, 0x10000, leaf 0 0 true true 0x50000⟩])], hbm := hbm }
theorem test_seq_load : okWith (exec (.seqLd 0 3 1 8) (seqPage (regs 0x10000 0) [(0x50008, 0xEF), (0x5000F, 0x80)])) (fun t => (t.seq 0).reg 3 == 0x80000000000000EF) = true ∧
    okWith (exec (.seqLw 0 3 1 12) (seqPage (regs 0x10000 0) [(0x50008, 0xEF), (0x5000F, 0x80)])) (fun t => (t.seq 0).reg 3 == 0x80000000) = true := by decide +kernel
theorem test_seq_store : okWith (exec (.seqSd 0 2 1 8) (seqPage (regs 0x10000 0x1122))) (fun t => t.hbm == [(0x50008, 0x22), (0x50009, 0x11)]) = true ∧
    okWith (exec (.seqSw 0 2 1 4) (seqPage (regs 0x10000 0xAA00000001) [(0x50008, 9)])) (fun t => t.hbm == [(0x50004, 1), (0x50008, 9)]) = true := by decide +kernel
/-- R357, R368 case 5: a page that another queue holds is no place for a sequencer's store. -/
theorem test_seq_foreign : (let s := { seqPage (regs (BitVec.ofNat 64 (kvBase + 2 * 2 ^ 28 + 5 * 65536)) 7) with slots := [(2, { st := .opened, pages := [(5, kvEntry false 9 5)] })] }.onPart 1 fun p => { p with nslot := 4, kvVa := 0x100000 }
    okWith (exec (.seqSd 0 2 1 0) s) (fun t => (t.launch 0).st == .failing && t.hbm == []) && !s.parts.isEmpty) = true := by decide +kernel
theorem test_seq_misaligned : okWith (exec (.seqSd 0 2 1 4) (seqPage (regs 0x10000 5))) (fun t => t.hbm == [] &&
    (t.launch 0).failure == some { status := 0x0C, detail0 := 1, detail1 := 0x10004, code := 1, va := some 0x10004 }) = true := by decide +kernel

/-- A narrow descriptor: two elements at byte 0x100 of the scratchpad of core 1, to input 3 of frame 2. -/
def descrBytes : List Host.Cell := writeBytes [] 0x50000 ([0xFE000100, 0x01FFFFFF, 0, 0, 1, 0, 0x10004180, 0, 5, 0x00010000, 0, 0, 0, 0, 0, 0].flatMap fun w => leBytes w 4)
theorem test_sbind : okWith (exec (.sbind 0 1 4 17) (seqPage (regs 0x10000 0) descrBytes)) (fun t => ((t.seq 0).ap 4).st == .bound && ((t.seq 0).ap 4).port == 17 &&
    ((t.seq 0).ap 4).descr.cnt0 == 1 && ((t.seq 0).ap 4).descr.index == 3 && ((t.seq 0).ap 4).descr.frame == 2) = true := by decide +kernel
def boundAp (st : ApState) (pos : Nat := 0) : Ap := { descr := { base := windowBase + 0x100, cnt0 := 1, src := 1, frame := 2, index := 3, tag := tag1 }, port := 17, st := st, pos := pos, tag := tag1 }
theorem test_sgo : okWith (exec (.sgo 0 0 4) (seqState { aps := [(4, boundAp .bound)], phase := 1 })) (fun t => ((t.seq 0).ap 4).st == .running && ((t.seq 0).ap 4).tag == tag1) = true ∧
    failsWith (.sgo 0 0 4) { aps := [(4, boundAp .bound)] } 0x0B 0x100 = true := by decide +kernel
theorem test_swait : okWith (exec (.swait 0 3 4) (seqState { aps := [(4, { boundAp .bound with count := 9 })] })) (fun t => (t.seq 0).reg 3 == 9) = true := by decide +kernel
def streamState (pos : Nat) : State :=
  { seqState { aps := [(4, boundAp .running pos)] } with agent := .ap 0 4 }.onCore 1 fun c => { c with cells := [(0x100, 5), (0x104, 6)], dmarks := [0x41] }
theorem test_stream_emit : okWith (exec .streamEmit (streamState 1)) (fun t => ((t.seq 0).ap 4).st == .bound && ((t.seq 0).ap 4).count == 2 &&
    (t.core 1).transit.map (fun m => (m.dest, match m.msg with | .narrow x _ => (x.val, x.d, x.tag) | _ => (0, false, 0))) == [(.input 2 3, (6, true, tag1))]) = true := by decide +kernel
theorem test_params : okWith (exec (.qpop 0 3) (seqState { params := [5, 6] })) (fun t => (t.seq 0).reg 3 == 5 && (t.seq 0).params == [6]) = true ∧
    okWith (exec (.qpopNb 0 3) (seqState {})) (fun t => (t.seq 0).reg 3 == 0xFFFFFFFFFFFFFFFF) = true ∧
    okWith (exec (.qpop 0 3) (seqState {})) (fun t => (t.seq 0).pc == 0x100) = true := by decide +kernel
theorem test_bframe : okWith (exec (.bframe 0 6) (seqState {})) (fun t => (t.seq 0).bframe == 6 && (t.seq 0).pc == 0x104) = true := by decide +kernel
theorem test_barriers : okWith (exec (.pbar 0 3) (seqState {})) (fun t => (t.seq 0).mode == .wait && (t.seq 0).waitFor == .pbar 3) = true ∧
    okWith (exec (.pbarFinal 0 3) (seqState {})) (fun t => (t.seq 0).waitFor == .pbarFinal 3) = true ∧
    okWith (exec (.halt 0) (seqState {} { isOpen := true })) (fun t => (t.seq 0).waitFor == .halt) = true := by decide +kernel
theorem test_cwait : okWith (exec (.cwait 0 1 2) (seqPage (regs 0x10000 5) [(0x50000, 5)])) (fun t => (t.seq 0).pc == 0x104) = true ∧
    okWith (exec (.cwait 0 1 2) (seqPage (regs 0x10000 6) [(0x50000, 5)])) (fun t => (t.seq 0).waitFor == .cwait 0x10000 6) = true := by decide +kernel
theorem test_cwait_again : okWith (exec .cwaitObjectRead { seqPage (regs 0x10000 6) [(0x50000, 6)] with
    seqs := [(0, { mode := .wait, waitFor := .cwait 0x10000 6, ranNative := true, pc := 0x100 })] }) (fun t => (t.seq 0).mode == .run && (t.seq 0).pc == 0x104) = true := by decide +kernel
theorem test_cosig : okWith (exec (.cosig 0 1 2) (seqPage (regs 0x10000 6) [(0x50000, 5)])) (fun t => t.hbm == [(0x50000, 6)]) = true ∧
    okWith (exec (.cosigAdd 0 1 2) (seqPage (regs 0x10000 6) [(0x50000, 5)])) (fun t => t.hbm == [(0x50000, 11)]) = true := by decide +kernel
/-- R73, R75, R101: an element image of OPEN and CLOSE. -/
def elemImage : List Word := [0x53424C4B, 0x00010001, 0x00020000, 0, 0x40000000, 0x44000000]
theorem test_bpush : okWith (exec (.bpush 0 1) { imageState elemImage (.seq 0) {} with seqs := [(0, { regs 0x10000 0 with mode := .run, ranNative := true, pc := 0x100, bframe := 2 })] }) (fun t =>
    (t.core 1).fifo == [(4, 0x41000000), (5, 0x45000000)] && (t.seq 0).pc == 0x104) = true := by decide +kernel
theorem test_srd : scalar (.srd 0 3 4) 0 0 = some (0x00204020, 0x104, 1) ∧ scalar (.srd 0 3 8) 0 0 = some (0x5000, 0x104, 1) := by decide +kernel
theorem test_swr : okWith (exec (.swr 0 1 9) (seqState (regs 0x800 0))) (fun t => (t.seq 0).tvec == 0x800) = true ∧
    okWith (exec (.swr 0 1 0xB) (seqState (regs 0x800 0))) (fun t => (t.seq 0).ecause == 0 && (t.seq 0).pc == 0x104) = true := by decide +kernel

theorem witness_seq_runs : (∃ l, SeqRuns (seqState (regs 1 2)) 0 l) ∧ GoodPc ((seqState (regs 1 2)).seq 0) (((seqState (regs 1 2)).seq 0).pc + 4) ∧
    RegsReady (seqState (regs 1 2)) 0 [1, 2] := by
  refine ⟨⟨_, rfl, by decide, rfl, rfl, rfl, by decide⟩, ?_, ?_⟩ <;> decide +kernel
theorem witness_interlock : (let s := seqState { regs 1 2 with ready := [(1, { from_ := 3, fixed := true }), (2, { from_ := 5, fixed := false })] }
    s.now < (Tab.get {} (s.seq 0).ready (1 : BitVec 5).toNat).from_ ∧ (Tab.get {} (s.seq 0).ready 1).fixed = true ∧ (1 : BitVec 5) ≠ 0 ∧
    okWith (exec (.seqAdd 0 3 1 0) s) (fun t => (t.seq 0).shortstall == 1 && (t.seq 0).pc == 0x100 && (t.seq 0).issueFrom == 3) = true) := by decide +kernel
theorem witness_branches : (let q := (seqState (regs 5 5)).seq 0
    GoodPc q (q.pc + 4 * (0xFC0 : BitVec 12).toInt) ∧ GoodPc q (q.pc + 4 * (0x3FBF : BitVec 17).toInt) ∧ GoodPc q (0xFFFC : Nat)) := by decide +kernel
theorem witness_bad_pcs : (0x100 : Nat) % 4 = 0 ∧ ((0x100 : Int) + 4 * (0x1FFBF : BitVec 17).toInt < 0) ∧ (0x10000 ≤ (0x100 : Int) + 4 * (0x3FC0 : BitVec 17).toInt) ∧
    (0x0F < (0xFF : BitVec 8).toNat) ∧ ((seqState {}).seq 0).intrap = false := by decide +kernel
theorem witness_traps : (let q := (seqState { tvec := 0xFFFC, ctxfaults := [7] }).seq 0
    q.tvec ≠ 0 ∧ q.tvec.toNat % 4 = 0 ∧ q.tvec.toNat < 0x10000 ∧ q.intrap = false ∧ q.ctxfaults = 7 :: [] ∧ q.mode = .run) ∧
    ((seqState { epc := 0x204, intrap := true }).seq 0).intrap = true := by decide +kernel
theorem witness_seq_load : (let s := seqPage (regs 0x10000 0)
    (match (gated s 0 [1]).translateAll none (some 0) 3 [(0x10000, 8)] with
     | (some [p], s2) => (s2.sysCheck [p] false clsOpen).isNone && (s2.sysCheck [p] true clsOpen).isNone && !p.t.host && (Tab.find? s.lines (p.t.pa / 128)).isNone
     | _ => false) = true ∧ (0x10000 : Nat) % 8 = 0 ∧ (0x10004 : Nat) % 8 ≠ 0) := by decide +kernel
theorem witness_streams : (match (gated (seqPage (regs 0x10000 0) descrBytes) 0 [1]).sysRead (some 0) 3 0x10000 64 clsOpen with
     | (.ok bs, _) => (descrOf (wordsOfBytes bs)).isSome | _ => false) = true ∧ streamTagOk tag1 .keep = true ∧
    (let s := streamState 0
     let r := (s.seq 0).ap 4
     let va := r.descr.addr r.pos
     r.st = .running ∧ r.parked = false ∧ r.nextEmit ≤ s.now ∧ r.descr.src = 1 ∧ windowBase ≤ va ∧ va - windowBase + r.descr.size ≤ (s.core (4 * 0 + 17 / 16)).scrBytes ∧
     r.tile = none ∧ (s.core 1).tilesOf 0x100 4 = [] ∧ (s.core 1).scrPoisoned 0x100 4 = false) := by decide +kernel
theorem witness_queue_instructions : (∃ d ∈ ({ cmd := { chain := 0, hbase := 0, cmask := 3, sdom := 0, sdv := false, kpol := false, role := false, partw := 0 } } : Launch).clusters,
      d ≠ 0 ∧ ((seqState {}).seq d).mode ≠ .halted) ∧
    (match (gated (seqPage (regs 0x10000 6)) 0 [1, 2]).seqRead 0 0x10000 8 with | (some v, s2) => v == 0 && (s2.seqStore 0 0x10000 8 6).1 | _ => false) = true ∧
    (match (imageState elemImage (.seq 0) {}).readImage (some 0) 0 0x10000 with | (.ok (h, ws), _) => elementImageOk h ws && !ws.any wordRefused | _ => false) = true := by
  decide +kernel

/-! ## Handler nodes -/

/-- Node `n` of core 2 runs a handler with commands `cs` on a task of type 1 with packets `ps`. -/
def nodeState (n : Nat) (cs : List Instr) (nd : Node := {}) (ps : List (Nat × Wide) := []) (c : Core := {}) (reads : List Nat := []) (l : Launch := {}) : State :=
  { agent := .node 2 n, launches := [(0, l)],
    cores := [(2, { c with launch := some 0, nodes := [(n, { nd with running := some { cmds := cs, task := { ty := 1, tag := tag1, packets := ps }, reads := reads } })] })] }
def w64 (xs : List Word) : Vec := { lanes := xs ++ List.replicate (64 - xs.length) 0 }
/-- Lanes 0 and 1 of w3 after a vector command on w1 and w2. -/
def vec (i : VArgs → Instr) (vt : VType) (a b : List Word) (mod : Nat := 0) (c : Nat := 20) : Option (Word × Word) :=
  let v : VArgs := { vt := vt, d := 3, a := 1, b := 2, c := BitVec.ofNat 5 c, mod := BitVec.ofNat 3 mod }
  match exec (i v) (nodeState 17 [i v] { w := [(1, w64 a), (2, w64 b)] }) with
  | .next t => some (((Tab.get {} (t.node 2 17).w 3).lanes.getD 0 0), ((Tab.get {} (t.node 2 17).w 3).lanes.getD 1 0))
  | _ => none

theorem test_vadd : vec .vadd .f32 [0x3F800000, 0x40000000] [0x3F800000] = some (0x40000000, 0x40000000) ∧ vec .vadd .s32 [0xFFFFFFFF] [1] = some (0, 0) := by decide +kernel
theorem test_vsub_vmul : vec .vsub .s32 [0, 5] [1, 2] = some (0xFFFFFFFF, 3) ∧ vec .vmul .bf16x2 [0x40004040] [0x40404000] = some (0x40C040C0, 0) := by decide +kernel
theorem test_vmax_vmin : vec .vmax .s32 [0xFFFFFFFF] [1] = some (1, 0) ∧ vec .vmin .s32 [0xFFFFFFFF] [1] = some (0xFFFFFFFF, 0) := by decide +kernel
theorem test_vfma : vec .vfma .s32 [3, 4] [5, 6] 0 2 = some (20, 30) := by decide +kernel
theorem test_vscl : vec .vscl .s32 [3, 4] [5, 6] = some (15, 20) := by decide +kernel
theorem test_vcmp : vec .vcmp .s32 [3, 0xFFFFFFFF] [3, 0] 2 = some (0, 0xFFFFFFFF) ∧ vec .vcmp .f32 [0x7FC00000] [0] 1 = some (0xFFFFFFFF, 0) := by decide +kernel
theorem test_vsel : vec .vsel .s32 [3, 4] [0, 6] 0 2 = some (0, 4) := by decide +kernel
theorem test_vperm : vec .vperm .s32 [7, 8] [1, 64] = some (8, 7) ∧ vec .vbcast .s32 [7, 8] [1] = some (8, 8) := by decide +kernel
theorem test_vexp : vec .vexp .f32 [0, 0xFF800000] [] = some (0x3F800000, 0) ∧ vec .vrcp .f32 [0x40000000, 0] [] = some (0x3F000000, 0x7F800000) := by decide +kernel
theorem test_vrsq : vec .vrsq .f32 [0x40800000, 0] [] = some (0x3F000000, 0x7F800000) ∧ vec .vtanh .f32 [0, 0x7F800000] [] = some (0, 0x3F800000) := by decide +kernel
theorem test_vsum : vec .vsum .s32 [1, 2, 0xFFFFFFFF] [] = some (2, 2) ∧ vec .vmaxr .s32 [1, 2, 0xFFFFFFFF] [] = some (2, 2) := by decide +kernel
theorem test_vcvt : vec .vcvt .f32 [0x3F800000, 0xC0000000] [] 1 = some (0xC0003F80, 0) ∧ vec .vcvt .s32 [2] [] 0 = some (0x40000000, 0) ∧
    vec .vcvt .bf16x2 [0x40003F80] [] 0 = some (0x3F800000, 0x40000000) := by decide +kernel
theorem test_vmask : vec .vmask .f32 [5, 6] [2] = some (0xFF800000, 6) := by decide +kernel
theorem test_vargmax : vec .vargmax .f32 [0x3F800000, 0x40000000] [0x100] = some (0x40000000, 0x101) ∧ vec .vargmax .f32 [0x7FC00000] [] = some (0x7FC00000, 0xFFFFFFFF) := by decide +kernel
theorem test_vnoise_goes_on : okWith (exec (.vnoise ⟨.f32, 3, 1, 2, 0, 0⟩) (nodeState 17 [.vnoise ⟨.f32, 3, 1, 2, 0, 0⟩])) (fun t => (t.node 2 17).running.isNone) = true := by decide +kernel

/-- Tile 3 of two rows, READY and with its D mark. -/
def vtileCore (st : TileState) : Core := { cells := [(0x4104, 0x77)], tiles := [(3, { st := st, first := 1, nrow := 1, dmark := true })] }
theorem test_vtile_rd : okWith (exec (.vtileRd 5 3 1) (nodeState 17 [.vtileRd 5 3 1] {} [] (vtileCore .ready))) (fun t =>
    (Tab.get {} (t.node 2 17).w 5).lanes.getD 1 0 == 0x77 && (Tab.get {} (t.node 2 17).w 5).d) = true ∧
    goes (exec (.vtileRd 5 3 1) (nodeState 17 [.vtileRd 5 3 1] {} [] (vtileCore .filling))) (nodeState 17 [.vtileRd 5 3 1] {} [] (vtileCore .filling)) = true := by decide +kernel
theorem test_vtile_wr : okWith (exec (.vtileWr 5 3 1) (nodeState 17 [.vtileWr 5 3 1] { w := [(5, w64 [9])] } [] (vtileCore .ready))) (fun t =>
    (t.core 2).cells == [(0x4100, 9)]) = true := by decide +kernel

/-- A BF16 bank whose column 0 has 2.0 in row 0 and 1.0 in row 1. -/
def bfBank : Bank := { fmt := .bf16, codes := [[0x4000, 0x3F80] ++ List.replicate 126 0], cv := true }
theorem test_mm_run : okWith (exec (.mmRun .bf16 1 0) (nodeState 24 [.mmRun .bf16 1 0] { bank0 := bfBank } [(0, { lanes := [0x40403F80], tag := tag1 })])) (fun t =>
    (t.node 2 29).passes.map (fun p => match p with | .row a j vs tg _ _ => (a, j, vs.headD 0, tg) | .fin .. => (9, 9, 0, 0)) == [(1, 0, 0x40A00000, tag1)]) = true := by decide +kernel
theorem test_mm_run_faults : okWith (exec (.mmRun .s8 1 0) (nodeState 24 [.mmRun .s8 1 0] { bank0 := bfBank })) (fun t => (t.core 2).precise.map (fun p => p.word.toNat % 256) == [0x40]) = true ∧
    okWith (exec (.mmRun .bf16 1 0) (nodeState 24 [.mmRun .bf16 1 0])) (fun t => (t.core 2).precise.map (fun p => p.word.toNat % 256) == [0x46]) = true := by decide +kernel
theorem test_mm_end : okWith (exec (.mmEnd 2 7) (nodeState 24 [.mmEnd 2 7])) (fun t => (t.node 2 30).passes == [.fin 2 7 tag1]) = true := by decide +kernel
theorem test_mw_swap : okWith (exec (.mwSwap true) (nodeState 24 [.mwSwap true])) (fun t => (t.node 2 24).active) = true := by decide +kernel
theorem test_mm_rec_unbound : okWith (exec (.mmRec false) (nodeState 24 [.mmRec false])) (fun t => (t.core 2).precise.map (fun p => p.word.toNat % 256) == [0x52]) = true := by decide +kernel
theorem test_mm_zp_empty : okWith (exec (.mmZp 3) (nodeState 24 [.mmZp 3] { bank0 := { fmt := .q8, cv := true } })) (fun t => (t.core 2).precise.map (fun p => p.word.toNat % 256) == [0x31]) = true := by
  decide +kernel
theorem test_acc_cfg : okWith (exec (.accCfg 0x7F) (nodeState 28 [.accCfg 0x7F] { e := 9 })) (fun t => (t.node 2 28).e == 0) = true ∧
    okWith (exec (.accCfg 0x7F) (nodeState 28 [.accCfg 0x7F] { rows := [(0, { used := true })] })) (fun t => (t.core 2).precise.map (fun p => p.word.toNat % 256) == [0x43]) = true := by
  decide +kernel
theorem test_acc_rel : okWith (exec .accRel (nodeState 28 [.accRel] { rc := 3, rows := [(0, { used := true, cnt := 1, tag := tag1, a := List.replicate 128 0 })] })) (fun t =>
    (t.node 2 28).rc == 0 && !(rowAt t 2 28 0).used) = true := by decide +kernel
/-- A pass of 1.0 and -0.5 in its first two columns. -/
def pass1 : Pass := .row 0 4 ([0x3F800000, 0xBF000000] ++ List.replicate 126 0) tag1 true 0x77
theorem test_pass_arrival : okWith (exec .passArrival (nodeState 28 [] { passes := [pass1], e := 0 })) (fun t => (rowAt t 2 28 4).a.take 2 == [2 ^ 64, -(2 ^ 63)] && (rowAt t 2 28 4).cnt == 1 &&
    (rowAt t 2 28 4).d && (t.node 2 28).passes == []) = true := by decide +kernel
theorem test_end_token : okWith (exec .endTokenArrival (nodeState 28 [] { passes := [.fin 0 5 0x77] })) (fun t => (t.node 2 28).rc == 5) = true ∧
    okWith (exec .endTokenArrival (nodeState 28 [] { passes := [.fin 0 5 0x77], rc := 4 })) (fun t => (t.core 2).precise.map (fun p => p.word.toNat % 256) == [0x42]) = true := by decide +kernel

/-- Tile 3 holds the entry of scale 0.5 and zero point 8. -/
def cvCore : Core := { cells := [(0x4001, 0x38), (0x4002, 8)], tiles := [(3, { st := .ready, first := 1, nrow := 0 })] }
/-- The words that a converter command emits: its handler's port 0 is bound to memory node 4, port 0. -/
def cvState (i : Instr) (w : Wide) : State := nodeState 32 [i] {} [(0, w)] cvCore [0]
theorem test_cvf_ends : okWith (exec (.cvf .fp32 .e4m3 false) (cvState (.cvf .fp32 .e4m3 false) { lanes := [0x3F800000] })) (fun t => (t.node 2 32).running.isNone) = true := by decide +kernel
theorem test_cvf_elem : cvfElem .fp32 .bf16 .rne 0x3F808000 = .ok 0x3F80 ∧ cvfElem .fp32 .bf16 .rto 0x3F808000 = .ok 0x3F81 := by decide +kernel
theorem test_cvq_ends : okWith (exec (.cvq ⟨.fp32, .q8, false, 1, 3⟩) (cvState (.cvq ⟨.fp32, .q8, false, 1, 3⟩) { lanes := [0x3F800000] })) (fun t => (t.node 2 32).running.isNone) = true ∧
    okWith (exec (.cvdq ⟨.q8, .fp32, false, 1, 3⟩) (cvState (.cvdq ⟨.q8, .fp32, false, 1, 3⟩) { lanes := [0x0A] })) (fun t => (t.node 2 32).running.isNone) = true := by decide +kernel

theorem witness_issues : (∃ r, Issues (nodeState 17 [.vadd ⟨.f32, 3, 1, 2, 0, 0⟩]) 2 17 .vector r) ∧ (∃ r, Issues (nodeState 24 [.mwSwap true]) 2 24 .matrix r) ∧
    (∃ r, Issues (nodeState 28 [.accRel]) 2 28 .acc r) ∧ (∃ r, Issues (cvState (.cvf .fp32 .e4m3 false) {}) 2 32 .conv r) := by
  refine ⟨⟨_, rfl, by decide, rfl, rfl, by decide, by decide, by decide +kernel⟩, ⟨_, rfl, by decide, rfl, rfl, by decide, by decide, by decide +kernel⟩,
    ⟨_, rfl, by decide, rfl, rfl, by decide, by decide, by decide +kernel⟩, ⟨_, rfl, by decide, rfl, rfl, by decide, by decide, by decide +kernel⟩⟩
theorem witness_argmax : (∀ j < 64, (List.replicate 64 0xFF800000 : List Nat).getD j 0 = 0xFF800000) ∧ isNan fp32 0x7FC00000 = true ∧ fkey fp32 0x3F800000 < fkey fp32 0x40000000 := by decide +kernel
theorem witness_vtiles : ((vtileCore .ready).tile 3).st = .ready ∧ (1 : BitVec 14).toNat ≤ ((vtileCore .ready).tile 3).nrow ∧ ((vtileCore .ready).tile 3).nrow < (2 : BitVec 14).toNat ∧
    ((vtileCore .ready).tile 4).st = .empty ∧ (vtileCore .ready).scrPoisoned 0x4100 256 = false := by decide +kernel
/-- R203: a Q8 record of one tile, its codes in an OPEN page. -/
def recordWords : List Word := [0x20000, 0, 0, 0, 0x81000000, 128, 128, 0, 0, 0x00030000, 0, 0, 0, 0, 0, 0]
def recordState : State :=
  let s := imageState recordWords (.node 0 24) { nodes := [(24, { running := some { cmds := [.mwLoad .q8 0 false 0], task := { ty := 1, tag := tag1, packets := [] } } })] }
  { s with launches := s.launches.map fun (x : Nat × Launch) => (x.1, { x.2 with cmd := { x.2.cmd with hbase := 0x50000 }, adapters := [(0, 2 ^ 31)] }) }.onCore 0 fun c => { c with tlb := [⟨3, 0, 0x20000, leaf 0 0 true true 0x60000⟩] }
theorem witness_record : (match recordState.opRecord 0 0 with | (some r, _) => r.fmt == .q8 && r.grp == 0 && r.wport && r.slot && !r.sv && r.szbase == 0 | _ => false) = true ∧
    (match recordState.opRecord 0 1 with | (none, _) => true | _ => false) = true := by decide +kernel
theorem witness_load_bank : (match recordState.opRecord 0 0 with
    | (some r, s1) => (match s1.coreLaunch 0 with
        | some (_, l) => (match s1.loadBank 0 l 0 r with | (.ok _, _) => true | _ => false)
        | none => false)
    | _ => false) = true := by decide +kernel
theorem witness_pass_values : (∀ v ∈ ([.fin false 3 0, .fin true 1 (-2)] : List FVal), ∃ s m e, v = .fin s m e ∧ -300 ≤ e) ∧ passValue [.fin false 3 0] [.fin true 1 (-2)] = 0xBF400000 ∧
    passValue [.inf false] [.fin true 1 0] = 0xFF800000 ∧ passValue [.inf false] [.fin true 0 0] = 0x7FC00000 ∧ passValue [.nan false 1] [.fin false 1 0] = 0x7FC00000 := by
  refine ⟨?_, by decide +kernel, by decide +kernel, by decide +kernel, by decide +kernel⟩
  intro v hv; fin_cases hv <;> exact ⟨_, _, _, rfl, by decide⟩
theorem witness_matrix_runs : (let s := nodeState 24 [.mmRun .bf16 1 0] { bank0 := bfBank } [(0, { lanes := [1] })]
    s.accRows 2 = 1024 ∧ bfBank.cv = true ∧ bfBank.poison = false ∧ bfBank.fmt = .bf16 ∧ s.pendingA 2 24 = none) := by decide +kernel
theorem witness_accumulator : (let s := nodeState 28 [] { passes := [pass1] }
    s.agent = .node 2 28 ∧ nodeKindOf 28 = some .acc ∧ s.vanishes 2 tag1 = false ∧ (rowAt s 2 28 4).poison = false ∧ (rowAt s 2 28 4).used = false) := by decide +kernel
theorem witness_converter : (∀ p ∈ [0], ∃ w, ([(0, ({} : Wide))] : List (Nat × Wide)).find? (fun x => x.1 = p) = some (p, w)) ∧ (cvCore.tile 3).st = .ready ∧ cvCore.scrPoisoned 0x4000 256 = false ∧
    entryBad .q8 0x00083800 = false ∧ entryBad .q8 0x01000000 = true ∧ fmtFloat .fp32 = some fp32 := by
  refine ⟨?_, by decide +kernel, by decide +kernel, by decide +kernel, by decide +kernel, rfl⟩
  intro p hp; fin_cases hp; exact ⟨_, rfl⟩

/-! ## Steps, matching and commits -/

/-- What a step runs is what its agent holds (R63, R68, R110, R134, R307). -/
theorem witness_fetch : (let s : State := { cores := [(0, { fifo := [(0, 0x41861000)], nodes := [(17, { running := some { cmds := [.accRel], task := { ty := 0, tag := 0, packets := [] } } })],
                                                            elems := [(4, { instr := some (.add plainArgs) })] })],
                                            seqs := [(0, { mode := .run, ranNative := true, imem := [(0, 0b001_1001101_0000000000000000000000)] }), (1, { mode := .run, ranNative := true, imem := [(0, 0xFFFFFFFF)] })],
                                            queues := [(3, { head := .running (.modeSet {} 1) })], ports := [(2, { arrived := [(0, { ptype := 4, ver := 1 })] })] }
    s.fetch (.seq 0) = some (.halt 1, s) ∧ s.fetch (.seq 1) = some (.illegalSequencerInstruction, s) ∧ s.fetch (.config 0) = some (.frameOpen 3 3 2, s) ∧
    s.fetch (.elem 0 4) = some (.add plainArgs, s) ∧ s.fetch (.node 0 17) = some (.accRel, s) ∧ s.fetch (.queue 3) = some (.modeSet {} 1, s) ∧ s.fetch (.port 2) = some (.rel, s)) := by decide +kernel
theorem witness_fetch_trap : (let s : State := { seqs := [(0, { mode := .wait, tvec := 0x800, ctxfaults := [3] })] }
    (s.seq 0).trapPends = true ∧ s.fetch (.seq 0) = some (.ctxfaultTake, s)) ∧ ({ mode := .run, tvec := 0x800, ctxfaults := [3], intrap := true } : Seq).trapPends = false := by decide +kernel
theorem witness_fetch_bad_word : ({ cores := [(0, { fifo := [(0, 0x41861001)] })] } : State).fetch (.config 0) = some (.reservedFrameWord, { cores := [(0, { fifo := [(0, 0x41861001)] })] }) := by decide +kernel
theorem witness_step : (let s : State := { agenda := [.run (.elem 2 5)], agent := .device, launches := (elemState (toksOf [1, 2]) tag1).launches,
                                           cores := (elemState (toksOf [1, 2]) tag1).cores }
    (s.onElem 2 5 fun el => { el with instr := some (.add (argsOf .s32 2)) }).fetch (.elem 2 5) ≠ none ∧
    okWith (step (s.onElem 2 5 fun el => { el with instr := some (.add (argsOf .s32 2)) })) (fun t => sentVals t == [3] && t.agenda == []) = true) := by decide +kernel
theorem witness_event : encode .tier3Reinject = [] ∧ goes (step { agenda := [.event (.core 2) .tier3Reinject] }) { agent := .core 2 } = true ∧
    stopsWith (step { agenda := [.event (.core 64) .tier3Reinject] }) .noSuchResource = true ∧ stopsWith (step { agenda := [.event .device .tier3Reinject] }) .wrongAgent = true := by decide +kernel

/-- Element 5 of core 2 with a token in its queue and these tokens in tier 1. -/
def matchState (t : Token) (stored : List Token) (i : Instr := .add (argsOf .s32 2)) (c : Core := {}) : State :=
  { agent := .elem 2 5, launches := [(0, {})], board := { cycle := 5 }, nextId := 9,
    cores := [(2, { c with launch := some 0, frames := [(0, { map := [(1, 7), (2, 8)] })],
                           elems := [(5, { frame := 0, slot := 3, instr := some i, queue := [{ tok := t, entered := 0 }], tier1 := stored })] })] }
def firedVals (s : State) : List (List (Option Word)) := (s.elem 2 5).fired.map fun x => x.toks.map fun t => t.map (·.val)
theorem test_matcher_completes : okWith (exec .matcherTake (matchState (okTok 1 4) [okTok 0 3])) (fun t => firedVals t == [[some 3, some 4, none, none]] && (t.core 2).stored 5 == [] &&
    (t.elem 2 5).takeFrom == 6) = true ∧
    okWith (exec .matcherTake (matchState (okTok 1 4) [{ okTok 0 3 with ma := .sticky, tag := 0x0001000000000000 }])) (fun t => firedVals t == [[some 3, some 4, none, none]] &&
      ((t.core 2).stored 5).length == 1) = true := by decide +kernel
theorem test_matcher_stores : okWith (exec .matcherTake (matchState (okTok 1 4) [])) (fun t => firedVals t == [] && (t.core 2).stored 5 == [{ okTok 1 4 with ord := 9 }]) = true ∧
    okWith (exec .matcherTake (matchState (okTok 0 4) [] (.clz (argsOf .s32 1)))) (fun t => firedVals t == [[some 4, none, none, none]]) = true := by decide +kernel
theorem witness_takes_token : TakesToken (matchState (okTok 1 4) [okTok 0 3]) 2 5 0x001 (argsOf .s32 2) { tok := okTok 1 4, entered := 0 } ∧ (okTok 1 4).ma = .normal ∧
    (argsOf .s32 2).sub = none ∧ (okTok 1 4).slot ≤ (argsOf .s32 2).arity.toNat ∧
    ((matchState (okTok 1 4) [okTok 0 3]).core 2).stored 5 = [okTok 0 3] ∧ stickyCovers { okTok 0 3 with ma := .sticky, tag := 0x0001000000000000 } tag1 = true ∧
    TakesToken (matchState (okTok 0 4) [] (.clz (argsOf .s32 1))) 2 5 0x015 (argsOf .s32 1) { tok := okTok 0 4, entered := 0 } ∧
    ((matchState (okTok 1 4) []).core 2).room1 5 = true := by decide +kernel
/-- R51: a second NORMAL token of one slot and tag gives DUPTAG 7 on every target. -/
theorem test_matcher_duptag : okWith (exec .matcherTake (matchState (okTok 1 4) [okTok 1 3])) (fun t => sentVals t == [0x0708A000] && (t.core 2).stored 5 == [okTok 1 3]) = true := by decide +kernel
theorem test_matcher_sticky : okWith (exec .matcherTake (matchState { okTok 1 4 with ma := .sticky } [])) (fun t => ((t.core 2).stored 5).map (·.ma) == [.sticky]) = true ∧
    okWith (exec .matcherTake (matchState { okTok 1 4 with ma := .purge } [{ okTok 1 3 with ma := .sticky }])) (fun t => (t.core 2).stored 5 == [] && firedVals t == []) = true ∧
    sameSticky { okTok 1 3 with ma := .sticky } { okTok 1 4 with ma := .purge } = true := by decide +kernel
/-- A set whose search of tier 2 comes back in this cycle. -/
def searchState : State := (matchState (okTok 1 4) []).onElem 2 5 fun el => { el with fired := [{ toks := [], tag := tag1, due := 0, inst := 0, search := some 5 }] }
theorem test_search_return : okWith (exec .tier2SearchReturn searchState) (fun t => (t.elem 2 5).fired.map (fun x => (x.search, x.due)) == [(none, 6)]) = true ∧ searchState.now = 5 := by decide +kernel
/-- R341: the timer of a stored b token has expired. -/
def timerState : State := (matchState (okTok 0 4) [okTok 1 2 true] (.waitT (argsOf .n32 2))).onElem 2 5 fun el => { el with timers := [{ tag := tag1, expiry := 4 }] }
theorem test_wait_timeout : okWith (exec .waitTTimeout timerState) (fun t => (t.elem 2 5).tombs == [tag1] && (t.elem 2 5).timers == [] && (t.core 2).stored 5 == [] && sentVals t == [0] &&
    (t.core 2).transit.all fun x => match x.msg with | .narrow y _ => y.d | _ => false) = true ∧ (timerState.elem 2 5).expired 5 = some { tag := tag1, expiry := 4 } ∧
    exactMatch ((timerState.core 2).stored 5) 1 tag1 = some (okTok 1 2 true) := ⟨by decide +kernel, by decide +kernel, by decide +kernel⟩
/-- R50, R327: an entry of tier 1 is reserved for the token in tier 3. -/
def tier3State : State := { matchState (okTok 0 1) [] with agent := .core 2 }.onCore 2 fun c => { c with tier3 := [okTok 1 8], reserved1 := [5] }
theorem test_reinject : okWith (exec .tier3Reinject tier3State) (fun t => (t.core 2).tier3 == [] && (t.elem 2 5).queue.map (fun q => (q.tok.val, q.hold)) == [(1, none), (8, some false)]) = true ∧
    (tier3State.core 2).entryFor (okTok 1 8) = some false ∧ goes (exec .tier3Reinject { agent := .core 2 }) { agent := .core 2 } = true := by decide +kernel
/-- Two tokens of element 5 in tier 3, the tag of the second being the older. -/
def tier3Pair : State := { matchState (okTok 0 1) [] with agent := .core 2 }.onCore 2 fun c =>
  { c with frames := [(0, { levels := [(0, 4)] })], tier3 := [okTok 1 8, { okTok 1 9 with tag := 0x0001000000000004 }] }
theorem test_reinject_oldest : okWith (exec .tier3Reinject tier3Pair) (fun t => (t.core 2).tier3.map (·.val) == [8] && (t.elem 2 5).queue.map (fun q => (q.tok.val, q.hold)) == [(1, none), (9, some false)]) = true ∧
    tagOlder ((tier3Pair.core 2).frame 0).levels 0x0001000000000004 tag1 = true := by decide +kernel
/-- R69: two tokens are held for element 5, whose frame accepts tokens, and one for a frame that does not. -/
def heldState : State := { matchState (okTok 0 1) [] with agent := .core 2 }.onCore 2 fun c =>
  { c with frames := [(0, { status := .closed, acceptFrom := some 0 })], arrival := [⟨.elem 5 1, okTok 0 7, false⟩, ⟨.elem 1023 0, okTok 0 9, false⟩, ⟨.elem 5 0, okTok 0 8, false⟩] }
theorem test_arrival_release : okWith (exec .arrivalBufferRelease heldState) (fun t => (t.elem 2 5).queue.map (fun q => (q.tok.slot, q.tok.val)) == [(0, 1), (1, 7), (0, 8)] &&
    (t.core 2).arrival.map (·.dest) == [.elem 1023 0]) = true ∧ (heldState.core 2).lost = [] ∧ (heldState.elem 2 5).blocked = false := by decide +kernel

/-- Instance `tag1` of frame 0, whose store is held; its block's commit output leads to frame 1 by `next`. -/
def commitState (i : Instance := { frame := 0, tag := tag1 }) (next : CommitNext := .frame 1 (.next 0 3)) : State :=
  { agent := .inst 2 0 tag1, launches := [(0, {})],
    cores := [(2, { launch := some 0, frames := [(0, { cnext := some next })], insts := [i], commits := [(0, tag1)],
                    accesses := [{ id := 3, elem := 5, frame := 0, slot := 3, instr := .stx (memArgs .n32 2), toks := toksOf [win 0x100, 1], tag := tag1, inst := tag1, stage := .held }] })] }
theorem test_commit : okWith (exec .commitInstance commitState) (fun t => (t.core 2).commits == [(1, 0x0001000000000006)] && (t.core 2).accesses.map (·.stage) == [.ready] &&
    (t.core 2).insts.map (·.committed) == [true]) = true ∧
    okWith (exec .commitInstance (commitState { frame := 0, tag := tag1 } .last)) (fun t => (t.core 2).commits == []) = true ∧
    okWith (exec .commitInstance (commitState { frame := 0, tag := tag1 } (.here (.next 0 3)))) (fun t => (t.core 2).commits == [(0, 0x0001000000000006)]) = true := by decide +kernel
theorem test_commit_incomplete : goes (exec .commitInstance (commitState { frame := 0, tag := tag1, faulted := true })) (commitState { frame := 0, tag := tag1, faulted := true }) = true := by
  decide +kernel
theorem witness_commit : (commitState.core 2).complete { frame := 0, tag := tag1 } = true ∧ commitState.ctxRuns 2 (ctxOf tag1) = true ∧ (commitState.core 2).inst? 0 tag1 = some { frame := 0, tag := tag1 } ∧
    tagApply (.next 0 3) tag1 = .ok 0x0001000000000006 := by decide +kernel
/-- A precise fault of context 0 waits on core 2, of a launch of partition 1. -/
def faultState (kpol : Bool) : State :=
  { agent := .core 2, parts := [(1, { units := [0] })], seqs := [(0, { tvec := 0x800 })],
    launches := [(0, { part := some 1, q := 4, cid := 0x22, cmd := { chain := 0, hbase := 0, cmask := 3, sdom := 0, sdv := false, kpol := kpol, role := false, partw := 0 } })],
    cores := [(2, { launch := some 0, elems := [(5, { tier1 := [okTok 0 1] })],
                    precise := [{ word := 0x04000020, otag := tag1, itag := tag1, d := false, place := { node := 16 }, ctx := 0, va := some 0x100 }] })] }
theorem test_precise_suspends : okWith (exec .faultPrecise (faultState false)) (fun t => (t.launch 0).fates == [(0, .suspended false)] && (t.seq 0).ctxfaults == [0] && (t.seq 1).ctxfaults == [] &&
    (t.core 2).precise == [] && (t.elem 2 5).tier1 == [okTok 0 1]) = true := by decide +kernel
theorem test_precise_kills : okWith (exec .faultPrecise (faultState true)) (fun t => (t.launch 0).fates == [(0, .killed)] && (t.launch 0).kills == 1 && (t.elem 2 5).tier1 == []) = true := by
  decide +kernel
theorem witness_precise : (faultState true).coreLaunch 2 = some (0, (faultState true).launch 0) ∧
    (∀ p ∈ ((faultState true).core 2).precise, (faultState true).reportable 2 ((faultState true).launch 0) p = true ∧ p.va = some 0x100 ∧ ((faultState true).launch 0).ctxKilled p.ctx = false) ∧
    Tab.find? ((faultState true).launch 0).fates 0 = none := by decide +kernel

/-- R429: the fault of a stream waits for its record, and the block input 3 of frame 0 leads to element 7 by then. -/
def streamedState : State := (faultState false).onCore 2 fun c =>
  { c with frames := [(0, { status := .closed, nin := 4, bins := [(3, (1, 0))], map := [(1, 7)] })], streamFaults := [{ otag := tag1, code := 4, frame := 0, input := 3 }],
           precise := c.precise.map fun p => { p with word := 0x04084020 } }
theorem witness_stream_word : originCore 0x04084020 = 2 ∧ (streamedState.core 2).inputOrigin 0 3 = 7 ∧ (streamedState.recordWord 0x04084020 tag1).1 = 0x0408E020 ∧
    ((faultState false).recordWord 0x04000020 tag1).1 = 0x04000020 := by decide +kernel

/-! ## Messages at nodes, copies and drains -/

/-- A message stands before port `port` of node `n` of core 2, which serves launch 0 of partition 1. -/
def mailState (n port : Nat) (m : Msg) (nd : Node := {}) (c : Core := {}) : State :=
  { agent := .node 2 n, launches := [(0, { part := some 1 })], parts := [(1, { nslot := 4 })],
    cores := [(2, { c with launch := some 0, nodes := [(n, nd)], transit := [{ chan := [1], dest := .node n port, ready := 0, msg := m }] })] }
def wideMsg (f : Bool := false) (tag : Tag := tag1) (v : Word := 0x04000020) : Msg := .wide { lanes := [v, 0x33, 0], tag := tag, task := 3, f := f }
/-- The code and the detail of the precise faults of core 2. -/
def faults (s : State) : List (Nat × Nat) := (s.core 2).precise.map fun p => (p.word.toNat / 2 ^ 24, p.word.toNat % 256)

theorem test_packet_pends : okWith (exec .nodePacketArrival (mailState 17 1 (wideMsg))) (fun t => (t.node 2 17).pending.map (fun p => (p.ty, p.formed)) == [(3, false)] && (t.core 2).transit == []) = true ∧
    okWith (exec .nodePacketArrival (mailState 17 1 (wideMsg) { handlers := [(3, ⟨0, [], [1]⟩)] })) (fun t => (t.node 2 17).pending.map (·.formed) == [true]) = true ∧
    okWith (exec .nodePacketArrival (mailState 17 1 (wideMsg) { handlers := [(3, ⟨0, [], [0, 1]⟩)] })) (fun t => (t.node 2 17).pending == [] && ((t.node 2 17).port 1).length == 1) = true := by decide +kernel
theorem test_packet_fault : okWith (exec .nodePacketArrival (mailState 24 1 (wideMsg true))) (fun t => faults t == [(4, 0x20)]) = true := by decide +kernel
theorem witness_packet : (let s := mailState 17 1 (wideMsg)
    s.nextTaken 2 17 = some (0, { chan := [1], dest := .node 17 1, ready := 0, msg := wideMsg }) ∧ s.vanishes 2 tag1 = false ∧ nodeKindOf 17 = some .vector ∧ (s.node 2 17).ports.length = 4 ∧
    (mailState 24 1 (wideMsg true)).nextTaken 2 24 ≠ none) := by decide +kernel
/-- A task of type 3 waits at vector node 17. -/
def taskState (fault : Option Wide) : State :=
  { agent := .node 2 17, launches := [(0, {})],
    cores := [(2, { launch := some 0, nodes := [(17, { handlers := [(3, ⟨0, [.vadd vargs], [0]⟩)], pending := [{ ty := 3, tag := tag1, packets := match fault with | some w => [(0, w)] | none => [(0, {})] }] })] })] }
theorem test_dispatch : okWith (exec .handlerDispatch (taskState none)) (fun t => (t.node 2 17).running.isSome && (t.node 2 17).pending == []) = true ∧
    okWith (exec .handlerDispatch (taskState (some { lanes := [1], f := true }))) (fun t => (t.node 2 17).running.isNone && (t.node 2 17).pending == []) = true := by decide +kernel
theorem witness_dispatch : (taskState none).coreLive 2 = true ∧ (taskState none).ctxRuns 2 (ctxOf tag1) = true ∧ (({ ty := 3, tag := tag1, packets := [(0, { lanes := [1], f := true })] } : Task).fault).isSome = true := by
  decide +kernel

/-- A token of task type 3 at port 0 of memory node 4: its tile is 3, its position 5. -/
def gatherMsg (pos : Nat := 5) : Msg := .narrow { tag := BitVec.ofNat 64 (2 ^ 48 + pos), val := 0x99 } 3
def gtile (st : TileState) (i : Bool := false) (e : List Nat := []) : Core := { tiles := [(3, { st := st, first := 1, nrow := 1, isI := i })], empties := e }
theorem test_gather : okWith (exec .gatherWrite (mailState 4 0 gatherMsg {} (gtile .ready))) (fun t => (t.core 2).cells == [(0x4014, 0x99)]) = true ∧
    okWith (exec .gatherWrite (mailState 4 0 gatherMsg {} (gtile .empty))) (fun t => faults t == [(4, 0x31)]) = true ∧
    okWith (exec .gatherWrite (mailState 4 0 (gatherMsg 128) {} (gtile .ready))) (fun t => faults t == [(4, 0x30)]) = true ∧
    okWith (exec .gatherWrite (mailState 4 0 gatherMsg {} (gtile .ready true))) (fun t => faults t == [(9, 0)]) = true ∧
    okWith (exec .gatherWrite (mailState 4 0 gatherMsg {} (gtile .ready true [0x1005]))) (fun t => (t.core 2).empties == []) = true := by decide +kernel
theorem test_gather_waits : okWith (exec .gatherWrite (mailState 4 0 gatherMsg {} (gtile .draining))) (fun t => (t.core 2).gathers.length == 1 && (t.core 2).transit == []) = true := by decide +kernel
theorem witness_next_message : NextMessage (mailState 4 0 gatherMsg) 2 4 0 { chan := [1], dest := .node 4 0, ready := 0, msg := gatherMsg } 0 ∧
    ((gtile .ready).tile 3).bytes = 512 ∧ (gtile .ready true).scrFull 0x1005 = true := by decide +kernel
theorem test_serpent_port : okWith (exec .serpentPortStray (mailState 35 0 (wideMsg))) (fun t => faults t == [(4, 0x9D)]) = true := by decide +kernel
/-- A tag of sequence slot 2. -/
def slotTag : Tag := 0xC021000000000005
theorem test_commit_node : okWith (exec .commitNodeResult (mailState 34 0 (wideMsg true slotTag))) (fun t => faults t == [(4, 0x20)]) = true ∧
    okWith (exec .commitNodeResult (mailState 34 2 (wideMsg false slotTag))) (fun t => faults t == [(4, 0x95)]) = true ∧
    okWith (exec .commitNodeResult (mailState 34 0 (wideMsg))) (fun t => faults t == [(4, 0x94)]) = true ∧
    okWith (exec .commitNodeResult (mailState 34 0 (wideMsg false 0xC041000000000005))) (fun t => faults t == [(4, 0x90)]) = true ∧
    okWith (exec .commitNodeResult (mailState 34 1 (wideMsg false slotTag 3))) (fun t => faults t == [(4, 0x9A)]) = true ∧
    okWith (exec .commitNodeResult (mailState 34 1 (wideMsg false slotTag 8))) (fun t => faults t == [(4, 0x9A)]) = true ∧
    okWith (exec .commitNodeResult (mailState 34 0 (wideMsg false slotTag))) (fun t => faults t == [] && (t.core 2).results.length == 1) = true := by decide +kernel
theorem witness_commit_node : slotOf slotTag = some 2 ∧ slotOf tag1 = none ∧ (mailState 34 0 (wideMsg)).corePart 2 = some 1 ∧ (({ nslot := 4 } : Partition).hasSlot 2) = true ∧
    (({ nslot := 4 } : Partition).hasSlot 4) = false := by decide +kernel

/-- A released copy of row 1 of tile 3 to row 0 of tile 4 of the same core (R278). -/
def copyState (st : TileState) (stage : AccStage) (a : Word := 0x03200100) : State :=
  { accState (.send (memArgs .n32 2)) [a, 0x04000000] { tiles := [(3, { st := st, first := 1, nrow := 1 }), (4, { st := .filling, first := 4, nrow := 0 })], cells := [(0x4100, 7)] } with }.onCore 2
    (·.onAccess 7 fun y => { y with stage := stage, va := windowBase + 0x10000 })
theorem test_copy_starts : okWith (exec .sendCopy (copyState .ready .ready)) (fun t => ((t.core 2).tile 3).st == .draining && ((t.core 2).access? 7).map (·.stage) == some .copying) = true ∧
    goes (exec .sendCopy (copyState .filling .ready)) (copyState .filling .ready) = true ∧
    okWith (exec .sendCopy (copyState .empty .ready)) (fun t => sentVals t == [0x0408A031]) = true ∧ okWith (exec .sendCopy (copyState .ready .ready 0x03200101)) (fun t => sentVals t == [0x0408A030]) = true := by
  decide +kernel
theorem test_copy_row : okWith (exec .sendCopy (copyState .draining .copying 0x03200001)) (fun t => ((t.core 2).access? 7).map (·.row) == some 1 && (t.core 2).cells == [(0x4100, 7)]) = true ∧
    okWith (exec .sendCopy (copyState .draining .copying)) (fun t => (t.core 2).cells == [(0x4100, 7), (0x10000, 7)] && ((t.core 2).tile 3).st == .ready && sentVals t == [0x03200100]) = true := by decide +kernel
theorem witness_copy : (let s := copyState .ready .ready
    s.agent = .access 2 7 ∧ ((s.core 2).access? 7).map (·.opc) = some 0x14D ∧ (accOf s).opnds.val 0 = 0x03200100 ∧ (s.core 2).copyBehind (accOf s) = false ∧
    (s.coreLaunch 2).all (fun l => l.2.st != .stopped) = true ∧ (s.core 2).scrPoisoned 0x4000 256 = false) := by decide +kernel
/-- R433: no copy of a suspended context starts. -/
theorem test_copy_suspended : (let s := (copyState .ready .ready).onLaunch 0 fun x => { x with fates := [(ctxOf tag1, .suspended false)] }
    goes (exec .sendCopy s) s && (s.coreLaunch 2).any (fun l => l.2.ctxSuspended (ctxOf (accOf s).inst))) = true ∧
    (let s := copyState .draining .copying 0x03200001
     (s.core 2).accesses.map (·.id) = [7] ∧ (accOf s).ringAt = none) := by decide +kernel
/-- R334: the first episode's DONE is due at cycle 3. -/
def doneState (now : Nat) : State := { agent := .route 1 2, board := { cycle := now }, parts := [(1, { routes := [(2, { holder := some 0, nm1 := 1, ep := 1, due := [3] })] })] }
theorem test_barrier_done : okWith (exec .barrierDone (doneState 3)) (fun t => (Tab.get {} (t.part 1).routes 2).done == 1 && (Tab.get {} (t.part 1).routes 2).due == []) = true ∧
    goes (exec .barrierDone (doneState 2)) (doneState 2) = true := by decide +kernel
/-- R359: the drain of a KV page of slot 2, held up by a `kv.free` that has been performed. -/
def drainState (i : Instr) (busy : List Access := []) (freed : Tab DWord := []) : State :=
  let s := accState i [0] {} 4 { part := some 1, q := 9 }
  { s with agent := .device, parts := [(1, { nslot := 4 })], slots := [(2, { st := .opened, held := 1, pages := if freed = [] then [(5, kvEntry true 1 77)] else [] })],
           drains := [{ slot := 2, pages := [5], freed := freed, core := 2, access := 7 }] }.onCore 2 fun c =>
    { c with accesses := c.accesses.map (fun (y : Access) => { y with stage := .waiting }) ++ busy, insts := [{ frame := 1, tag := 0, committed := true }] }
theorem test_kv_drain_attach : okWith (exec .kvDrainDone (drainState (.kvAttach (memArgs .n32 2)))) (fun t => t.drains == [] && Tab.get 0 (t.slot 2).pages 5 == kvEntry true 9 77) = true := by decide +kernel
theorem test_kv_drain_free : okWith (exec .kvDrainDone (drainState (.kvFree (memArgs .n32 1)) [] [(5, kvEntry false 1 77)])) (fun t => t.drains == [] && (t.slot 2).held == 0 &&
    (t.part 1).kvFree == [77] && sentVals t == [1]) = true ∧ (drainState (.kvFree (memArgs .n32 1)) [] [(5, kvEntry false 1 77)]).kvSeen 2 5 = some (kvEntry false 1 77) := by decide +kernel
theorem witness_drain : (drainState (.kvFree (memArgs .n32 1))).pageStores 2 5 = false ∧ (drainState (.kvFree (memArgs .n32 1))).corePart 2 = some 1 ∧ kvShared (kvEntry true 1 77).toNat = true ∧
    kvFrame (kvEntry true 1 77).toNat = 77 ∧
    (drainState (.kvFree (memArgs .n32 1)) [{ id := 9, elem := 0, frame := 1, slot := 0, instr := .stx (memArgs .n32 2), toks := [], tag := 0, inst := 0, va := kvBase + 2 * 2 ^ 28 + 5 * 2 ^ 16 + 65532, width := 4 }]).pageStores 2 5 = true := by
  decide +kernel

/-! ## Phases, chains and the scheduler -/

/-- The walkers of ASID 3 hold a table of each level and a leaf of the first level; its root entry is in host memory (R381, R383). -/
def walked (s : State) (va e : Nat) : State :=
  { s with parts := [(1, { units := [0], first := 3, count := 1, rootHost := true, nslot := 4 })], hostMem := [(71, 0x80)],
           walkers := [⟨3, 4, 0, 2 ^ 63⟩, ⟨3, 3, 0, 2 ^ 63⟩, ⟨3, 2, 0, 2 ^ 63⟩, ⟨3, 1, 0, 2 ^ 63⟩, ⟨3, 0, va, e⟩] }
/-- Launch 0 on cluster 0, its sequencer in a waiting instruction. -/
def phaseState (q : Seq) (x : Launch := {}) (c : Core := {}) : State :=
  let s : State :=
  { agent := .launch 0, launches := [(0, { x with asid := 3, part := some 1, phase := 4, cmd := { chain := 0, hbase := 0x71200, cmask := 1, sdom := 0, sdv := false, kpol := false, role := false, partw := 0 } })],
    cache := (List.range 128).map fun i => (0xA00 + i, { cls := 5, sdom := 0, part := 1, key := 0 }),
    seqs := [(0, { q with mode := .wait, ranNative := true, pc := 0x100 })], cores := [(2, { c with launch := some 0 })] }
  walked s 0x10000 (leaf 5 0 true false 0x50000)
theorem test_quiescence : okWith (exec .quiescenceDetect (phaseState { waitFor := .pbar 7 } { isOpen := true } { elems := [(5, { tier1 := [{ okTok 0 1 with ma := .sticky }], tombs := [tag1] })] })) (fun t =>
    !(t.launch 0).isOpen && (t.launch 0).ended == 4 && (t.elem 2 5).tier1 == [] && (t.elem 2 5).tombs == []) = true ∧
    goes (exec .quiescenceDetect (phaseState { waitFor := .pbar 7 } { isOpen := true } { elems := [(5, { tier1 := [okTok 0 1] })] }))
      (phaseState { waitFor := .pbar 7 } { isOpen := true } { elems := [(5, { tier1 := [okTok 0 1] })] }) = true := by decide +kernel
theorem witness_quiescence : (let s := phaseState { waitFor := .pbar 7 } { isOpen := true }
    let x := s.launch 0
    Tab.find? s.launches 0 = some x ∧ s.quiescent x = true ∧ (∀ k ∈ x.cores, (s.core k).phaseWaits = [] ∧ (s.core k).parked = 0) ∧ s.faultsOpen x = false) ∧
    (let s := phaseState { waitFor := .pbar 7 } { isOpen := true } { elems := [(5, { tier1 := [okTok 0 1] })] }
     s.quiescent (s.launch 0) = false) := by decide +kernel
theorem test_boundary_opens : okWith (exec .phaseBoundary (phaseState { waitFor := .pbar 7 })) (fun t => (t.launch 0).phase == 5 && (t.launch 0).isOpen && (t.seq 0).reg 7 == 5 && (t.seq 0).pc == 0x104 &&
    (t.seq 0).phase == 5) = true ∧ okWith (exec .phaseBoundary (phaseState { waitFor := .pbarFinal 7 } { ended := 4 })) (fun t => (t.seq 0).reg 7 == 4 && !(t.launch 0).isOpen) = true ∧
    okWith (exec .phaseBoundary (phaseState { waitFor := .halt })) (fun t => (Tab.find? t.launches 0).isNone) = true ∧
    goes (exec .phaseBoundary (phaseState { waitFor := .pbar 7 } { isOpen := true })) (phaseState { waitFor := .pbar 7 } { isOpen := true }) = true := by decide +kernel
theorem witness_boundary : (let s := phaseState { waitFor := .pbar 7 }
    let x := s.launch 0
    x.st = .running ∧ x.isOpen = false ∧ s.sequencersWait x = true ∧ x.clusters = [0] ∧ (s.seq 0).mode = .wait ∧ (s.seq 0).waitFor = .pbar 7 ∧ GoodPc (s.seq 0) ((s.seq 0).pc + 4) ∧
    (match s.readAdapters x.asid x.cmd.hbase.toNat with | (.ok t, s1) => decide (t = [] ∧ s1.seqs = s.seqs ∧ s1.launches = s.launches) | _ => false) = true) := by decide +kernel

/-- The loader of cluster 0 at a block (R136). -/
def chainState (ws : List Word) (q : Seq := {}) (links : List Nat := []) : State :=
  let s := seqPage {} (writeBytes [] 0x50000 (ws.flatMap fun (w : Word) => leBytes w.toNat 4))
  let s := s.onSeq 0 fun y => { y with ranNative := q.ranNative, chainNext := q.chainNext, chainFirst := q.chainFirst }
  { s.onLaunch 0 (fun x => { x with links := links }) with agent := .loader 0 }
def block (w0 : Word) (ps : List Word) (nx : Word := 0) : List Word := w0 :: ps ++ List.replicate (13 - ps.length) 0 ++ [nx, 0]
def at1 : Seq := { chainNext := 0x10000, chainFirst := true }
theorem test_chain_params : okWith (exec .chainBlockLoad (chainState (block 0x04100002 [5, 0, 6, 1] 0x10040) at1)) (fun t => (t.seq 0).params == [5, 0x100000006] && (t.seq 0).chainNext == 0x10040 &&
    !(t.seq 0).chainFirst) = true := by decide +kernel
theorem test_chain_phase_end : okWith (exec .chainBlockLoad (chainState (block 0x03100000 [] 0x10040) at1)) (fun t => (t.seq 0).sawPhase && (t.seq 0).gen.map (·.instr) == [.pbar 0 0]) = true ∧
    okWith (exec .chainBlockLoad (chainState (block 0x0F100000 []) at1)) (fun t => (t.seq 0).chainEnded && (t.seq 0).gen.map (·.instr) == [.pbarFinal 0 0, .halt 0]) = true := by decide +kernel
theorem test_chain_malformed : okWith (exec .chainBlockLoad (chainState (block 0x04100000 []) at1)) (fun t => (t.launch 0).failure == some { status := 0x13, detail1 := 0x10000 }) = true ∧
    okWith (exec .chainBlockLoad (chainState (block 0x04100007 []) at1)) (fun t => (t.launch 0).failure == some { status := 0x13, detail1 := 0x10000 }) = true ∧
    okWith (exec .chainBlockLoad (chainState (block 0x02100001 [0x4000]) at1)) (fun t => (t.launch 0).failure == some { status := 0x13, detail1 := 0x10000 }) = true ∧
    okWith (exec .chainBlockLoad (chainState (block 0x03100000 [] 0x10044) at1)) (fun t => (t.launch 0).failure == some { status := 0x13, detail1 := 0x10044 }) = true ∧
    okWith (exec .chainBlockLoad (chainState [] { at1 with chainNext := 0x90000 })) (fun t => (t.launch 0).failure == some { status := 4, detail1 := 0x90000 }) = true := by decide +kernel
theorem test_chain_links : okWith (exec .chainBlockLoad (chainState [] { chainFirst := false } [0x10080])) (fun t => (t.seq 0).chainNext == 0x10080 && (t.seq 0).chainUsed == 1) = true ∧
    goes (exec .chainBlockLoad (chainState [] { chainFirst := false })) (chainState [] { chainFirst := false }) = true ∧
    okWith (exec .chainBlockLoad ((chainState []).onSeq 0 fun q => { q with held := [9], params := [8] })) (fun t => (t.seq 0).params == [8, 9] && (t.seq 0).held == []) = true := by decide +kernel
theorem witness_chain : (let s := chainState (block 0x03100000 [] 0x10040) at1
    (s.seqLaunch 0).map (fun l => (l.1, l.2.st)) = some (0, .running) ∧ (s.seq 0).chainEnded = false ∧ (s.seq 0).held = [] ∧
    (match s.sysRead (some 0) 3 0x10000 64 clsOpenOrImage with | (.ok bs, s1) => decide (s1.seq 0 = s.seq 0 ∧ wordsOfBytes bs = block 0x03100000 [] 0x10040) | _ => false) = true) := by decide +kernel
theorem witness_cwait_again : (let s := { seqPage (regs 0x10000 6) [(0x50000, 6)] with seqs := [(0, { mode := .wait, waitFor := .cwait 0x10000 6, ranNative := true, pc := 0x100 })] }
    (match s.seqRead 0 0x10000 8 with | (some v, _) => v == 6 | _ => false) = true ∧ (s.seq 0).waitFor = .cwait 0x10000 6) := by decide +kernel

/-- A failed launch of queue 4, whose completion ring is at 0x3000 of host memory. -/
def failedState (f : Failure := { status := 6, detail0 := 9 }) (acc : List Access := []) : State :=
  { agent := .launch 0, launches := [(0, { q := 4, cq := 4, cid := 0x22, hdr := { cid := 0x22 }, asid := 3, part := some 1, st := .failing, failure := some f, cmd := { chain := 0, hbase := 0, cmask := 1, sdom := 0, sdv := false, kpol := false, role := false, partw := 0 } })],
    parts := [(1, { units := [0], first := 3, count := 1 })], queues := [(4, { known := true, crbase := 0x3000, launch := some 0, next := 1, en := true })], nextId := 1,
    cores := [(2, { launch := some 0, accesses := acc, insts := [{ frame := 0, tag := tag1, committed := true }] })] }
/-- A released store to the window. -/
def movingStore : Access := { id := 3, elem := 5, frame := 0, slot := 3, instr := .stx (memArgs .n32 2), toks := toksOf [win 0x100, 1], tag := tag1, inst := tag1, va := windowBase + 0x100, width := 4, region := .localWin }
theorem test_failed_launch : okWith (exec .launchFailComplete (failedState)) (fun t => (Tab.find? t.launches 0).isNone && (t.core 2).launch.isNone && numberAt t.hostMem 0x3000 8 == 0x0000000980060022) = true ∧
    goes (exec .launchFailComplete (failedState { status := 6 } [movingStore])) (failedState { status := 6 } [movingStore]) = true ∧
    okWith (exec .launchFailComplete (failedState { status := 6, byReset := true })) (fun t => (Tab.find? t.launches 0).isNone && t.hostMem == []) = true := by decide +kernel
/-- The same launch while a PREEMPT of queue 5 drains it. -/
def drainingState (area : Nat := 0) (acc : List Access := []) : State :=
  let s := (failedState { status := 6 } acc).onLaunch 0 fun x => { x with st := .draining, failure := none, preempt := some (some 5, {}, area) }
  { s with queues := s.queues ++ [(5, { known := true, crbase := 0x4000, head := .running (.preempt {} 4 0) })] }
theorem test_preempt_discards : okWith (exec .preemptDrainDone (drainingState)) (fun t => (Tab.find? t.launches 0).isNone && numberAt t.hostMem 0x3000 4 == 0x80150022 && numberAt t.hostMem 0x4000 4 == 0x80000000 &&
    (t.queue 5).next == 1) = true ∧
    okWith (exec .preemptDrainDone ((drainingState).onLaunch 0 fun x => { x with preempt := some (none, {}, 0) })) (fun t => (Tab.find? t.launches 0).isNone && numberAt t.hostMem 0x3000 4 == 0x80150022 &&
      (t.queue 5).next == 0) = true ∧ goes (exec .preemptDrainDone (drainingState 0 [movingStore])) (drainingState 0 [movingStore]) = true := by decide +kernel
theorem witness_ends : (failedState).epochsMove ((failedState).launch 0) = false ∧ ((failedState { status := 6 } [movingStore]).core 2).isReleased movingStore = true ∧
    (failedState { status := 6 } [movingStore]).moves 2 movingStore = true ∧ (∀ k ∈ ((drainingState).launch 0).cores, (drainingState).coreRests k = true) := by decide +kernel

/-- A queue whose wait object is at 0x1_0000 of its address space. -/
def waitState (v : DWord) (a : DWord := 0x10000) : State :=
  let s : State :=
  { agent := .queue 3, hbm := [(0x50000, 5)],
    queues := [(3, { known := true, asid := 3, en := true, crbase := 0x3000, head := .waiting (.modeSet { wait := some (a, v) } 1) })] }
  walked s 0x10000 (leaf 0 0 true true 0x50000)
theorem test_wait_object : okWith (exec .waitObjectPoll (waitState 5)) (fun t => (t.queue 3).head == .ready (.modeSet { wait := some (0x10000, 5) } 1)) = true ∧
    okWith (exec .waitObjectPoll (waitState 6)) (fun t => (t.queue 3).head == (waitState 6 |>.queue 3).head) = true ∧
    okWith (exec .waitObjectPoll (waitState 6 0x90000)) (fun t => numberAt t.hostMem 0x3000 16 == 0x0000000000090000_00000000_80040000) = true := by decide +kernel
/-- R377: a teardown left the queue in place. -/
theorem test_wait_left : okWith (exec .waitObjectPoll ((waitState 5).onQueue 3 fun x => { x with left := true })) (fun t => numberAt t.hostMem 0x3000 4 == 0x80020000 && (t.queue 3).left == false &&
    (t.queue 3).head == .idle && (t.queue 3).next == 1) = true := by decide +kernel
theorem witness_wait_object : (match (waitState 5).queueRead 3 0x10000 8 with | (.ok bs, _) => ofLeBytes bs == 5 | _ => false) = true ∧
    (match (waitState 5).queueRead 3 0x90000 8 with | (.error _, _) => true | _ => false) = true := by decide +kernel
/-- Queues 3 and 4 of partition 1 hold ready commands, queue 4 has the lower priority. -/
def readyState (age3 age4 : Nat) : State :=
  { agent := .sched 1, parts := [(1, { units := [0], first := 3, count := 1 })],
    queues := [(3, { known := true, asid := 3, en := true, head := .ready (.modeSet {} 1), age := age3 }), (4, { known := true, asid := 3, en := true, prio := 1, head := .ready (.modeSet {} 2), age := age4 })] }
theorem test_scheduler : okWith (exec .schedulerSlot (readyState 0 0)) (fun t => (t.queue 3).head == .running (.modeSet {} 1) && (t.queue 4).head == .ready (.modeSet {} 2) && (t.queue 4).age == 1 &&
    (Tab.get {} t.scheds 1).nextSlot == 8) = true ∧
    okWith (exec .schedulerSlot (readyState 0 4096)) (fun t => (t.queue 4).head == .running (.modeSet {} 2) && (t.queue 4).age == 0) = true ∧
    okWith (exec .schedulerSlot { readyState 0 0 with queues := [] }) (fun t => (Tab.get {} t.scheds 1).nextSlot == 8) = true ∧
    goes (exec .schedulerSlot { readyState 0 0 with scheds := [(1, { nextSlot := 3 })] }) { readyState 0 0 with scheds := [(1, { nextSlot := 3 })] } = true := by decide +kernel
theorem witness_scheduler : (let s := readyState 0 4096
    (∀ q ∈ (s.queues.filter fun x => x.2.known && s.queueDomain x.1 == 1).map (·.1), (s.queue q).head ≠ .idle ∧ (s.queue q).prio < 4 ∧ (s.queue q).left = false) ∧ Tab.wf s.queues = true ∧ s.queueReady 3 = true ∧ s.queueReady 4 = true) := by
  decide +kernel

/-! ## Queue commands -/

/-- Queue 3 of the PF, of partition 1, executes `i`; an OPEN page is at 0x1_0000 of its ASID. -/
def cmdState (i : Instr) (mem : List Host.Cell := []) (q : Nat := 3) : State :=
  let s : State :=
  { agent := .queue q, board := { ready := true, powered := true, gen := 4, package := 9 }, hbm := mem,
    queues := [(q, { known := true, en := true, asid := 3, crbase := 0x3000, head := .running i })] }
  walked s 0x10000 (leaf 0 0 true true 0x50000)
/-- The status and DETAIL0 in the completion record of the queue's first command. -/
def answers (i : Instr) (s : State) (status : Nat) (d0 : Nat := 0) (d1 : Nat := 0) : Bool :=
  okWith (exec i s) (fun t => numberAt t.hostMem 0x3000 8 == 0x80000000 + status * 2 ^ 16 + d0 * 2 ^ 32 && numberAt t.hostMem 0x3008 8 == d1 && (t.queue 3).next == 1 && (t.queue 3).head == .idle)
/-- The partition as the commands find it, sealing or not. -/
def sealState (i : Instr) (sealing : Bool := true) (mem : List Host.Cell := []) (pg : List Tlb := []) : State :=
  let s := cmdState i mem
  { s.onPart 1 (fun p => { p with sealing := sealing, domains := [(5, { live := true, keyEpoch := 2 })],
                                  admissions := [{ aid := 7, part := 1, sdom := 5 }], bindings := [(2, { sdom := 5, sid := 0x1001, base := 0x90000, size := 65536, asid := 3, order := 0 })] }) with
    sessions := [(1, { gen := 1, isOpen := true, part := 1, sdom := 5 })], locks := [(9, (1, 7))], walkers := s.walkers ++ pg }

theorem test_completion_record : (let t := ({ queues := [(3, { crbase := 0x3000, size := 0 })] } : State).writeCompletion 3 17 0x11 0x22 5 6
    numberAt t.hostMem 0x3010 16 == 0x0000000000000006_00000005_00110022 && byteAt t.hostMem 0x300F == 0) = true := by decide +kernel
theorem test_cap_read : answers (.capRead {} 0x10000 8) (cmdState (.capRead {} 0x10000 8)) 0 8 = true ∧ answers (.capRead {} 0x90000 8) (cmdState (.capRead {} 0x90000 8)) 4 0 0x90000 = true ∧
    okWith (exec (.capRead {} 0x10000 8) (cmdState (.capRead {} 0x10000 8))) (fun t => numberAt t.hbm 0x50000 4 == 0x50535843) = true := by decide +kernel
theorem test_health_read : answers (.healthRead {} 0x10000) (cmdState (.healthRead {} 0x10000)) 0 = true ∧ okWith (exec (.healthRead {} 0x10000) (cmdState (.healthRead {} 0x10000))) (fun t =>
    numberAt t.hbm 0x50004 4 == 4) = true ∧ answers (.healthRead {} 0x90000) (cmdState (.healthRead {} 0x90000)) 4 0 0x90000 = true := by decide +kernel
theorem test_mode_set : okWith (exec (.modeSet {} 2) (cmdState (.modeSet {} 2))) (fun t => t.board.pending == some 2) = true ∧
    okWith (exec (.modeSet {} 2) (cmdState (.modeSet {} 2) [] 65536)) (fun t => t.board.pending == none && numberAt t.hostMem 0x3000 4 == 0x80020000) = true := by decide +kernel
/-- A root table at bus address 0x8000 for partition 2: slots 4 to 7, a SPILL pool of 16 pages, no KV pool (R374). -/
def rootMem : List Host.Cell := writeBytes [(71, 0x80)] 0x8000 ([0x50415254, 0x00040004, 0, 0, 16, 0, 0, 0].flatMap fun w => leBytes w 4)
def cfgCmd (mask : BitVec 8 := 2) : PartCmd := ⟨2, mask, 0, false, 40, 1, 0x8001⟩
theorem test_partition_cfg : answers (.partitionCfg {} (cfgCmd 1)) (cmdState (.partitionCfg {} (cfgCmd 1))) 2 = true ∧
    answers (.partitionCfg {} cfgCmd) (cmdState (.partitionCfg {} cfgCmd)) 4 0 0x8001 = true := by decide +kernel
/-- Tables of the ASID 40, whose 16 first pages are SPILL pages of unit 1. -/
def partCfgState : State :=
  { cmdState (.partitionCfg {} cfgCmd) with
    hostMem := writeBytes rootMem 0x8047 [0x80],
    walkers := [⟨40, 4, 0, 2 ^ 63⟩, ⟨40, 3, 0, 2 ^ 63⟩, ⟨40, 2, 0, 2 ^ 63⟩, ⟨40, 1, 0, 2 ^ 63⟩] ++ (List.range 16).map fun i => ⟨40, 0, 65536 * i, leaf 6 0 true true (2 * stackBytes + 65536 * i)⟩,
    queues := [(3, { known := true, en := true, asid := 3, crbase := 0x3000, head := .running (.partitionCfg {} cfgCmd) })] }
theorem test_partition_made : okWith (exec (.partitionCfg {} cfgCmd) partCfgState) (fun t => (t.part 2).units == [1] && (t.part 2).spillFrames.length == 16 && (t.part 2).nslot == 4 && (t.part 2).slot0 == 4 &&
    numberAt t.hostMem 0x3000 4 == 0x80000000) = true := by decide +kernel
theorem witness_partition_cfg : partCfgState.cfgDenied cfgCmd = false ∧ (partCfgState.rootOf cfgCmd).isSome = true ∧ (cmdState (.partitionCfg {} (cfgCmd 1))).cfgDenied (cfgCmd 1) = true ∧
    (cmdState (.partitionCfg {} cfgCmd)).rootOf cfgCmd = none ∧ (partCfgState.others 2).length = 1 := by decide +kernel
/-- R376: the SPILL pool has no table: the command is refused, and nothing of the partition stays. -/
theorem test_partition_pool : (let s := { partCfgState with walkers := (⟨40, 0, 0, leaf 6 0 true true 0⟩ : Tlb) :: partCfgState.walkers.take 4 }
    okWith (exec (.partitionCfg {} cfgCmd) s) (fun t => (Tab.find? t.parts 2).isNone && t.walkers == [] && numberAt t.hostMem 0x3000 4 != 0x80000000) && !s.cfgDenied cfgCmd &&
    (match s.rootOf cfgCmd with
     | some x => (match (s.onPart 2 fun _ => x).poolFrames 2 x.first x.spillVa x.spillPages with | (.error _, _) => true | _ => false) && x.first == 40
     | none => false)) = true := by decide +kernel
def downCmd : PartCmd := ⟨1, 0, 0, false, 0, 0, 0⟩
theorem test_teardown : okWith (exec (.partitionTeardown {} downCmd) (cmdState (.partitionTeardown {} downCmd))) (fun t => (Tab.find? t.parts 1).isNone && numberAt t.hostMem 0x3000 4 == 0x80000000) = true ∧
    answers (.partitionTeardown {} downCmd) { cmdState (.partitionTeardown {} downCmd) with launches := [(0, { part := some 1 })] } 2 = true := by decide +kernel
/-- Rank 4 of job 6 at package 8, part 2, through port 1. -/
def rankCmd (pk : BitVec 16 := 8) (ports : BitVec 96 := 2) : RankCmd := ⟨6, 4, pk, 2, ports⟩
theorem test_rank_set : okWith (exec (.rankSet {} rankCmd) (cmdState (.rankSet {} rankCmd))) (fun t =>
    (Tab.find? t.jobs 6).map (fun j => (j.owner, Tab.get {} j.ranks 4)) == some (1, { package := 8, part := 2, ports := 2 }) && numberAt t.hostMem 0x3000 4 == 0x80000000) = true ∧
    answers (.rankSet {} (rankCmd 0x1000)) (cmdState (.rankSet {} (rankCmd 0x1000))) 2 = true ∧ answers (.rankSet {} (rankCmd 8 0x1000)) (cmdState (.rankSet {} (rankCmd 8 0x1000))) 2 = true ∧
    answers (.rankSet {} rankCmd) { cmdState (.rankSet {} rankCmd) with jobs := [(6, { owner := 1, ranks := [(4, { pins := 1 })] })] } 0x11 = true ∧
    (cmdState (.rankSet {} rankCmd)).rankActor 0 1 6 = some 1 := by decide +kernel
def invCmd (start len : DWord) : InvalCmd := ⟨start, len, 3, 0⟩
theorem test_inval_range : okWith (exec (.invalRange {} (invCmd 0x10000 0x10000)) (cmdState (.invalRange {} (invCmd 0x10000 0x10000)))) (fun t => (t.queue 3).drain && t.walkers == []) = true ∧
    answers (.invalRange {} (invCmd 0x10000 0)) (cmdState (.invalRange {} (invCmd 0x10000 0))) 0 = true ∧
    answers (.invalRange {} (invCmd 0x18000 0x10000)) (cmdState (.invalRange {} (invCmd 0x18000 0x10000))) 4 0 0x18000 = true := by decide +kernel
theorem test_inval_drained : answers .invalRangeDrainDone ((cmdState (.invalRange {} (invCmd 0x10000 0x10000))).onQueue 3 fun x => { x with drain := true }) 0 = true := by decide +kernel
theorem test_ring_restart : okWith (exec (.ringRestart {} 7 0x55) (cmdState (.ringRestart {} 7 0x55))) (fun t => (t.queue 7).known && (t.queue 7).r == 0x55 && (t.queue 7).w == 0x55 && (t.queue 7).error) = true ∧
    answers (.ringRestart {} 65536 0) (cmdState (.ringRestart {} 65536 0)) 2 = true ∧
    okWith (exec (.ringRestartFaultRing {} 0x55) (cmdState (.ringRestartFaultRing {} 0x55))) (fun t => (t.part 1).ring.wi == 0x55) = true ∧
    okWith (exec (.ringRestartFaultRing {} 0x55) { cmdState (.ringRestartFaultRing {} 0x55) with parts := [] }) (fun t => numberAt t.hostMem 0x3000 4 == 0x80020000) = true := by decide +kernel

def launchCmd (mask : BitVec 16 := 1) (hbase : DWord := 0x80000) : LaunchCmd := ⟨0x3040, hbase, mask, 0, false, false, false, 0x204020⟩
theorem test_launch_refused : answers (.launch {} (launchCmd 4)) (cmdState (.launch {} (launchCmd 4))) 2 = true ∧ answers (.launch {} (launchCmd)) (sealState (.launch {} (launchCmd))) 0x85 5 = true := by decide +kernel
/-- R323: the queue runs a launch: the next one waits. -/
theorem test_launch_waits : (let s := (cmdState (.launch {} launchCmd)).onQueue 3 fun x => { x with launch := some 2 }
    goes (exec (.launch {} launchCmd) s) s && !s.canBegin 3 (.launch {} launchCmd)) = true ∧ (cmdState (.launch {} launchCmd)).canBegin 3 (.launch {} launchCmd) = true := by decide +kernel
/-- R451: the tables of a launch cannot be read. -/
theorem test_launch_no_tables : okWith (exec (.launch {} launchCmd) (cmdState (.launch {} launchCmd))) (fun t => (t.launch 0).st == .failing && (t.launch 0).failure.map (·.status) == some 4) = true ∧
    (cmdState (.launch {} launchCmd)).launchRefusal 3 launchCmd = none := by decide +kernel
/-- Launch 2 of queue 3 on cluster 0, beside which the queue executes `i`. -/
def besideState (i : Instr) (st : LaunchState := .running) (q : Seq := {}) : State :=
  { cmdState i with launches := [(2, { q := 3, st := st, part := some 1, cmd := launchCmd })], seqs := [(0, q)] }.onQueue 3 fun x => { x with launch := some 2 }
theorem test_chain : answers (.chain {} 0x40) (cmdState (.chain {} 0x40)) 0x0F = true ∧ answers (.chain {} 0x40) (besideState (.chain {} 0x40) .running { chainEnded := true }) 0x10 = true ∧
    okWith (exec (.chain {} 0x40) (besideState (.chain {} 0x40))) (fun t => (t.launch 2).links == [0x40]) = true ∧
    okWith (exec (.chain {} 0x41) (besideState (.chain {} 0x41))) (fun t => (t.launch 2).failure == some { status := 0x13, detail1 := 0x41 } && numberAt t.hostMem 0x3000 4 == 0x80130000) = true := by decide +kernel
theorem test_preempt : answers (.preempt {} 3 0) (cmdState (.preempt {} 3 0)) 0x0F = true ∧ answers (.preempt {} 65536 0) (cmdState (.preempt {} 65536 0)) 2 = true ∧
    answers (.preempt {} 3 0) (besideState (.preempt {} 3 0) .failing) 0x0F = true ∧ goes (exec (.preempt {} 3 0) (besideState (.preempt {} 3 0) .draining)) (besideState (.preempt {} 3 0) .draining) = true ∧
    okWith (exec (.preempt {} 3 0) (besideState (.preempt {} 3 0) .running { mode := .wait, waitFor := .halt })) (fun t => (t.launch 2).st == .draining && (t.launch 2).preempt == some (some 3, {}, 0) &&
      (t.seq 0).mode == .run && (t.seq 0).waitFor == .none) = true := by decide +kernel
/-- A checkpoint of partition 1 at the SPILL page 0x2_0000 (R440). -/
def savedState (i : Instr) (hdr3 : Word := 0x20000003) (keep : Bool := true) : State :=
  let s := cmdState i (writeBytes [] 0x60000 ([0x43504B54, 0, 0, 0].flatMap fun w => leBytes w 4))
  { s with hbm := writeBytes [] 0x60000 ([(0x434B5054 : Word), 0x00010001, 0, hdr3].flatMap fun (w : Word) => leBytes w.toNat 4),
           walkers := s.walkers ++ [⟨3, 0, 0x20000, leaf 6 0 true true 0x60000⟩], cache := [(0xC00, { cls := 6, sdom := 0, part := 1, key := 0 })],
           checkpoints := if keep then [{ part := 1, area := 0x20000, frame := 0x60000, id := 9, launch := { part := some 1, asid := 3 }, cores := [], seqs := [], routes := [], time := 0, stop := 0 }] else [] }
theorem test_resume : answers (.resume {} 65536 0) (cmdState (.resume {} 65536 0)) 2 = true ∧ answers (.resume {} 3 0x20000) (savedState (.resume {} 3 0x20000) 0x20000003 false) 0x0A 0 0x20000 = true ∧
    answers (.resume {} 3 0x20000) (savedState (.resume {} 3 0x20000) 0x20000004) 0x0A 0 0x20000 = true ∧
    okWith (exec (.resume {} 3 0x20000) (savedState (.resume {} 3 0x20000))) (fun t => (Tab.find? t.launches 9).isSome && t.checkpoints == [] && (t.queue 3).launch == some 9) = true ∧
    goes (exec (.resume {} 4 0x20000) ({ savedState (.resume {} 4 0x20000) with queues := (savedState (.resume {} 4 0x20000)).queues ++ [(4, { launch := some 1 })] }))
      { savedState (.resume {} 4 0x20000) with queues := (savedState (.resume {} 4 0x20000)).queues ++ [(4, { launch := some 1 })] } = true := by decide +kernel
theorem witness_commands : Executes (cmdState (.capRead {} 0x10000 8)) 3 (.capRead {} 0x10000 8) ∧ partOf (cmdState (.capRead {} 0x10000 8)) 3 = some 1 ∧ fnOf 3 = 0 ∧ fnOf 16384 = 1 ∧
    (match (cmdState (.capRead {} 0x10000 8)).queueWrite 3 0x10000 [1, 2] with | (.ok _, _) => true | _ => false) = true ∧
    (match (cmdState (.capRead {} 0x10000 8)).queueWrite 3 0x90000 [1, 2] with | (.error _, _) => true | _ => false) = true := by decide +kernel
theorem witness_resume : (let s := savedState (.resume {} 3 0x20000)
    (match s.sysRead none 3 0x20000 64 clsSpill with | (.ok bs, s1) => headerNames (wordsOfBytes bs) 1 3 && !(wordAt (wordsOfBytes bs) 2).testBit 10 && (s1.checkpointAt 3 0x20000).isSome &&
      (match s1.sysRead none 3 0x20000 (dwordAt (wordsOfBytes bs) 5) clsSpill with | (.ok _, _) => true | _ => false) | _ => false) = true) ∧
    (savedState (.resume {} 3 0x20000)).canBegin 3 (.resume {} 3 0x20000) = true ∧
    ((savedState (.resume {} 3 0x20000)).onQueue 3 fun x => { x with launch := some 1 }).canBegin 3 (.resume {} 3 0x20000) = false := by
  decide +kernel

theorem test_seal_refused : [Instr.sealLoadCreate {} ⟨5, 0, 0x10000, 0⟩, .sealLoadImport {} ⟨5, 1, 0x10000, 0x20000⟩, .sealLoadDestroy {} ⟨5, 0, 0, 0⟩].all (fun i => answers i (sealState i false) 0x82) = true ∧
    answers (.sealLoadCreate {} ⟨5, 0, 0x10000, 0⟩) (sealState (.sealLoadCreate {} ⟨5, 0, 0x10000, 0⟩)) 2 = true ∧
    answers (.sealLoadCreate {} ⟨6, 0, 0x10000, 0⟩) (sealState (.sealLoadCreate {} ⟨6, 0, 0x10000, 0⟩)) 0x80 = true ∧
    answers (.sealLoadDestroy {} ⟨6, 0, 0, 0⟩) (sealState (.sealLoadDestroy {} ⟨6, 0, 0, 0⟩)) 2 = true ∧
    answers (.sealLoadDestroy {} ⟨5, 0, 0, 0⟩) { sealState (.sealLoadDestroy {} ⟨5, 0, 0, 0⟩) with slots := [(1, { st := .opened, sdv := true, sdom := 5 })] } 0x84 = true := by decide +kernel
theorem test_seal_destroy : okWith (exec (.sealLoadDestroy {} ⟨5, 0, 0, 0⟩) (sealState (.sealLoadDestroy {} ⟨5, 0, 0, 0⟩))) (fun t => !(t.domain 1 5).live && t.locks == [] && (t.part 1).bindings == [] &&
    (t.part 1).admissions == [] && t.sessions == [(1, { gen := 1 })]) = true := by decide +kernel
/-- A blob header at 0x1_0000, and the WEIGHT page of domain 5 at 0x2_0000. -/
def blobState (magic : Word) : State :=
  sealState (.sealLoadImport {} ⟨5, 1, 0x10000, 0x20000⟩) true (writeBytes [] 0x50000 (leBytes magic.toNat 4)) [⟨3, 0, 0x20000, leaf 1 5 true true 0x60000⟩]
theorem witness_seal_import : (match (blobState 0x57424C42).openBuffer 3 0x10000 64 64 with
    | (some bs, s1) => blobOk bs && (match s1.sealPages 3 true (fun t => t.cls == 1 && t.sdom == 5) (pageParts 0x20000 65536) with | (.ok _, _) => true | _ => false)
    | _ => false) = true ∧ answers (.sealLoadImport {} ⟨5, 1, 0x10000, 0x20000⟩) (blobState 1) 0x80 = true := by decide +kernel
/-- R401: clear fields that pass: the bytes of a package with this device's measurement. -/
theorem witness_package : packageOk (leBytes 0x5345414C 4 ++ leBytes 0x10001 4 ++ leBytes 1200 4 ++ leBytes 0 4 ++ (List.range 32).map (fun i => mcel.getD i 0) ++ List.replicate 16 0#8) = true := by
  have h : (List.range 32).map (fun i => mcel.getD i 0) = mcel := by
    apply List.ext_getElem
    · simp [mcel, fitBytes]
    · intro i h1 h2; simp [List.getD, h2]
  rw [h]
  have hl : mcel.length = 32 := by simp [mcel, fitBytes]
  simp [packageOk, num, cut, isZero, leBytes, fitBytes, List.take_append, hl]
  decide

/-- A library at 0x1_0000, and an IMAGE page at 0x2_0000. -/
def libState (i : Instr) (magic : Word := 0x464E4C4D) (sealing : Bool := false) : State :=
  sealState i sealing (writeBytes [] 0x50000 ([magic, (0x10000 : Word), 5].flatMap fun (w : Word) => leBytes w.toNat 4)) [⟨3, 0, 0x20000, leaf 5 0 true true 0x60000⟩]
theorem witness_library : (match (libState (.kernelAdmitLibrary {} ⟨0, 5, 1, 0x10000, 0x20000⟩)).readLibrary 3 0x10000 with | (some _, _) => true | _ => false) = true ∧
    answers (.kernelAdmitLibrary {} ⟨0, 5, 1, 0x10000, 0x20000⟩) (libState (.kernelAdmitLibrary {} ⟨0, 5, 1, 0x10000, 0x20000⟩) 1) 0x85 1 = true := by decide +kernel
/-- R344, R423: a body of one block that Riuri may place, and the same with an instruction that waits. -/
def bodyText (instr : String) : List Byte :=
  (".block f inputs=1 outputs=1\n.in 0 -> e0.a ; word 0\n e0: " ++ instr ++ " -> out0\n.out 0 -> msg 7.0\n.endblock\n.msg 7, f\n").toList.map fun c => BitVec.ofNat 8 c.toNat
theorem test_riuri : Riuri.bodyOk (bodyText "clz.n32 .a") = true ∧ Riuri.bodyOk (bodyText "lds .a") = false ∧ Riuri.bodyOk (bodyText "clz.n32 .a" ++ bodyText "clz.n32 .a") = false ∧
    Riuri.translate (fun _ => false) (bodyText "lds .a") = .error .unfit ∧ Riuri.bodyOk (bodyText "frobnicate .a") = false ∧
    Riuri.bodyOk (bodyText "add.n32 .a, .b -> out3") = false := by decide +kernel
/-- R345, R423: the images of that body, its message type 7 placed in frame 2 of core 1 of the kernel's cores. -/
def riuriWords : Option (List Word) :=
  ((Riuri.parse (bodyText "clz.n32 .a")).bind fun b => Riuri.layout b { spots := [{ msg := 7, core := 1, unit := 2, task := 0, image := 0 }], edges := [], empties := [] }).map wordsOfBytes
/-- The header, OPEN of one input and one output, BIN 0 to slot e0.a, BOUT 0 to input 0 of the same frame, CNEXT of kind ENTRY, then the
element's fields and CLOSE (R74 to R76, R100). -/
theorem test_riuri_images : (riuriWords.map fun ws => ws.take 4) = some [0x53424C4B, 0x00010000, 0x00070000, 0] ∧
    (riuriWords.bind fun ws => (ws.drop 4).mapM fun w => (decodeConfig w).toOption.map fun i => match i with | .field n f _ => Instr.field n f 0 | i => i) =
      some [.frameOpen 0 1 1, .frameBin 0 0 0, .boutThisInput 0 0, .cnext 3 0 .keep, .field 0 0 0, .field 0 1 0, .frameClose 0] := by decide +kernel
theorem test_admit_raw : okWith (exec (.kernelAdmitRaw {} ⟨0, 5, 6, 0x10000, 0x20000⟩) (libState (.kernelAdmitRaw {} ⟨0, 5, 6, 0x10000, 0x20000⟩))) (fun t =>
    numberAt t.hbm 0x60000 8 == 0x0000_464E4C4D && numberAt t.hostMem 0x3000 4 == 0x80000000) = true := by decide +kernel
theorem test_revoke : answers (.kernelAdmitRevoke {} ⟨6, 5, 0, 0, 0⟩) (sealState (.kernelAdmitRevoke {} ⟨6, 5, 0, 0, 0⟩)) 2 = true ∧
    okWith (exec (.kernelAdmitRevoke {} ⟨7, 5, 0, 0, 0⟩) (sealState (.kernelAdmitRevoke {} ⟨7, 5, 0, 0, 0⟩))) (fun t => (t.part 1).admissions == [] && t.locks == []) = true := by decide +kernel
/-- The base point of P-384 (FIPS 186-4, D.1.2.4). -/
def baseX : Nat := 0xaa87ca22be8b05378eb1c71ef320ad746e1d3b628ba79b9859f741e082542a385502f25dbf55296c3a545e3872760ab7
def baseY : Nat := 0x3617de4a96262c6f5d9e98bf9292dc29f8f41dbd289a147ce9da3113b5f0b8c00a60b1ce1d7e819d7a431d7c90ea0e5f
/-- An open message at 0x1_0000 for domain 5, whose point has the ordinate `y`. -/
def openState (magic : Word := 0x53455331) (y : Nat := baseY) : State :=
  sealState (.sessionOpen {} ⟨5, 0, 0x10000, 0x10800⟩) true
    (writeBytes [] 0x50000 (([magic, (5 : Word)].flatMap fun (w : Word) => leBytes w.toNat 4) ++ List.replicate 56 0 ++ Crypto.beBytes 48 baseX ++ Crypto.beBytes 48 y))
theorem test_session_open : answers (.sessionOpen {} ⟨6, 0, 0x10000, 0x10800⟩) (sealState (.sessionOpen {} ⟨6, 0, 0x10000, 0x10800⟩)) 2 = true ∧
    answers (.sessionOpen {} ⟨5, 0, 0x10000, 0x10800⟩) (openState 1) 0x87 = true ∧
    answers (.sessionOpen {} ⟨5, 0, 0x10000, 0x10800⟩) (openState 0x53455331 (baseY + 1)) 0x87 = true := by decide +kernel
theorem witness_session_open : (match openState.openBuffer 3 0x10000 1728 64 with
    | (some msg, s1) => openMessageOk msg 5 && (match s1.openSpan 3 0x10800 64 64 with | (b, s2) => b && s2.freeSession == some 0)
    | _ => false) = true := by decide +kernel
theorem test_session_close : answers (.sessionClose {} ⟨5, 0x2001, 0, 0⟩) (sealState (.sessionClose {} ⟨5, 0x2001, 0, 0⟩)) 0x89 = true ∧
    okWith (exec (.sessionClose {} ⟨5, 0x1001, 0, 0⟩) (sealState (.sessionClose {} ⟨5, 0x1001, 0, 0⟩))) (fun t => (t.openSession 1 5 0x1001).isNone && (t.part 1).bindings == []) = true := by decide +kernel
/-- REPLY pages in host memory at 0x2_0000 for domain 5. -/
def bindState (i : Instr) : State := sealState i true [] [⟨3, 0, 0x20000, leaf 3 5 true true 0x60000 + 2 ^ 58⟩]
theorem test_reply_bind : answers (.replyBind {} ⟨5, 3, 0x2001, 0x20000, 0, false, 0⟩) (bindState (.replyBind {} ⟨5, 3, 0x2001, 0x20000, 0, false, 0⟩)) 0x89 = true ∧
    okWith (exec (.replyBind {} ⟨5, 3, 0x1001, 0x20000, 0, true, 2⟩) (bindState (.replyBind {} ⟨5, 3, 0x1001, 0x20000, 0, true, 2⟩))) (fun t =>
      (Tab.find? (t.part 1).bindings 3).map (fun b => (b.base, b.size, b.woff, b.slot)) == some (0x20000, 65536, 0, some 2)) = true ∧
    answers (.replyBind {} ⟨5, 3, 0x1001, 0x20000, 0, true, 4⟩) (bindState (.replyBind {} ⟨5, 3, 0x1001, 0x20000, 0, true, 4⟩)) 2 = true ∧
    okWith (exec (.replyUnbind {} 2) (bindState (.replyUnbind {} 2))) (fun t => (t.part 1).bindings == []) = true := by decide +kernel
theorem witness_sign : (match (sealState (.usageSignReport {} ⟨true, 5, 0, 0x10000⟩)).openSpan 3 0x10000 31304 64 with
    | (true, s1) => (match s1.queueRead 3 0x10000 32 with | (.ok _, s2) => !s2.signing.refused && decide (s2.signing.index < 2 ^ 60) | _ => false) | _ => false) = true ∧
    (sealState (.usageSignUsage {} ⟨false, 5, 0x1001, 0x10000⟩)).keptSession 1 5 0x1001 ≠ none ∧ ({ index := 3, blockEnd := 1024 } : Signing).index < ({ index := 3, blockEnd := 1024 } : Signing).blockEnd := by decide +kernel
theorem test_sign_exhausted : answers (.usageSignReport {} ⟨true, 5, 0, 0x10000⟩) { sealState (.usageSignReport {} ⟨true, 5, 0, 0x10000⟩) with signing := { index := 2 ^ 60 } } 0x8B = true ∧
    answers (.usageSignUsage {} ⟨false, 5, 0x1001, 0x10000⟩) { sealState (.usageSignUsage {} ⟨false, 5, 0x1001, 0x10000⟩) with signing := { index := 2 ^ 60 } } 0x8B = true ∧
    answers (.usageSignUsage {} ⟨false, 5, 0x2001, 0x10000⟩) (sealState (.usageSignUsage {} ⟨false, 5, 0x2001, 0x10000⟩)) 0x89 = true := by decide +kernel

/-! ## The package -/

def boardState (b : Board) : State := { agent := .device, board := b, hostMem := [(3, 4)], signing := { index := 3, blockEnd := 1024 } }
/-- The board after an instruction of the package, from a board. -/
def boards (i : Instr) (b b' : Board) : Bool := okWith (exec i (boardState b)) fun t => t.board == b'
theorem test_power_good : okWith (exec .powerGood { boardState { package := 9, spares := [.port 3], ready := true, cycle := 7 } with hbm := [(1, 2)], cores := [(2, {})], nextId := 5 }) (fun t =>
    t.board == { package := 9, spares := [.port 3], powered := true, step := 1 } && t.hbm == [] && t.cores == [] && t.hostMem == [(3, 4)] && t.signing.index == 1024) = true := by decide +kernel
theorem test_bring_up : boards (.bringUpStepDone true) { powered := true, step := 3 } { powered := true, step := 4 } = true ∧ boards (.bringUpStepDone false) { powered := true, step := 3 } { powered := true, step := 3, failed := 3 } = true ∧
    boards (.bringUpStepDone true) { powered := true, step := 7 } { powered := true, step := 7, ready := true, gen := 2 } = true ∧
    boards (.bringUpStepDone true) { powered := true, step := 3, failed := 3 } { powered := true, step := 3, failed := 3 } = true ∧ boards (.bringUpStepDone true) {} {} = true := by decide +kernel
theorem test_bring_up_step5 : boards (.bringUpStepDone true) { powered := true, step := 5, mode := 1 } { powered := true, step := 6 } = true := by decide +kernel
theorem test_link_trained : boards (.pcieLinkTrained 5 16) { powered := true } { powered := true, trained := some (5, 16) } = true ∧ boards (.pcieLinkTrained 5 16) {} {} = true := by decide +kernel
theorem test_thermal : boards (.thermalLimit 2) { ready := true, gen := 2 } { ready := true, gen := 4, bins := 2, throttled := true } = true ∧ boards (.thermalLimit 0) { bins := 1, throttled := true } {} = true ∧
    boards (.thermalLimit 2) { bins := 2, throttled := true } { bins := 2, throttled := true } = true := by decide +kernel
theorem test_pm_interval : boards .pmInterval { pending := some 2, ready := true, gen := 2 } { mode := 2, ready := true, gen := 4 } = true ∧ boards .pmInterval {} {} = true := by decide +kernel
/-- Core 2 of a package with an element configured; launch 0 runs on it. -/
def lossState (c : Core := {}) : State :=
  { boardState { ready := true } with launches := [(0, { part := some 1 })], cores := [(2, { c with launch := some 0, elems := [(5, { instr := some (.ld (memArgs .n32 1)), tier1 := [okTok 0 9], queue := [{ tok := okTok 0 7, entered := 0 }] })] })],
                                      parts := [(1, { units := [0], first := 3, count := 1 })] }
theorem test_map_out : okWith (exec (.resourceMapOut (.elem 2 5 0)) (lossState)) (fun t => t.board.spares == [.elem 2 5 0] && t.board.gen == 2 && (t.launch 0).st == .failing &&
      (t.launch 0).failure.map (fun f => (f.status, f.detail0)) == some (0x0E, 0x02050000)) = true ∧
    okWith (exec (.resourceMapOut (.port 4)) { boardState {} with ports := [(4, { link := .plain, flits := [1] })] }) (fun t => t.port 4 == {} && t.board.spares == [.port 4]) = true ∧
    boards (.resourceMapOut (.port 4)) { spares := [.port 4] } { spares := [.port 4] } = true := by decide +kernel
theorem witness_map_out : (lossState.elem 2 (32 * 0 + 5)).instr.isSome = true ∧ lossState.coreLaunch 2 = some (0, { part := some 1 }) ∧ Spare.elem 2 5 0 ∉ lossState.board.spares ∧ Spare.port 4 ∉ lossState.board.spares := by decide +kernel
theorem test_corrected : okWith (exec (.correctedError (.scratch 2 8) false) (lossState)) (fun t => (t.core 2).counters != [] && t.board == lossState.board) = true ∧
    boards (.correctedError (.line 0x1000) true) { ready := true } { ready := true, gen := 2, eccwarn := true } = true := by decide +kernel
theorem test_uncorrectable : okWith (exec (.uncorrectableError (.line 0x1085)) (boardState {})) (fun t => t.poison == [0x21]) = true ∧
    okWith (exec (.uncorrectableError (.scratch 2 8)) (lossState)) (fun t => (t.core 2).poisoned == [8]) = true ∧
    okWith (exec (.uncorrectableError (.tier1Token 2 5 0)) (lossState)) (fun t => (t.elem 2 5).tier1.map (fun x => (x.val, x.origin, x.d)) == [(0x0E08A000, some (okTok 0 9).tag, true)]) = true := by decide +kernel
theorem test_uncorrectable_config : okWith (exec (.uncorrectableError (.elemConfig 2 5)) (lossState)) (fun t => (t.launch 0).st == .failing && (t.launch 0).failure.map (·.code) == some 0x0A) = true ∧
    okWith (exec (.uncorrectableError (.inputToken 2 5 0)) (lossState)) (fun t => (t.elem 2 5).queue.map (·.tok.val) == [0x0E08A000]) = true := by decide +kernel
theorem witness_uncorrectable : (lossState.elem 2 5).tier1[0]? = some (okTok 0 9) ∧ 4 * 8 < (lossState.core 2).scrBytes ∧ 0x1085 < 16 * stackBytes := by decide +kernel

/-- The link is trained; function 0 has FTD0 and FTD1 as given. -/
def fnState (f : Function := {}) (b : Board := { trained := some (5, 16) }) : State := { boardState b with fns := [(0, f)] }
theorem test_register_write : okWith (exec (.registerWrite 0 0x300000 0xC1000001) (fnState { ftd0 := 0x40000000 })) (fun t => (t.fn 0).ftd0 == 0x80000001) = true ∧
    okWith (exec (.registerWrite 0 0x300004 0xFFFFFFFF) (fnState)) (fun t => (t.fn 0).ftd1 == 0xFFFF1FFF) = true ∧ goes (exec (.registerWrite 0 0x20 5) (fnState)) (fnState) = true := by decide +kernel
theorem test_register_hit_kept : okWith (exec (.registerWrite 0 0x300000 0x00000002) (fnState { ftd0 := 0x40000000 })) (fun t => (t.fn 0).ftd0 == 0x40000002) = true ∧
    goes (exec (.registerWrite 0 0x300000 5) (fnState {} {})) (fnState {} {}) = true := by decide +kernel
theorem test_doorbell_table : okWith (exec (.doorbell 0 (Config.qbase 0) 0x4000) (fnState)) (fun t => (t.fn 0).table == some 0x4000) = true := by decide +kernel
/-- The queue 3 of the PF runs, with indices R and W at 4. -/
def bellState : State := { fnState { table := some 0x4000 } with queues := [(3, { known := true, en := true, r := 4, w := 4, size := 0 })] }
theorem test_doorbell_ring : okWith (exec (.doorbell 0 3 6) bellState) (fun t => (t.queue 3).w == 6 && (t.queue 3).r == 4) = true ∧
    okWith (exec (.doorbell 0 3 21) bellState) (fun t => (t.queue 3).error) = true := by decide +kernel
theorem witness_doorbell : Config.qbase 0 ≤ 3 ∧ 3 < Config.qbase 0 + Config.qcount 0 ∧ (bellState.fn 0).table = some 0x4000 ∧ ahead (bellState.queue 3).w 6 = 2 ∧ ahead (bellState.queue 3).r 6 = 2 ∧
    (fnState.fn 0).table = none ∧ fnState.hostDead = [] := by decide +kernel
/-- R131's example: 16 entries, R is 30, W is 34, and the doorbell 32 is stale. -/
theorem test_doorbell_stale : (let s := bellState.onQueue 3 fun x => { x with r := 30, w := 34 }
    okWith (exec (.doorbell 0 3 32) s) (fun t => (t.queue 3).w == 34 && !(t.queue 3).error && t == s.countQueue 3 cntStaleDb)) = true ∧ ahead 32 34 = 2 ∧
    2 ^ (4 + (bellState.queue 3).size) < ahead 6 (bellState.queue 3).w := by decide +kernel
/-- A load from host memory has the turn. -/
def hostState : State :=
  let s := accState (.ldx (memArgs .n32 1)) [win 0x100] {}
  s.onCore 2 fun c => { c with accesses := c.accesses.map fun x => { x with region := .hostMem } }
theorem test_host_timeout : okWith (exec .hostCompletionTimeout hostState) (fun t => sentVals t == [0x0F08A000] && (t.core 2).accesses == []) = true := by decide +kernel
theorem witness_host_timeout : (match (hostState.core 2).access? 7 with
    | some x => (x.opc == 0x140 || x.opc == 0x142) && x.region == .hostMem && x.stage == .ready && (hostState.core 2).mayPerform x && hostState.accessRuns 2 x | none => false) = true := by decide +kernel
/-- R427: an `sdec` whose record lies on a host page has the turn. -/
def hostRecord : State := (rich (accState (.sdec (memArgs .n32 2)) [0x100, 0] {})).onCore 2 fun c => { c with tlb := [⟨3, 0, 0x10000, leaf 0 0 true true 0x50000 + 2 ^ 58⟩] }
theorem test_record_timeout_host : okWith (exec .hostCompletionTimeout hostRecord) (fun t => sentVals t == [0x0F08A000] && (t.core 2).accesses == []) = true ∧ (accOf hostRecord).opc = 0x1E0 ∧
    hostRecord.isHostSpot 2 ((accOf hostRecord).opnds.val 0) 64 = true ∧ (hostRecord.core 2).mayPerform (accOf hostRecord) = true ∧ hostRecord.accessRuns 2 (accOf hostRecord) = true := by decide +kernel
/-- VF 1 has a queue and a launch, and the PF has a queue. -/
def resetFnState : State :=
  { agent := .fn 1, fns := [(1, { table := some 0x4000 })], queues := [(3, { known := true }), (16384, { known := true })], launches := [(0, { fn := 1, part := some 1 }), (1, { fn := 0, part := some 1 })] }
theorem test_function_reset : okWith (exec .functionLevelReset resetFnState) (fun t => t.fns == [] && t.queues.map (·.1) == [3] && (t.launch 0).st == .failing && (t.launch 0).failure.map (·.byReset) == some true && (t.launch 1).st == .running) = true := by
  decide +kernel

/-! ## The fabric -/

/-- Rank 0 of job 6 on package 1, partition 1; rank 4 on package 8, partition 2, reached through port 1. Port 1 holds packet `p`, and access 7
of core 2 is `i`. A page that may synchronise is at 0x1_0000 of ASID 3. -/
def fabState (i : Instr) (p : Packet) (e : List Epoch := []) : State :=
  let a := accState i (toksVals i) {}
  let s : State :=
  { a with agent := .port 1, board := { package := 1 }, epochs := e,
           jobs := [(6, { owner := 1, ranks := [(0, { package := 1, part := 1, ports := 2 }), (4, { package := 8, part := 2, ports := 2, pins := 1 })], own := some (0, 3) })],
           ports := [(1, { link := .plain, peer := 8, arrived := [(0, p)] })] }
  let s := walked s 0x10000 (leaf 0 0 true true 0x50000 true)
  s.onPart 1 fun q => { q with spillPages := 1, spillFrames := [9] }
where toksVals (i : Instr) : List Word := match i with | .rat _ => [0x10000, 5] | _ => [0x10000]
/-- A packet of rank 4 for rank 0 of job 6. -/
def inPk (t : BitVec 8) : Packet := { ptype := t, job := 6, spart := 2, srank := 4, dpart := 1, drank := 0, cid := 3, gen := 5, va := 0x10000 }
/-- The OPEN packet of core 2's epoch of segment 9. -/
def outPk (t : BitVec 8) : Packet := { ptype := t, job := 6, spart := 1, srank := 0, dpart := 2, drank := 4, cid := 3, gen := 5, va := 0x20000 }
def epochOf (st : SendState) : Epoch := { core := 2, seg := 9, part := 1, hdr := outPk 2, st := st, writes := 2, window := [(0, outPk 1), (1, outPk 1)] }
def rc : Instr := .rcopen (memArgs .n32 1)
def rr : Instr := .rrel (memArgs .n32 1)
def sentTypes (s : State) : List Nat := s.sent.map fun x => x.packet.ptype.toNat

theorem test_openack : okWith (exec .openack (fabState rc (inPk 3) [{ epochOf .opening with openAcc := some 7 }])) (fun t => sentVals t == [0x10000] && t.epochs.map (·.st) == [.opened] && (t.port 1).arrived == []) = true ∧
    okWith (exec .openack (fabState rc (inPk 3) [epochOf .opened])) (fun t => t.epochs == [epochOf .opened]) = true := by decide +kernel
theorem test_relnote : okWith (exec .relnote (fabState rr { inPk 5 with val := 2 } [{ epochOf .releasing with relAcc := some 7 }])) (fun t => sentVals t == [2] && t.epochs == [] && (Tab.get {} (t.job 6).ranks 4).pins == 0) = true := by decide +kernel
theorem test_resend : okWith (exec .resend (fabState rr { inPk 6 with data := [2] } [epochOf .releasing])) (fun t => sentTypes t == [1] && t.epochs.map (·.due) == [40]) = true ∧
    okWith (exec .resend (fabState rr { inPk 6 with data := [2] } [epochOf .opened])) (fun t => sentTypes t == []) = true := by decide +kernel
theorem test_fail : okWith (exec .fabricFail (fabState rr { inPk 7 with f := true, val := 0x0D000005 } [{ epochOf .releasing with relAcc := some 7 }])) (fun t => sentVals t == [0x0D000005] && t.epochs == []) = true := by decide +kernel
theorem test_refused : okWith (exec .openack (fabState rc { inPk 3 with srank := 5 } [epochOf .opening])) (fun t => t.epochs == [epochOf .opening] && (t.part 1).counters != []) = true ∧
    okWith (exec .wr (fabState rc { inPk 1 with d := true })) (fun t => t.hbm == [] && (t.part 1).counters != []) = true := by decide +kernel
theorem witness_sender : Answers_ (received (fabState rc (inPk 3) [epochOf .opening]) 1 []) (inPk 3) 0 (epochOf .opening) ∧ Accepts (fabState rc (inPk 3) []) 1 (inPk 3) [] 3 ∧
    (received (fabState rc { inPk 3 with srank := 5 }) 1 []).refusal 1 { inPk 3 with srank := 5 } = some 0x74 ∧ ((fabState rc (inPk 3) []).core 2).access? 7 ≠ none := by
  refine ⟨⟨by decide +kernel, by decide, by decide, by decide, by decide, by decide, by decide, fun j x h => absurd h (Nat.not_lt_zero j)⟩,
    ⟨⟨0, ⟨by decide +kernel, by decide, by decide +kernel, by decide +kernel, by decide⟩, by decide +kernel⟩, by decide +kernel⟩, by decide +kernel, by decide +kernel⟩
/-- R297, R391: a packet that has stood for more than 1 ms is dropped, and one from another package than the port's peer is refused. -/
theorem test_packet_old : okWith (exec .openack { fabState rc (inPk 3) [epochOf .opening] with board := { package := 1, micros := 1001 } }) (fun t => t.epochs == [epochOf .opening] && (t.port 1).arrived == [] &&
    (t.part 1).counters == []) = true := by decide +kernel
theorem witness_peer : (let s := (fabState rc (inPk 3) []).onPort 1 fun x => { x with peer := 7 }
    (s.rankOf 6 4).map (·.package) = some 8 ∧ (s.port 1).peer = 7 ∧ s.refusal 1 (inPk 3) = some 0x74) ∧ Stands (fabState rc (inPk 3) []) 1 (inPk 3) [] 3 0 := by
  refine ⟨by decide +kernel, by decide +kernel, by decide, by decide +kernel, by decide +kernel, by decide⟩
/-- The first epoch has the turn, and the reference timer stands at `m` microseconds. -/
def timeState (e : Epoch) (m : Nat) : State := { fabState rc (inPk 0) [e] with agent := .epoch 0, board := { package := 1, micros := m } }
theorem test_open_timeout : okWith (exec .epochOpenTimeout (timeState { epochOf .opening with due := 40 } 40)) (fun t => sentTypes t == [2] && t.epochs.map (fun e => (e.rounds, e.due)) == [(1, 80)]) = true ∧
    goes (exec .epochOpenTimeout (timeState { epochOf .opening with due := 40 } 39)) (timeState { epochOf .opening with due := 40 } 39) = true ∧
    okWith (exec .epochOpenTimeout (timeState { epochOf .opening with rounds := 8, openAcc := some 7 } 40)) (fun t => sentVals t == [0x0D08A001] && t.epochs.map (·.st) == [.failed]) = true := by decide +kernel
theorem test_rel_timeout : okWith (exec .epochRelTimeout (timeState { epochOf .releasing with due := 40 } 40)) (fun t => t.sent.map (fun x => (x.packet.ptype, x.packet.seq)) == [(4, 2)] && t.epochs.map (·.rounds) == [1]) = true ∧
    goes (exec .epochRelTimeout (timeState { epochOf .releasing with due := 40 } 39)) (timeState { epochOf .releasing with due := 40 } 39) = true ∧
    okWith (exec .epochRelTimeout (timeState { epochOf .releasing with rounds := 8 } 40)) (fun t => sentTypes t == [7] && t.epochs == []) = true := by decide +kernel

def recOf (st : RecvState) (arrived : List Nat) (count : Option Nat := none) : RecvRec := { package := 8, hdr := inPk 2, st := st, arrived := arrived, count := count }
def recvState (p : Packet) (r : List RecvRec) (m : Nat := 0) : State := { fabState rc p with records := r, board := { package := 1, micros := m } }
theorem test_fabric_open : okWith (exec .fabricOpen (recvState (inPk 2) [])) (fun t => t.records == [recOf .collecting []] && sentTypes t == [3] && !t.wordFull 0x50000 && (t.part 1).spillUsed == 36) = true ∧
    okWith (exec .fabricOpen (recvState (inPk 2) [recOf .collecting [1]])) (fun t => t.records == [recOf .collecting [1]] && sentTypes t == [3]) = true := by decide +kernel
/-- R297, R320: an OPEN of a later GEN takes the place of a record that has ended, and one of an earlier GEN is discarded. -/
theorem test_open_gens : okWith (exec .fabricOpen (recvState { inPk 2 with gen := 6 } [recOf .released [0]])) (fun t => t.records == [{ recOf .collecting [] with hdr := { inPk 2 with gen := 6 } }]) = true ∧
    okWith (exec .fabricOpen (recvState { inPk 2 with gen := 4 } [recOf .released [0]])) (fun t => t.records == [recOf .released [0]] && sentTypes t == []) = true ∧
    (recvState { inPk 2 with gen := 6 } [recOf .released [0]]).recordOf { inPk 2 with gen := 6 } = some 0 := by decide +kernel
theorem test_wr : okWith (exec .wr (recvState { inPk 1 with seq := 1, va := 0x10010, data := [7, 8, 0, 1] } [recOf .collecting [0]])) (fun t => t.hbm == [(0x50010, 7), (0x50011, 8), (0x50013, 1)] && t.records == [recOf .collecting [0, 1]]) = true ∧
    okWith (exec .wr (recvState { inPk 1 with seq := 0, va := 0x10010, data := [7, 8, 0, 1] } [recOf .collecting [0]])) (fun t => t.hbm == [] && (t.part 1).counters != []) = true := by decide +kernel
theorem test_wr_last : okWith (exec .wr (recvState { inPk 1 with seq := 1, va := 0x10010, data := [7, 8, 0, 1] } [recOf .waiting [0] (some 2)])) (fun t => byteAt t.hbm 0x50000 == 2 && t.records.map (·.st) == [.released] && sentTypes t == [5]) = true := by decide +kernel
theorem test_rel : okWith (exec .rel (recvState { inPk 4 with seq := 2 } [recOf .collecting [0, 1]])) (fun t => byteAt t.hbm 0x50000 == 2 && t.wordFull 0x50000 && t.sent.map (fun x => (x.packet.ptype, x.packet.val)) == [(5, 2)]) = true ∧
    okWith (exec .rel (recvState { inPk 4 with seq := 2 } [recOf .collecting [1]] 5)) (fun t => t.hbm == [] && t.records == [{ recOf .waiting [1] (some 2) with due := 25 }]) = true := by decide +kernel
theorem test_rel_again : okWith (exec .rel (recvState { inPk 4 with seq := 2 } [{ recOf .released [0, 1] with note := some (outPk 5) }])) (fun t => t.sent.map (·.packet) == [outPk 5] && t.hbm == []) = true ∧
    okWith (exec .rel (recvState { inPk 4 with seq := 1 } [recOf .collecting [1]])) (fun t => t.records.map (·.st) == [.failed] && numberAt t.hbm 0x50000 4 == 0x80000001) = true := by decide +kernel
theorem test_record_timeout : okWith (exec .epochWaitTimeout { recvState (inPk 0) [{ recOf .waiting [0] (some 2) with due := 20 }] 20 with agent := .epoch 0 }) (fun t => t.records.map (fun r => (r.rounds, r.due)) == [(1, 40)] &&
      t.sent.map (fun x => (x.packet.ptype, x.packet.data)) == [(6, [2])]) = true ∧
    okWith (exec .epochWaitTimeout { recvState (inPk 0) [{ recOf .waiting [0] (some 2) with due := 20 }] 19 with agent := .epoch 0 }) (fun t => t.sent == []) = true ∧
    okWith (exec .epochWaitTimeout { recvState (inPk 0) [{ recOf .waiting [0] (some 2) with rounds := 8 }] 20 with agent := .epoch 0 }) (fun t => t.records.map (·.st) == [.failed]) = true := by decide +kernel
theorem witness_receiver : Recorded (received (recvState (inPk 4) [recOf .collecting [0]]) 1 []) (inPk 4) 0 (recOf .collecting [0]) ∧ Accepts (recvState (inPk 2) []) 1 (inPk 2) [] 2 ∧
    (received (recvState (inPk 2) []) 1 []).recordOf (inPk 2) = none ∧ ((received (recvState (inPk 2) []) 1 []).poolTake 1 36).isSome = true ∧
    (match (received (recvState (inPk 1) [recOf .collecting [0]]) 1 []).performWrite { inPk 1 with data := [1] } with | (none, _) => true | _ => false) = true ∧
    ((received (recvState (inPk 2) []) 1 []).rankOf 6 4).map (·.package) = some 8 := by
  exact ⟨by decide +kernel, ⟨⟨0, ⟨by decide +kernel, by decide, by decide +kernel, by decide +kernel, by decide⟩, by decide +kernel⟩, by decide +kernel⟩, by decide +kernel, by decide +kernel, by decide +kernel, by decide +kernel⟩

def fiveWord (p : Packet) (rs : List Request := []) (i : Instr := rc) : State := { fabState i p with hbm := [(0x50000, 5)], requests := rs }
theorem test_rldreq : okWith (exec .rldreq (fiveWord (inPk 8))) (fun t => t.sent.map (fun x => (x.packet.ptype, x.packet.val, x.packet.drank, x.packet.f)) == [(9, 5, 4, false)]) = true ∧
    okWith (exec .rldreq (fiveWord { inPk 8 with va := 0x90000 })) (fun t => t.sent.map (fun x => (x.packet.ptype, x.packet.f)) == [(9, true)]) = true := by decide +kernel
theorem test_ratreq : okWith (exec .ratreq (fiveWord { inPk 0xA with ty := 1, data := [3, 0, 0, 0] })) (fun t => byteAt t.hbm 0x50000 == 8 && t.sent.map (fun x => (x.packet.ptype, x.packet.val)) == [(0xB, 5)] && t.answers.length == 1) = true ∧
    okWith (exec .ratreq { fiveWord { inPk 0xA with reqid := 2 } with answers := [((1, 8, 2, 2), outPk 0xB)] }) (fun t => byteAt t.hbm 0x50000 == 5 && t.sent.map (·.packet) == [outPk 0xB]) = true := by decide +kernel
def reqOf (t : BitVec 8) : Request := { core := 2, access := 7, packet := { outPk t with reqid := 2, tag := tag1 }, due := 40 }
theorem test_replies : okWith (exec .rldrep (fiveWord { inPk 9 with reqid := 2, tag := tag1, val := 0xFE } [reqOf 8] (.rld (memArgs .s32 1 2)))) (fun t => sentVals t == [0xFFFFFFFE] && t.requests == []) = true ∧
    okWith (exec .ratrep (fiveWord { inPk 0xB with reqid := 2, tag := tag1, val := 9 } [reqOf 0xA] (.rat (memArgs .n32 2)))) (fun t => sentVals t == [9]) = true ∧
    okWith (exec .rldrep (fiveWord { inPk 9 with reqid := 2, tag := tag1, f := true, val := 0x03000000 } [reqOf 8] (.rld (memArgs .s32 1 2)))) (fun t => sentVals t == [0x0308A000]) = true := by decide +kernel
theorem test_request_timeout : okWith (exec .requestResendTimeout { fiveWord (inPk 0) [reqOf 8] with agent := .epoch 0, board := { package := 1, micros := 40 } }) (fun t => sentTypes t == [8] && t.requests.map (fun r => (r.resends, r.due)) == [(1, 80)]) = true ∧
    okWith (exec .requestResendTimeout { fiveWord (inPk 0) [reqOf 8] with agent := .epoch 0, board := { package := 1, micros := 39 } }) (fun t => sentTypes t == []) = true ∧
    okWith (exec .requestResendTimeout { fiveWord (inPk 0) [{ reqOf 8 with resends := 8 }] with agent := .epoch 0, board := { package := 1, micros := 40 } }) (fun t => sentVals t == [0x0D08A006] && t.requests == []) = true := by decide +kernel
/-- Contributions of integers to a window word that four ranks add to. -/
def conPk : Packet := { inPk 0xC with ty := 1, ncon := 3, cnt := 1, val := 6 }
theorem test_wcon : okWith (exec .wcon (fiveWord conPk)) (fun t => t.rounds.map (fun r => (r.asid, r.sum, r.cnt, r.due)) == [(3, 6, 1, 160)] && !t.wordFull 0x50000) = true ∧
    okWith (exec .wcon { fiveWord conPk with rounds := [{ asid := 3, hdr := conPk, sum := 4, cnt := 1 }] }) (fun t => t.rounds.map (fun r => (r.sum, r.cnt)) == [(10, 2)] && byteAt t.hbm 0x50000 == 5) = true ∧
    okWith (exec .wcon { fiveWord conPk with rounds := [{ asid := 3, hdr := conPk, sum := 4, cnt := 3 }] }) (fun t => t.rounds == [] && byteAt t.hbm 0x50000 == 15 && t.wordFull 0x50000) = true := by decide +kernel
theorem test_round_waits : okWith (exec .ratreq { fiveWord { inPk 0xA with ty := 1, data := [3, 0, 0, 0] } with rounds := [{ asid := 3, hdr := conPk }] }) (fun t => t.rounds.map (·.waiting.length) == [1] && t.sent == []) = true ∧
    okWith (exec .windowRoundTimeout { fiveWord (inPk 0) with agent := .epoch 0, rounds := [{ asid := 3, hdr := conPk }] }) (fun t => t.rounds == [] && numberAt t.hbm 0x50000 4 == 0x80000000) = true ∧
    okWith (exec .windowRoundTimeout { fiveWord (inPk 0) with agent := .epoch 0, rounds := [{ asid := 3, hdr := conPk, due := 9 }] }) (fun t => t.rounds.length == 1) = true := by decide +kernel
/-- R302: an atomic that waits for the round already is not taken twice. -/
theorem test_atomic_waits_once : (let p : Packet := { inPk 0xA with ty := 1, data := [3, 0, 0, 0] }
    let s := { fiveWord p with rounds := [{ asid := 3, hdr := conPk, waiting := [p] }] }
    okWith (exec .ratreq s) (fun t => t.rounds.map (·.waiting.length) == [1] && t.sent == [] && byteAt t.hbm 0x50000 == 5) && s.ratWaits p) = true := by decide +kernel
theorem witness_requests : (match (received (fiveWord (inPk 8)) 1 []).inCheck (inPk 8) 4 true false false false with | (.ok _, _) => true | _ => false) = true ∧
    (match (received (fiveWord (inPk 8)) 1 []).inCheck { inPk 8 with va := 0x90000 } 4 true false false false with | (.error _, _) => true | _ => false) = true ∧
    (match (received (fiveWord conPk) 1 []).inCheck conPk 4 true true false false with
      | (.ok _, s2) => s2.rounds == [] && (match s2.inCheck conPk 4 true true false false with | (.ok _, s3) => s3.rounds == [] | _ => false) | _ => false) = true ∧
    Accepts (fiveWord (inPk 8)) 1 (inPk 8) [] 8 ∧ Accepts (fiveWord conPk) 1 conPk [] 0xC ∧
    Replies (received (fiveWord { inPk 9 with reqid := 2, tag := tag1 } [reqOf 8]) 1 []) { inPk 9 with reqid := 2, tag := tag1 } 8 (reqOf 8) [] := by
  exact ⟨by decide +kernel, by decide +kernel, by decide +kernel, ⟨⟨0, ⟨by decide +kernel, by decide, by decide +kernel, by decide +kernel, by decide⟩, by decide +kernel⟩, by decide +kernel⟩,
    ⟨⟨0, ⟨by decide +kernel, by decide, by decide +kernel, by decide +kernel, by decide⟩, by decide +kernel⟩, by decide +kernel⟩, by decide +kernel⟩

/-- Port 1 alone, as given. -/
def linkState (x : FabricPort) (m : Nat := 0) : State :=
  { agent := .port 1, board := { package := 1, micros := m }, ports := [(1, x)], signing := { index := 3, blockEnd := 1024 },
    parts := [(1, { domains := [(5, { live := true, tdid := 9, peers := [[1, 2]] })] })] }
/-- The port after an instruction. -/
def links (i : Instr) (x y : FabricPort) (m : Nat := 0) : Bool := okWith (exec i (linkState x m)) fun t => t.port 1 == y
def flit (n : Nat) : List Byte := BitVec.ofNat 8 n :: List.replicate 63 0
theorem test_flits : links (.flitReceive 1 false (flit 0)) { link := .plain, crcFails := 16 } { link := .plain, crcFails := 17, retrain := true } = true ∧
    links (.flitReceive 1 false (flit 0)) { link := .plain, crcFails := 15 } { link := .plain, crcFails := 16 } = true ∧
    links (.flitReceive 1 true (flit 70)) { link := .plain, crcFails := 3 } { link := .plain, flits := flit 70 } = true ∧
    okWith (exec (.flitReceive 1 true (flit 0)) (linkState { link := .plain })) (fun t => (t.port 1).arrived.length == 1 && (t.port 1).flits == []) = true := by decide +kernel
theorem test_retrain : links (.linkRetrain 1 true) { link := .plain, retrain := true, crcFails := 17 } { link := .plain } = true ∧
    links (.linkRetrain 1 false) { link := .plain, retrain := true, crcFails := 17, flits := [1] } {} = true := by decide +kernel
theorem test_trained : links .fabricPortTrained {} { link := .plain } = true ∧ links .fabricPortTrained { link := .secure 9 } { link := .secure 9 } = true := by decide +kernel
theorem test_spdm : links (.spdmKeyExchange 1 9 [1, 2] {}) { link := .plain } { link := .secure 9 } = true ∧
    links (.spdmKeyExchange 1 8 [1, 2] {}) { link := .plain } { link := .plain } = true ∧ links (.spdmKeyExchange 1 9 [1, 3] {}) { link := .plain } { link := .plain } = true ∧
    links (.spdmKeyExchange 1 9 [1, 2] { ownListed := false }) { link := .plain } { link := .plain } = true ∧
    okWith (exec (.spdmKeyExchange 1 9 [1, 2] {}) (linkState { link := .plain })) (fun t => t.signing.index == 4) = true ∧
    okWith (exec (.spdmKeyExchange 1 9 [1, 2] {}) { linkState { link := .plain } with signing := { index := 2 ^ 60 } }) (fun t => (t.port 1).link == .plain) = true := by decide +kernel
/-- R310: derived data that a key update held does not leave on a link that has lost its session. -/
theorem test_session_end : okWith (exec .spdmSessionEnd (linkState { link := .secure 9, hold := true, peerDomains := [(2, 5, [])], out := [(3, { outPk 1 with d := true }), (4, outPk 2)] })) (fun t =>
    t.port 1 == { link := .plain } && t.sent == [{ port := 1, packet := outPk 2, time := 4 }]) = true := by decide +kernel
theorem test_domain_list : links (.domainList 1 [(2, 5, [7])]) { link := .secure 9, peerDomains := [(2, 4, [])] } { link := .secure 9, peerDomains := [(2, 5, [7])] } = true := by decide +kernel
theorem test_key_update : links .keyUpdate { link := .secure 9 } { link := .secure 9, hold := true } = true ∧
    okWith (exec .keyUpdate (linkState { link := .secure 9, hold := true, out := [(3, outPk 1)] })) (fun t => t.sent == [{ port := 1, packet := outPk 1, time := 3 }] && t.port 1 == { link := .secure 9 }) = true := by decide +kernel
theorem test_age : links .packetAgeDiscard { link := .plain, arrived := [(0, inPk 1), (1, inPk 2)] } { link := .plain, arrived := [(1, inPk 2)] } 1001 = true := by decide +kernel
theorem test_reserved : links .reservedPtypePacket { link := .plain, arrived := [(0, inPk 0), (1, inPk 2)] } { link := .plain, arrived := [(1, inPk 2)] } = true ∧
    links .reservedPtypePacket { link := .plain, arrived := [(0, inPk 0xD)] } { link := .plain } = true ∧ links .reservedPtypePacket { link := .plain, arrived := [(0, inPk 1)] } { link := .plain, arrived := [(0, inPk 1)] } = true := by decide +kernel
theorem witness_ports : (linkState {}).tdid = 9 ∧ (linkState {}).peerAllowed [1, 2] = true ∧ (linkState {}).peerAllowed [1, 3] = false := by decide +kernel

/-! ## The sequence and Serpent units -/

/-- Words at an address. -/
def putWords (m : List Host.Cell) (a : Nat) (ws : List Word) : List Host.Cell := writeBytes m a (ws.flatMap fun w => leBytes w.toNat 4)
/-- A grammar at address 0x1_0000: two states, two symbols, 2,048 tokens of two classes, of which token 5 alone has class 1. In state 0 with
symbol 0 a token of class 1 pushes symbol 1 and goes to state 1, which accepts (R363). Behind it, at 0x1_2000, a descriptor of R350. -/
def grammarMem : List Host.Cell :=
  let m := putWords [] 0x50000 [0x47524D52, 0x00010001, 2048, 0x00010000, 0, 0x100, 0x200, 0x1200, 0x1300]
  let m := putWords (putWords m 0x50104 [1]) 0x5020A [1]
  putWords (putWords m 0x51200 [0x01000001, 0x00010014]) 0x52000 [6, 0, 9, 7, 2, 3, 0x10000, 0]
/-- Access 7 of core 2, of context 0xC02, has the turn; slot 2 of partition 1 is `r`, and context 2 of the unit of cluster 0 is in state 0. -/
def genState (i : Instr) (vs : List Word) (r : SeqRec := { st := .opened, need := 4 }) (c : Core := {}) : State :=
  let s := rich (accState i vs c)
  { s with parts := [(1, { units := [0], first := 3, count := 1, nslot := 4, kvFree := [8, 9, 10, 11], prefixes := [(0, { key := 0, frames := [6], released := 3 })] })],
           slots := [(2, r)], hbm := grammarMem, serpents := [(2, { gaddr := 0x10000, stack := [0] })] }.onCore 2 fun c =>
    { c with accesses := c.accesses.map fun (x : Access) => { x with tag := slotTag, inst := slotTag } }
/-- What it gives when it is performed. -/
def genDoes (i : Instr) (vs : List Word) (r : SeqRec) (p : State → Bool) : Bool := okWith (exec .memAccessComplete (genState i vs r)) p
def g1 : ElemArgs := memArgs .n32 1
def opened2 : SeqRec := { st := .opened, need := 4 }
/-- Slot 2 with one frame at page 5, owned by queue 9. -/
def mapped2 : SeqRec := { st := .opened, need := 4, held := 1, pages := [(5, kvEntry false 9 77)] }

theorem test_seq_open : genDoes (.seqOpen g1) [0x2000] opened2 (fun t => sentVals t == [0] && (t.slot 0).need == 2 && (t.slot 0).next == 3 && (t.slot 0).gv && (t.slot 0).gctx == 0 &&
      (t.serpent? 0).map (·.stack) == some [0] && (t.part 1).unclaimed == 2) = true ∧
    genDoes (.seqOpen g1) [0x2001] opened2 (fun t => sentVals t == [0x0108A000]) = true := by decide +kernel
theorem test_seq_close : genDoes (.seqClose g1) [2] mapped2 (fun t => (t.slot 2).closing && (t.slot 2).ending == 5 && (t.slot 2).pages == [] && t.drains.map (·.pages) == [[5]] && sentVals t == []) = true ∧
    genDoes (.seqClose g1) [3] mapped2 (fun t => sentVals t == [0x0408A090]) = true := by decide +kernel
theorem test_commit_verdict : genDoes (.commit g1) [0x00010002] { opened2 with next := 5 } (fun t => (t.slot 2).verdicts.map (fun v => (v.iter, v.span, v.accepted)) == [(5, 2, 1)] && sentVals t == [0x00010002]) = true ∧
    genDoes (.commit g1) [0x00030002] { opened2 with next := 5 } (fun t => sentVals t == [0x1008A098]) = true ∧ genDoes (.commit g1) [0x00010002] { opened2 with next := 6 } (fun t => sentVals t == [0x1008A097]) = true := by decide +kernel
theorem test_kv_alloc : genDoes (.kvAlloc g1) [6] opened2 (fun t => (t.slot 2).held == 1 && Tab.find? (t.slot 2).pages 6 == some (kvEntry false 4 8) && (t.part 1).kvFree == [9, 10, 11] && sentVals t == [6]) = true ∧
    genDoes (.kvAlloc g1) [5] mapped2 (fun t => sentVals t == [0x0408A09B]) = true ∧ genDoes (.kvAlloc g1) [6] { opened2 with need := 0 } (fun t => sentVals t == [0x0408A09C]) = true := by decide +kernel
theorem test_kv_free : genDoes (.kvFree g1) [5] mapped2 (fun t => (t.slot 2).pages == [] && t.drains.map (·.freed) == [[(5, kvEntry false 9 77)]] && sentVals t == []) = true ∧
    genDoes (.kvFree g1) [6] mapped2 (fun t => sentVals t == [0x0408A09F]) = true := by decide +kernel
theorem test_kv_attach : genDoes (.kvAttach (memArgs .n32 2)) [5, 1] mapped2 (fun t => sentVals t == [0x0408A0A2]) = true ∧
    okWith (exec .memAccessComplete ((genState (.kvAttach (memArgs .n32 2)) [5, 1] mapped2).onLaunch 0 fun x => { x with cmd := { x.cmd with role := true } })) (fun t => t.drains.map (·.pages) == [[5]]) = true := by
  decide +kernel
/-- The key of the entry in the table is 0, which the words at 0x1_4000 hold. -/
theorem test_pfx_attach : genDoes (.pfxAttach (memArgs .n32 2)) [0x4000, 0] opened2 (fun t => sentVals t == [1] && (t.slot 2).pv && (t.slot 2).pages == [(0, kvEntry true 4 6)] && (t.part 1).prefixes.map (·.2.count) == [1]) = true ∧
    genDoes (.pfxAttach (memArgs .n32 2)) [0x2000, 0] opened2 (fun t => sentVals t == [0xFFFFFFFF]) = true ∧
    genDoes (.pfxAttach (memArgs .n32 2)) [0x2000, 0x80000001] { mapped2 with pages := [(0, kvEntry false 9 77)] } (fun t => sentVals t == [1] && (t.slot 2).pages == [(0, kvEntry true 9 77)] &&
      (t.part 1).prefixes.map (·.2.frames) == [[6], [77]]) = true := by decide +kernel
theorem test_pfx_evict : genDoes (.pfxEvict g1) [1] opened2 (fun t => sentVals t == [1] && (t.part 1).prefixes == [] && (t.part 1).kvFree == [8, 9, 10, 11, 6]) = true ∧
    genDoes (.pfxEvict g1) [0] opened2 (fun t => sentVals t == [0x0408A09A]) = true := by decide +kernel
theorem test_g_step : genDoes (.gStep (memArgs .n32 2)) [5, 2] opened2 (fun t => sentVals t == [0x8005] && (t.serpent? 2).map (fun c => (c.st, c.stack, c.journal.length)) == some (1, [1, 0], 1)) = true ∧
    genDoes (.gStep (memArgs .n32 2)) [4, 2] opened2 (fun t => sentVals t == [0x4002] && (t.serpent? 2).map (·.journal.length) == some 0) = true ∧
    genDoes (.gStep (memArgs .n32 2)) [4, 66] opened2 (fun t => sentVals t == [0x0408A093]) = true := by decide +kernel
theorem test_g_fork_roll : genDoes (.gFork g1) [2] opened2 (fun t => sentVals t == [0] && t.serpent? 0 == t.serpent? 2) = true ∧
    genDoes (.gRoll (memArgs .n32 2)) [2, 0x80000000] opened2 (fun t => sentVals t == [2] && t.serpents == []) = true := by decide +kernel
/-- The context with one step in its journal. -/
def stepped : Serpent := { gaddr := 0x10000, stack := [0], journal := [{ iter := 4, st := 0, stack := [0] }] }
theorem test_g_save_load : okWith (exec .memAccessComplete { genState (.gSave g1) [0x8000] { opened2 with gv := true, gctx := 2 } with serpents := [(2, stepped)] }) (fun t =>
      numberAt t.hbm 0x58000 4 == 0x47534156 && numberAt t.hbm 0x58008 4 == 4 && numberAt t.hbm 0x58010 8 == 0x10000 && sentVals t == [0x8000]) = true ∧
    genDoes (.gSave g1) [0x8000] opened2 (fun t => sentVals t == [0x0408A093]) = true ∧
    genDoes (.gLoad g1) [0x8000] { opened2 with gv := true, gctx := 2 } (fun t => sentVals t == [0x0408A099]) = true := by decide +kernel
theorem test_g_mask : okWith (exec .memAccessComplete (genState (.gMask g1) [0x03000002] opened2 (gtile .ready))) (fun t => sentVals t == [0x03000002]) = true ∧
    okWith (exec .memAccessComplete (genState (.gMask g1) [0x03000002] opened2 (gtile .empty))) (fun t => sentVals t == [0x0408A031]) = true := by decide +kernel
theorem witness_generation : (let s := genState (.seqOpen g1) [0x2000]
    Performs s 2 (accOf s) ∧ OnSlot s 2 (accOf s) 0 richLaunch 1 2 ∧ SlotOk s 1 2 false ∧ OwnContext s 2 2 { gaddr := 0x10000, stack := [0] } ∧
    (match s.checkSpot 2 0x2000 32 true false false with | (.ok sp, s1) => (match s1.readSpot 2 sp 32 with | (.ok _, s2) => (match s2.grammar 2 0x10000 with | (.ok _, _) => true | _ => false) | _ => false) | _ => false) = true ∧
    (match s.checkSpot 2 0x20000 32 true false false with | (.error _, _) => true | _ => false) = true) ∧
    SlotOk (genState (.seqClose g1) [2] { mapped2 with st := .ended }) 1 2 true ∧ iterNewer 6 (iterOf slotTag) = true ∧ (kvEntry true 4 6).toNat.testBit 62 = true := by decide +kernel

/-- Access 7 of core 2 has the turn; segment 0 is rank 9 of job 5, on package 8, which port 1 leads to (R286). -/
def remState (i : Instr) (vs : List Word) (e : List Epoch := []) : State :=
  let s := rich (accState i vs {})
  { s with board := { package := 1 }, epochs := e, ports := [(1, { link := .plain, peer := 8 })],
           jobs := [(5, { owner := 1, ranks := [(0, { package := 1, part := 1, ports := 2 }), (9, { package := 8, part := 2, ports := 2 })], own := some (0, 3) })] }.onPart 1 fun q =>
    { q with spillPages := 1, spillFrames := [9] }
def remEpoch (st : SendState) : Epoch := { core := 2, seg := 0, part := 1, hdr := { ptype := 2, job := 5, drank := 9, cid := 3, gen := 5 }, st := st }
def remDoes (i : Instr) (vs : List Word) (e : List Epoch) (p : State → Bool) : Bool := okWith (exec .memAccessComplete (remState i vs e)) p
theorem test_remote_unit : remDoes (.rld g1) [0x40] [] (fun t => sentTypes t == [8] && t.requests.length == 1 && (t.core 2).accesses.map (·.stage) == [.waiting]) = true ∧
    remDoes (.rcopen g1) [0] [] (fun t => sentTypes t == [2] && t.epochs.map (·.st) == [.opening]) = true ∧
    remDoes (.rst (memArgs .n32 2)) [0x40, 7] [remEpoch .opened] (fun t => t.sent.map (fun x => (x.packet.ptype, x.packet.seq, x.packet.data)) == [(1, 0, [7, 0, 0, 0])] && t.epochs.map (·.writes) == [1]) = true ∧
    remDoes (.rst (memArgs .n32 2)) [0x40, 7] [remEpoch .opening] (fun t => sentTypes t == [] && t.epochs.map (·.held) == [[(0, 7)]]) = true ∧
    remDoes (.rst (memArgs .n32 2)) [0x40, 7] [] (fun t => sentVals t == [0x0408A070]) = true := by decide +kernel
theorem test_remote_release : remDoes (.rrel g1) [0] [{ remEpoch .opened with writes := 2 }] (fun t => t.sent.map (fun x => (x.packet.ptype, x.packet.seq)) == [(4, 2)] && t.epochs.map (·.relAcc) == [some 7]) = true ∧
    remDoes (.rcopen g1) [0] [remEpoch .opened] (fun t => sentVals t == [0x0408A071]) = true ∧
    remDoes (.rred (memArgs .n32 2)) [0x40, 7] [remEpoch .failed] (fun t => sentVals t == [0x0D08A001]) = true := by decide +kernel
theorem witness_remote_unit : (let s := remState (.rat (memArgs .n32 2)) [0x40, 7]
    Performs s 2 (accOf s) ∧ (s.rankOf (s.remoteSeg 2 0x40).job (s.remoteSeg 2 0x40).rank).map (·.package) = some 8 ∧ s.coreLaunch 2 = some (0, richLaunch) ∧
    s.route 2 true = none ∧ (s.freeCid 1 9).isSome = true ∧ (s.poolTake 1 1).isSome = true) := by decide +kernel
/-- R410: the record of an `sdec` at 0x2_0000, whose session 0x1001 is open in domain 6, and the reply binding 3 of that session. -/
def sealedAcc (i : Instr) (vs : List Word) (len : Nat := 8) (seq : Nat := 1) : State :=
  let s := rich (accState i vs {}) true
  { s with hostMem := [(71, 0x80)], hbm := putWords [] 0x60000 [0x1001, BitVec.ofNat 32 len, BitVec.ofNat 32 seq, 0], sessions := [(1, { gen := 1, isOpen := true, part := 1, sdom := 6 })],
           cache := [(0xC00, { cls := 4, sdom := 6, part := 1, key := 0 }), (0xE00, { cls := 2, sdom := 6, part := 1, key := 0 })],
           walkers := [⟨3, 4, 0, 2 ^ 63⟩, ⟨3, 3, 0, 2 ^ 63⟩, ⟨3, 2, 0, 2 ^ 63⟩, ⟨3, 1, 0, 2 ^ 63⟩, ⟨3, 0, 0x40000, leaf 3 6 true true 0x90000 + 2 ^ 58⟩] }.onPart 1 fun q =>
    { q with rootHost := true, domains := [(6, { live := true })], bindings := [(3, { sdom := 6, sid := 0x1001, base := 0x40000, size := 65536, asid := 3, order := 0 })] }
theorem test_session_engine : okWith (exec .memAccessComplete (sealedAcc (.sdec (memArgs .n32 2)) [0x10000000, 0x20000000] 0)) (fun t => sentVals t == [0x0408A0B2]) = true ∧
    okWith (exec .memAccessComplete (sealedAcc (.sdec (memArgs .n32 2)) [0x10000000, 0x20000000] 8 0)) (fun t => sentVals t == [0x0408A0B3]) = true ∧
    okWith (exec .memAccessComplete (sealedAcc (.senc (memArgs .n32 2)) [0x20000000, 0x04000008])) (fun t => sentVals t == [0x0408A0B5]) = true := by decide +kernel
theorem witness_session_engine : (let s := sealedAcc (.sdec (memArgs .n32 2)) [0x10000000, 0x20000000]
    Performs s 2 (accOf s) ∧ (match s.checkRequest 2 0x10000000 64 with
      | (.ok p, s1) =>
        let hb := s1.readSpot 2 p 64
        let src := hb.2.checkRequest 2 0x10000040 8
        let dst := src.2.checkSpot 2 0x20000000 8 false true true
        hb.1.toOption.map (·.length) == some 64 && (hb.2.ownSession 2 0x1001).isSome && src.1.toOption.isSome && dst.1.toOption.isSome &&
          src.1.toOption.any fun p => (dst.2.readSpot 2 p 8).1.toOption.isSome
      | _ => false) = true) ∧
    (let s := sealedAcc (.senc (memArgs .n32 2)) [0x20000000, 0x03000008]
     Performs s 2 (accOf s) ∧ (s.ownBinding 2 3).isSome = true ∧ (s.session? 0x1001).isSome = true ∧
     (let src := s.checkSpot 2 0x20000000 8 true false false
      src.1.toOption.isSome && (s.ownBinding 2 3).any fun g => (src.2.replyPieces g.2 128).1.toOption.isSome) = true) := by decide +kernel
/-- An access on the page that may synchronise at 0x1_0000, and its word empty or full. -/
def pageAcc (i : Instr) (vs : List Word) (full : Bool := true) (host : Bool := false) : State :=
  let s := (rich (accState i vs {})).onCore 2 fun c => { c with tlb := [⟨3, 0, 0x10000, leaf 0 0 true true 0x50000 true + (if host then 2 ^ 58 else 0)⟩] }
  { s with hbm := [(0x50040, 5)], hostMem := [(0x50040, 6)], fullWords := if full then [0x14010] else [] }
theorem test_page_access : okWith (exec .memAccessComplete (pageAcc (.ldx g1) [0x40])) (fun t => sentVals t == [5]) = true ∧
    okWith (exec .memAccessComplete (pageAcc (.ldx g1) [0x40] true true)) (fun t => sentVals t == [6]) = true ∧
    okWith (exec .memAccessComplete (pageAcc (.stx (memArgs .n32 2)) [0x40, 7])) (fun t => t.hbm == [(0x50040, 7)]) = true ∧
    okWith (exec .memAccessComplete (pageAcc (.atom (memArgs .n32 2)) [0x40, 7])) (fun t => t.hbm == [(0x50040, 12)] && sentVals t == [5]) = true ∧
    okWith (exec .memAccessComplete (pageAcc (.atom (memArgs .n32 2 1)) [0x40, 7] true true)) (fun t => sentVals t == [0x0408A065]) = true := by decide +kernel
theorem test_page_sync : okWith (exec .memAccessComplete (pageAcc (.lds g1) [0x40] false)) (fun t => (t.core 2).accesses.map (·.stage) == [.waiting]) = true ∧
    okWith (exec .memAccessComplete (pageAcc (.iput (memArgs .n32 2)) [0x40, 7] false)) (fun t => t.hbm == [(0x50040, 7)] && t.wordFull 0x50040) = true ∧
    okWith (exec .memAccessComplete (pageAcc (.iput (memArgs .n32 2)) [0x40, 7])) (fun t => sentVals t == [0x0908A000] && t.hbm == [(0x50040, 5)]) = true ∧
    okWith (exec .memAccessComplete (pageAcc (.iget g1) [0x40] true true)) (fun t => sentVals t == [0x0408A060]) = true := by decide +kernel
theorem witness_pages : (let s := pageAcc (.iput (memArgs .n32 2)) [0x40, 7] false
    Performs s 2 (accOf s) ∧ (match s.checkSpot 2 0x40 4 false true false with
      | (.ok p, s1) => !p.loc && p.hasFull && (s1.piecesFault p.pieces true).isNone && (p.pieces.all fun q => !s.wordFull q.t.pa) | _ => false) = true) ∧
    (let s := pageAcc (.iget g1) [0x40] true true
     (match s.checkSpot 2 0x40 4 true false false with | (.ok p, _) => !p.loc && !p.hasFull && p.region == .hostMem | _ => false) = true) ∧
    (let s := rich (accState (.ldx g1) [0x20000040] {}) true
     Performs s 2 (accOf s) ∧ (match s.checkSpot 2 0x20000040 4 true false false with | (.ok p, _) => (p.pieces.any fun q => q.t.cls == 2) | _ => false) = true) := by decide +kernel

/-! ## More witnesses -/

/-- R250, R282: a ring object at byte 0x1000, of four slots of 256 bytes. -/
def ringAcc (i : Instr) (vs : List Word) (c : Core := ringCore) : State := accState i vs c
theorem test_ring_performed : okWith (exec .memAccessComplete (ringAcc (.ringInit (memArgs .n32 2)) [win 0x1000, 0x20000300] {})) (fun t => sentVals t == [win 0x1000] && Tab.find? (t.core 2).rings 2 == some 0xF0001000 &&
      numberAt (t.core 2).cells 0x1008 4 == 0x300 && !(t.core 2).scrFull (0x1100 / 4)) = true ∧
    okWith (exec .memAccessComplete (ringAcc (.relslot (memArgs .n32 1)) [0x20000000])) (fun t => sentVals t == [0x20000000] && numberAt (t.core 2).cells 0x1014 4 == 1 && !(t.core 2).scrFull (0x1100 / 4)) = true ∧
    okWith (exec .memAccessComplete (ringAcc (.relslot (memArgs .n32 1)) [0x20000001])) (fun t => sentVals t == [0x0408A068]) = true ∧
    okWith (exec .memAccessComplete (ringAcc (.relslot (memArgs .n32 1)) [0x30000000])) (fun t => sentVals t == [0x0408A069]) = true := by decide +kernel
theorem witness_rings : (let s := ringAcc (.ringInit (memArgs .n32 2)) [win 0x1000, 0x20000300] {}
    Performs s 2 (accOf s) ∧ (match s.checkRing 2 0xF0001000 0x20000300 false with
      | (.ok (_, n), s1) =>
        let p := s1.checkSpot 2 0xF0001000 32 false true false
        let q := p.2.checkSpot 2 0xF0001100 n false true false
        (p.1.toOption.any fun p => !q.2.ringBusy (p.ringKey 2)) && q.1.toOption.any fun q' => (q.2.emptyFault q').isNone
      | _ => false) = true) ∧
    (let s := ringAcc (.relslot (memArgs .n32 1)) [0x20000000]
     Performs s 2 (accOf s) ∧ (s.ringView 2 2).1.toOption.any (fun r => r.rptr == 0 && r.filled 0) = true ∧ (s.ringView 2 3).1.toOption.isNone = true) := by decide +kernel
/-- R118: the stream of register 4 lies in translated memory. -/
def memStream (pa : Nat) : State := { seqPage { aps := [(4, { boundAp .running 0 with descr := { base := pa, cnt0 := 1, src := 0, frame := 2, index := 3, tag := tag1 } })] } [(0x50100, 9)] with agent := .ap 0 4 }
theorem test_stream_memory : okWith (exec .streamEmit (memStream 0x10100)) (fun t => (t.core 1).transit.map (fun m => match m.msg with | .narrow x _ => (x.val, x.d, x.tag) | _ => (0, false, 0)) == [(9, false, tag1)]) = true ∧
    okWith (exec .streamEmit ((memStream 0x90100).onLaunch 0 fun x => { x with cmd := { x.cmd with kpol := true } })) (fun t => (t.core 1).transit.map (fun m => match m.msg with | .narrow x _ => x.val.toNat / 2 ^ 24 | _ => 0) == [3] && ((t.seq 0).ap 4).st == .bound) = true := by decide +kernel
theorem witness_stream_memory : (let s := memStream 0x10100
    let r := (s.seq 0).ap 4
    r.descr.src ≠ 1 ∧ r.lines = [] ∧ r.st = .running ∧ (match s.translateAll none (some 0) 3 (pageParts (r.descr.addr 0) 4) with
      | (some ps, s2) => ps.all fun p => p.t.r && p.t.cls == 0 && (linesTouched p.t.pa p.n).all fun i => (s2.physFault { p.t with pa := 128 * i } 128 false).isNone | _ => false) = true) ∧
    (let s := memStream 0x90100
     match s.streamMem 0 (s.launch 0) [] 0x90100 4 with | ((.bad c d, _), _) => c == 3 && d == 0 | _ => false) = true := by decide +kernel
/-- R191: a command waits for the register that it reads. -/
theorem test_register_waits : (let v : VArgs := { vt := .f32, d := 3, a := 1, b := 2, c := 20, mod := 0 }
    let s := nodeState 17 [.vadd v] { wReady := [(2, 5)] }
    goes (exec (.vadd v) s) s && goes (exec (.vtileWr 2 3 1) (nodeState 17 [.vtileWr 2 3 1] { wReady := [(2, 5)] } [] (vtileCore .ready))) (nodeState 17 [.vtileWr 2 3 1] { wReady := [(2, 5)] } [] (vtileCore .ready)) &&
    decide (s.now < Tab.get 0 (s.node 2 17).wReady 2) && decide (Tab.get 0 (s.node 2 17).wReady 1 ≤ s.now)) = true := by decide +kernel
/-- R216: row 4 of accumulator node 28 holds 1.0 in column 0. -/
def rowState (r : AccRow) : State := nodeState 28 [.accRel] { rows := [(4, { r with used := true, cnt := 1, tag := tag1, a := 2 ^ 64 :: List.replicate 127 0 })] }
theorem witness_releases : (let s := rowState {}
    (∃ r, Issues s 2 28 .acc r) ∧ ((rowAt s 2 28 4).poison = false ∧ (rowAt s 2 28 4).bad = false ∧ (rowAt s 2 28 4).fresh = false) ∧ s.coreLaunch 2 = some (0, s.launch 0)) ∧
    (rowAt (rowState { poison := true }) 2 28 4).poison = true ∧ (rowAt (rowState { bad := true }) 2 28 4).bad = true := by
  refine ⟨⟨⟨_, rfl, by decide, rfl, rfl, by decide, by decide, by decide +kernel⟩, by decide +kernel, by decide +kernel⟩, by decide +kernel, by decide +kernel⟩

/-! ## What every step keeps -/

def twoMemories : State := { hbm := [(3, 1), (8, 9)], cores := [(2, scr80)] }
theorem witness_canonical : MemoriesCanonical twoMemories ∧ okWith (Machine.step twoMemories) (fun _ => true) = true := by
  refine ⟨⟨?_, by simp [twoMemories]⟩, by decide +kernel⟩
  refine ⟨by decide, by decide, fun k => ?_⟩
  by_cases h : k = 2
  · subst h; decide
  · simp [twoMemories, State.core, Tab.get, show (2 == k) = false by simpa using Ne.symm h]; decide
def lastWord : State := (seqState (regs 1 2)).onSeq 0 fun q => { q with pc := 0xFFFC }
theorem witness_pcs : PcsLegal lastWord ∧ okWith (exec (.seqAdd 5 3 1 2) lastWord) (fun t => (t.seq 0).pc == 0xFFFC && (t.seq 0).mode == .stopped && (t.launch 0).failure.any (·.status == stBadSeq)) = true := by
  refine ⟨fun c => ?_, by decide +kernel⟩
  by_cases h : c = 0
  · subst h; decide
  · simp [lastWord, seqState, State.onSeq, State.seq, Tab.get, Tab.set, show (0 == c) = false by simpa using Ne.symm h]

end Sys2Proof.Tests
end

/-! PROOFS. Scalar arithmetic at a sequencer, and the interlock before it (R108, R110 to R113). -/

namespace Sys2Proof.Proofs.SequencerIssue

open Sys2Proof Machine Claims Laws

/-! ## The interlock (R112) -/

/-- When the result in a register is readable (R111). -/
abbrev readyOf (q : Seq) (x : BitVec 5) : Ready := Tab.get {} q.ready x.toNat

/-- The cycle from which every register that is read and that a producer of the given kind writes is readable. -/
def readyFrom (q : Seq) (reads : List (BitVec 5)) (fixed : Bool) : Nat :=
  (((reads.filter (· != 0)).map (readyOf q)).filter (·.fixed == fixed)).foldl (fun m r => max m r.from_) 0

theorem foldl_max_from_le (rs : List Ready) (m n : Nat) :
    rs.foldl (fun m r => max m r.from_) m ≤ n ↔ m ≤ n ∧ ∀ r ∈ rs, r.from_ ≤ n := by
  induction rs generalizing m with
  | nil => simp
  | cons r rs ih => simp [ih, and_assoc]

theorem readyFrom_le {q : Seq} {reads : List (BitVec 5)} {fixed : Bool} {n : Nat} :
    readyFrom q reads fixed ≤ n ↔
      ∀ x ∈ reads, x ≠ 0 → (readyOf q x).fixed = fixed → (readyOf q x).from_ ≤ n := by
  rw [readyFrom, foldl_max_from_le]
  simp only [List.mem_filter, List.mem_map, bne_iff_ne, beq_iff_eq, Nat.zero_le, true_and]
  exact ⟨fun h x hx h0 hk => h _ ⟨⟨x, ⟨hx, h0⟩, rfl⟩, hk⟩, fun h r ⟨⟨x, ⟨hx, h0⟩, hr⟩, hk⟩ => hr ▸ h x hx h0 (hr ▸ hk)⟩

theorem le_readyFrom {q : Seq} {reads : List (BitVec 5)} {x : BitVec 5} (hx : x ∈ reads) (h0 : x ≠ 0) :
    (readyOf q x).from_ ≤ readyFrom q reads (readyOf q x).fixed :=
  readyFrom_le.1 le_rfl x hx h0 rfl

/-- What the interlock answers once the stall time has passed. -/
theorem gate_eq {q : Seq} {now : Nat} (h : q.issueFrom ≤ now) (reads : List (BitVec 5)) :
    q.gate now reads =
      (decide (max q.issueFrom (readyFrom q reads true) ≤ now) && decide (readyFrom q reads false ≤ now),
       if q.issueFrom < readyFrom q reads true then
         { q with shortstall := q.shortstall + 1, issueFrom := readyFrom q reads true } else q) := by
  simp only [Seq.gate, if_neg (Nat.not_lt.2 h), readyFrom, beq_true, beq_false]
  split
  · next hlt => rw [max_eq_right hlt.le]
  · next hge => rw [max_eq_left (Nat.not_lt.1 hge)]

theorem gate_frame (q : Seq) (now : Nat) (reads : List (BitVec 5)) :
    (q.gate now reads).2 =
      { q with issueFrom := (q.gate now reads).2.issueFrom, shortstall := (q.gate now reads).2.shortstall } := by
  by_cases h : q.issueFrom ≤ now
  · rw [gate_eq h]; split <;> rfl
  · simp [Seq.gate, Nat.not_le.1 h]

theorem gate_lets_ready {q : Seq} {now : Nat} {reads : List (BitVec 5)} (h : q.issueFrom ≤ now)
    (hr : ∀ x ∈ reads, x ≠ 0 → (readyOf q x).from_ ≤ now) : (q.gate now reads).1 = true := by
  have hall (fixed : Bool) : readyFrom q reads fixed ≤ now := readyFrom_le.2 fun x hx h0 _ => hr x hx h0
  simp [gate_eq h, h, hall]

section Held

variable {q : Seq} {now : Nat} {reads : List (BitVec 5)} {x : BitVec 5}

theorem gate_holds (h : q.issueFrom ≤ now) (hx : x ∈ reads) (h0 : x ≠ 0) (hlate : now < (readyOf q x).from_) :
    (q.gate now reads).1 = false := by
  have hfrom := hlate.trans_le (le_readyFrom (q := q) hx h0)
  cases hk : (readyOf q x).fixed <;> rw [hk] at hfrom <;> simp [gate_eq h, hfrom]

theorem gate_counts_fixed (h : q.issueFrom ≤ now) (hx : x ∈ reads) (h0 : x ≠ 0) (hlate : now < (readyOf q x).from_)
    (hk : (readyOf q x).fixed = true) :
    (q.gate now reads).2.shortstall = q.shortstall + 1 ∧ now < (q.gate now reads).2.issueFrom := by
  have hfrom := hlate.trans_le (le_readyFrom (q := q) hx h0)
  rw [hk] at hfrom
  simp [gate_eq h, h.trans_lt hfrom, hfrom]

theorem gate_counts_no_other (h : q.issueFrom ≤ now)
    (hr : ∀ y ∈ reads, y ≠ 0 → (readyOf q y).fixed = true → (readyOf q y).from_ ≤ q.issueFrom) :
    (q.gate now reads).2.shortstall = q.shortstall := by
  simp [gate_eq h, Nat.not_lt.2 (readyFrom_le.2 hr)]

end Held

/-! ## Issue (R110) -/

section Issue

variable {s : State} {c : Nat} {l : Nat × Launch} {reads : List (BitVec 5)}

theorem issueFrom_le_of_runs (h : SeqRuns s c l) : (s.seq c).issueFrom ≤ s.now := by
  obtain ⟨-, -, -, -, -, hfrom⟩ := h
  exact hfrom

theorem seqIssue_runs (h : SeqRuns s c l) (reads : List (BitVec 5)) (act : State → Nat → State) :
    seqIssue s reads act =
      .next (if ((s.seq c).gate s.now reads).1 then act (gated s c reads) c else gated s c reads) := by
  obtain ⟨hagent, hc, hlaunch, hst, hmode, -⟩ := h
  simp [seqIssue, atSeq, hagent, hc, hlaunch, hst, hmode, gated]

theorem seqIssue_acts (h : SeqRuns s c l) (hr : RegsReady s c reads) (act : State → Nat → State) :
    seqIssue s reads act = .next (act (gated s c reads) c) := by
  have hgo : ((s.seq c).gate s.now reads).1 = true := gate_lets_ready (issueFrom_le_of_runs h) hr
  rw [seqIssue_runs h, if_pos hgo]

end Issue

/-! ## Updates of one sequencer -/

theorem onlySeq_onSeq (s : State) (c : Nat) (f : Seq → Seq) : OnlySeq s (s.onSeq c f) c := ⟨rfl, onSeq_seq_other s c f⟩

theorem tab_set_set {α : Type} (t : Tab α) (i : Nat) (x y : α) : Tab.set (Tab.set t i x) i y = Tab.set t i y := by
  induction t with
  | nil => simp [Tab.set]
  | cons p t ih =>
    obtain ⟨k, v⟩ := p
    by_cases h1 : i < k
    · simp [Tab.set, h1]
    · by_cases h2 : i = k
      · simp [Tab.set, h2]
      · simp [Tab.set, h1, h2, ih]

theorem onSeq_onSeq (s : State) (c : Nat) (f g : Seq → Seq) : (s.onSeq c f).onSeq c g = s.onSeq c fun q => g (f q) := by
  simp [State.onSeq, State.seq, tab_set_set]

/-! ## Registers (R108, R111) -/

section Registers

variable (q : Seq) (x y : BitVec 5) (v : DWord) (from_ : Nat) (fixed : Bool)

theorem reg_of_ne {q : Seq} {x : BitVec 5} (hx : x ≠ 0) : q.reg x = Tab.get 0 q.x x.toNat := if_neg (by simpa using hx)

theorem setReg_of_ne {x : BitVec 5} (hx : x ≠ 0) : q.setReg x v = { q with x := Tab.set q.x x.toNat v } := if_neg (by simpa using hx)

theorem setReady_of_ne {x : BitVec 5} (hx : x ≠ 0) :
    q.setReady x from_ fixed = { q with ready := Tab.set q.ready x.toNat { from_ := from_, fixed := fixed } } :=
  if_neg (by simpa using hx)

theorem setReg_reg : (q.setReg x v).reg y = if y ≠ 0 ∧ y = x then v else q.reg y := by
  by_cases hy : y = 0
  · subst hy; simp [Seq.reg]
  · by_cases hx : x = 0
    · subst hx; simp [Seq.setReg]
    · rw [setReg_of_ne q v hx, reg_of_ne hy, reg_of_ne hy, tab_get_set]
      simp only [BitVec.toNat_inj, ne_eq, hy, not_false_eq_true, true_and]

theorem setReg_setReady :
    (q.setReg x v).setReady x from_ fixed = { q with x := (q.setReg x v).x, ready := (q.setReady x from_ fixed).ready } := by
  unfold Seq.setReg Seq.setReady; split <;> rfl

end Registers

/-! ## Retiring in sequence (R110) -/

/-- A sequencer past its instruction: at `pc`, or at the next action of a generated program (R136). -/
def advanced (q : Seq) (pc : Nat) : Seq := if q.ranNative then { q with pc := pc } else { q with gen := q.gen.tail }

theorem seqGo_good {s : State} {c pc : Nat} (h : GoodPc (s.seq c) pc) : s.seqGo c pc = s.onSeq c (advanced · pc) := by
  cases hn : (s.seq c).ranNative with
  | false => simp [State.seqGo, State.onSeq, advanced, hn]
  | true =>
    have hok : pcOk pc = true := by
      obtain ⟨hword, -, hlt⟩ := h hn
      simp only [pcOk, Bool.and_eq_true, beq_iff_eq, decide_eq_true_eq]
      omega
    simp [State.seqGo, State.onSeq, advanced, hn, hok]

/-- A sequencer after an instruction of latency `lat` has written its result and retired in sequence. -/
def retired (q : Seq) (now stall : Nat) (xd : BitVec 5) (v : DWord) (lat : Nat) : Seq :=
  advanced { q with x := (q.setReg xd v).x, ready := (q.setReady xd (now + lat) true).ready, issueFrom := now + 1 + stall } (q.pc + 4)

theorem seqWrite_seqNext {s : State} {c : Nat} (stall : BitVec 3) (xd : BitVec 5) (v : DWord) (lat : Nat)
    (h : GoodPc (s.seq c) ((s.seq c).pc + 4)) :
    (s.seqWrite c xd v lat true).seqNext c stall = s.onSeq c fun q => retired q s.now stall.toNat xd v lat := by
  simp only [State.seqNext, State.seqStall, State.seqWrite, setReg_setReady, onSeq_onSeq, onSeq_seq]
  rw [seqGo_good (by rw [onSeq_seq]; exact h), onSeq_onSeq]
  rfl

section Retired

variable (q : Seq) (now stall : Nat) (xd y : BitVec 5) (v : DWord) (lat : Nat)

theorem advanced_x (pc : Nat) : (advanced q pc).x = q.x := by unfold advanced; split <;> rfl

theorem advanced_ready (pc : Nat) : (advanced q pc).ready = q.ready := by unfold advanced; split <;> rfl

theorem advanced_issueFrom (pc : Nat) : (advanced q pc).issueFrom = q.issueFrom := by unfold advanced; split <;> rfl

theorem retired_frame (q : Seq) (now stall : Nat) (xd : BitVec 5) (v : DWord) (lat : Nat) :
    let q' := retired q now stall xd v lat
    q' = { q with x := q'.x, pc := q'.pc, issueFrom := q'.issueFrom, ready := q'.ready, shortstall := q'.shortstall, gen := q'.gen } := by
  dsimp only [retired, advanced]
  split <;> rfl

theorem retired_reg : (retired q now stall xd v lat).reg y = if y ≠ 0 ∧ y = xd then v else q.reg y := by
  rw [← setReg_reg]
  simp only [Seq.reg, retired, advanced_x]

theorem retired_ready (h : xd ≠ 0) :
    Tab.get {} (retired q now stall xd v lat).ready xd.toNat = { from_ := now + lat, fixed := true } := by
  rw [retired, advanced_ready, setReady_of_ne _ _ _ h, tab_get_set_same]

theorem retired_place :
    let q' := retired q now stall xd v lat
    if q.ranNative then (q'.pc : Int) = q.pc + 4 ∧ q'.gen = q.gen else q'.pc = q.pc ∧ q'.gen = q.gen.tail := by
  dsimp only [retired, advanced]
  split <;> simp

end Retired

/-- An instruction that the interlock has let go retires: it writes its result and goes on in sequence. -/
theorem seqWrite_seqNext_retires {s : State} {c : Nat} (reads : List (BitVec 5)) (stall : BitVec 3) (xd : BitVec 5) (v : DWord) (lat : Nat)
    (h : GoodPc (s.seq c) ((s.seq c).pc + 4)) :
    let t := ((gated s c reads).seqWrite c xd v lat true).seqNext c stall
    Retires s t c stall.toNat ((s.seq c).pc + 4) xd v ∧ Readable s t c xd lat true := by
  obtain ⟨n, k, hg⟩ : ∃ n k, ((s.seq c).gate s.now reads).2 = { s.seq c with issueFrom := n, shortstall := k } :=
    ⟨_, _, gate_frame (s.seq c) s.now reads⟩
  have hgood : GoodPc ((gated s c reads).seq c) (((gated s c reads).seq c).pc + 4) := by
    rw [gated, onSeq_seq, hg]; exact h
  have hframe := retired_frame ((s.seq c).gate s.now reads).2 s.now stall.toNat xd v lat
  have hplace := retired_place ((s.seq c).gate s.now reads).2 s.now stall.toNat xd v lat
  rw [hg] at hframe hplace
  rw [seqWrite_seqNext stall xd v lat hgood, gated, onSeq_onSeq, hg]
  refine ⟨⟨onlySeq_onSeq s c _, ?_, ?_, ?_, ?_⟩, fun hxd => ?_⟩ <;> rw [onSeq_seq]
  · exact hframe
  · exact fun y => retired_reg ..
  · exact advanced_issueFrom ..
  · exact hplace
  · exact retired_ready _ _ _ _ _ _ hxd

/-! ## Scalar instructions (R113) -/

section Scalar

variable {s : State} {c : Nat} {l : Nat × Launch} (stall : BitVec 3) (xd : BitVec 5) {xa xb : BitVec 5}

theorem gated_reg (s : State) (c : Nat) (reads : List (BitVec 5)) (x : BitVec 5) : ((gated s c reads).seq c).reg x = (s.seq c).reg x := by
  rw [gated, onSeq_seq, gate_frame]; rfl

theorem seqR_retires (h : SeqRuns s c l) (hpc : GoodPc (s.seq c) ((s.seq c).pc + 4)) (hr : RegsReady s c [xa, xb]) (lat : Nat)
    (f : DWord → DWord → DWord) : NextWith (seqR s stall xd xa xb lat f) fun t =>
      Retires s t c stall.toNat ((s.seq c).pc + 4) xd (f ((s.seq c).reg xa) ((s.seq c).reg xb)) ∧ Readable s t c xd lat true := by
  refine ⟨_, seqIssue_acts h hr _, ?_⟩
  simp only [gated_reg]
  exact seqWrite_seqNext_retires _ stall xd _ lat hpc

theorem seqI_retires (h : SeqRuns s c l) (hpc : GoodPc (s.seq c) ((s.seq c).pc + 4)) (hr : RegsReady s c [xa]) (b : DWord)
    (f : DWord → DWord → DWord) : NextWith (seqI s stall xd xa b f) fun t =>
      Retires s t c stall.toNat ((s.seq c).pc + 4) xd (f ((s.seq c).reg xa) b) ∧ Readable s t c xd 1 true := by
  refine ⟨_, seqIssue_acts h hr _, ?_⟩
  simp only [gated_reg]
  exact seqWrite_seqNext_retires _ stall xd _ 1 hpc

theorem seqLui_retires (h : SeqRuns s c l) (hpc : GoodPc (s.seq c) ((s.seq c).pc + 4)) (imm : BitVec 17) :
    NextWith (execSeqLui stall xd imm s) fun t =>
      Retires s t c stall.toNat ((s.seq c).pc + 4) xd (sext64 imm * 4096) ∧ Readable s t c xd 1 true :=
  ⟨_, seqIssue_acts (reads := []) h (fun _ hx => absurd hx List.not_mem_nil) _, seqWrite_seqNext_retires _ stall xd _ 1 hpc⟩

end Scalar

/-! The operations of R113 on the values of 64-bit words. -/

section Operations

variable (a b : DWord)

theorem opShl_eq : opShl a b = BitVec.ofNat 64 (a.toNat * 2 ^ (b.toNat % 64)) := by
  apply BitVec.eq_of_toNat_eq
  simp [opShl, shAmt, Nat.shiftLeft_eq]

theorem opShr_eq : opShr a b = BitVec.ofNat 64 (a.toNat / 2 ^ (b.toNat % 64)) := by
  have hlt : a.toNat / 2 ^ (b.toNat % 64) < 2 ^ 64 := (Nat.div_le_self _ _).trans_lt a.isLt
  apply BitVec.eq_of_toNat_eq
  rw [BitVec.toNat_ofNat, Nat.mod_eq_of_lt hlt, opShr, BitVec.toNat_ushiftRight, Nat.shiftRight_eq_div_pow, shAmt]

theorem opSra_eq : opSra a b = BitVec.ofInt 64 (a.toInt / (2 ^ (b.toNat % 64) : Nat)) := by
  rw [← Int.shiftRight_eq_div_pow]; rfl

theorem opSlt_eq : opSlt a b = if a.toInt < b.toInt then 1 else 0 := by simp [opSlt, BitVec.slt]

theorem opSltu_eq : opSltu a b = if a.toNat < b.toNat then 1 else 0 := by simp [opSltu, BitVec.ult]

theorem sext64_mul_page (imm : BitVec 17) : sext64 imm * 4096 = BitVec.ofInt 64 (imm.toInt * 4096) := by
  rw [BitVec.ofInt_mul]; rfl

/-- A shift amount of 6 bits is the whole of B[5:0]. -/
theorem shiftAmount_toNat (sh : BitVec 6) : (sh.setWidth 64).toNat % 64 = sh.toNat := by
  rw [BitVec.toNat_setWidth]; omega

end Operations

/-- R113, for every register and immediate: each instruction computes one of the operations above and retires. -/
theorem sequencerArithmetic : SequencerArithmetic := by
  intro s c l stall xd xa xb h hpc
  refine ⟨fun hr => ?_, fun hr imm sh => ?_, fun imm => ?_⟩
  · simp only [← opShl_eq, ← opShr_eq, ← opSra_eq, ← opSlt_eq, ← opSltu_eq]
    have done := seqR_retires stall xd h hpc hr
    exact ⟨done 1 _, done 1 _, done 1 _, done 1 _, done 1 _, done 1 _, done 1 _, done 1 _, done 3 _, done 1 _, done 1 _⟩
  · have hsh := shiftAmount_toNat sh
    have done := seqI_retires stall xd h hpc hr
    rw [← hsh, ← opShl_eq]
    simp only [← opShr_eq, ← opSra_eq, ← opSlt_eq]
    exact ⟨done _ _, done _ _, done _ _, done _ _, done _ _, done _ _, done _ _, done _ _⟩
  · rw [← sext64_mul_page]
    exact seqLui_retires stall xd h hpc imm

/-! ## The instructions that the interlock holds (R112) -/

/-- An outcome is that of an instruction that issues behind the interlock on the registers that it reads. -/
def IssuesOn (s : State) (reads : List (BitVec 5)) (o : Out) : Prop := ∃ act, o = seqIssue s reads act

section Shapes

variable (s : State) (stall : BitVec 3) (xd xa xb : BitVec 5) (imm : BitVec 12)

theorem seqR_issues (lat : Nat) (f : DWord → DWord → DWord) : IssuesOn s [xa, xb] (seqR s stall xd xa xb lat f) := ⟨_, rfl⟩

theorem seqI_issues (b : DWord) (f : DWord → DWord → DWord) : IssuesOn s [xa] (seqI s stall xd xa b f) := ⟨_, rfl⟩

theorem seqBranch_issues (cond : DWord → DWord → Bool) : IssuesOn s [xa, xb] (seqBranch s stall xa xb imm cond) := ⟨_, rfl⟩

theorem seqSave_issues (n : Nat) : IssuesOn s [xa, xb] (seqSave s stall xa xb imm n) := ⟨_, rfl⟩

theorem seqLoad_issues (n : Nat) : IssuesOn s [xa] (seqLoad s stall xd xa imm n) := ⟨_, rfl⟩

theorem execSeqJalr_issues : IssuesOn s [xa] (execSeqJalr stall xd xa imm s) := ⟨_, rfl⟩

theorem execCwait_issues : IssuesOn s [xa, xb] (execCwait stall xa xb s) := ⟨_, rfl⟩

theorem execCosig_issues : IssuesOn s [xa, xb] (execCosig stall xa xb s) := ⟨_, rfl⟩

theorem execCosigAdd_issues : IssuesOn s [xa, xb] (execCosigAdd stall xa xb s) := ⟨_, rfl⟩

theorem execSbind_issues (ap : BitVec 4) (port : BitVec 6) : IssuesOn s [xa] (execSbind stall xa ap port s) := ⟨_, rfl⟩

theorem execSgo_issues (ap : BitVec 4) : IssuesOn s [xa] (execSgo stall xa ap s) := ⟨_, rfl⟩

theorem execBpush_issues : IssuesOn s [xa] (execBpush stall xa s) := ⟨_, rfl⟩

theorem execSwr_issues (num : BitVec 8) : IssuesOn s [xa] (execSwr stall xa num s) := ⟨_, rfl⟩

end Shapes

section Forms

variable (stall : BitVec 3) (xd xa xb : BitVec 5) (imm : BitVec 12) (sh : BitVec 6) (ap : BitVec 4) (port : BitVec 6) (num : BitVec 8)

/-- The instructions that read two registers. -/
def twoRegisterForms : List Instr :=
  [.seqAdd stall xd xa xb, .seqSub stall xd xa xb, .seqAnd stall xd xa xb, .seqOr stall xd xa xb, .seqXor stall xd xa xb,
   .seqShl stall xd xa xb, .seqShr stall xd xa xb, .seqSra stall xd xa xb, .seqMul stall xd xa xb, .seqSlt stall xd xa xb,
   .seqSltu stall xd xa xb, .seqBeq stall xa xb imm, .seqBne stall xa xb imm, .seqBlt stall xa xb imm, .seqBge stall xa xb imm,
   .seqBltu stall xa xb imm, .seqBgeu stall xa xb imm, .seqSd stall xa xb imm, .seqSw stall xa xb imm, .cwait stall xa xb,
   .cosig stall xa xb, .cosigAdd stall xa xb]

/-- The instructions that read one register. -/
def oneRegisterForms : List Instr :=
  [.seqAddi stall xd xa imm, .seqAndi stall xd xa imm, .seqOri stall xd xa imm, .seqXori stall xd xa imm, .seqShli stall xd xa sh,
   .seqShri stall xd xa sh, .seqSrai stall xd xa sh, .seqSlti stall xd xa imm, .seqJalr stall xd xa imm, .seqLd stall xd xa imm,
   .seqLw stall xd xa imm, .sbind stall xa ap port, .sgo stall xa ap, .bpush stall xa, .swr stall xa num]

theorem twoRegisterForms_issue (s : State) : ∀ i ∈ twoRegisterForms stall xd xa xb imm, IssuesOn s [xa, xb] (exec i s) := by
  simp only [twoRegisterForms, List.forall_mem_cons]
  have regs := seqR_issues s stall xd xa xb
  have branch := seqBranch_issues s stall xa xb imm
  have save := seqSave_issues s stall xa xb imm
  exact ⟨regs 1 _, regs 1 _, regs 1 _, regs 1 _, regs 1 _, regs 1 _, regs 1 _, regs 1 _, regs 3 _, regs 1 _, regs 1 _, branch _,
    branch _, branch _, branch fun a b => !a.slt b, branch _, branch fun a b => !a.ult b, save 8, save 4, execCwait_issues ..,
    execCosig_issues .., execCosigAdd_issues .., List.forall_mem_nil _⟩

theorem oneRegisterForms_issue (s : State) : ∀ i ∈ oneRegisterForms stall xd xa imm sh ap port num, IssuesOn s [xa] (exec i s) := by
  simp only [oneRegisterForms, List.forall_mem_cons]
  have imms := seqI_issues s stall xd xa
  have load := seqLoad_issues s stall xd xa imm
  exact ⟨imms _ _, imms _ _, imms _ _, imms _ _, imms _ _, imms _ _, imms _ _, imms _ _, execSeqJalr_issues .., load 8, load 4,
    execSbind_issues .., execSgo_issues .., execBpush_issues .., execSwr_issues .., List.forall_mem_nil _⟩

end Forms

/-- An instruction that reads a register whose result is not ready does not issue: only its cycle of issue and SEQ.SHORTSTALL may change. -/
theorem held_of_late {s : State} {c : Nat} {l : Nat × Launch} {i : Instr} {reads : List (BitVec 5)} {x : BitVec 5} (h : SeqRuns s c l)
    (hi : IssuesOn s reads (exec i s)) (hx : x ∈ reads) (h0 : x ≠ 0) (hlate : s.now < (readyOf (s.seq c) x).from_) :
    NextWith (exec i s) fun t => OnlySeq s t c ∧
      t.seq c = { s.seq c with issueFrom := (t.seq c).issueFrom, shortstall := (t.seq c).shortstall } ∧
      ((readyOf (s.seq c) x).fixed = true →
        (t.seq c).shortstall = (s.seq c).shortstall + 1 ∧ s.now < (t.seq c).issueFrom) ∧
      ((∀ y ∈ reads, y ≠ 0 → (readyOf (s.seq c) y).fixed = true →
          (readyOf (s.seq c) y).from_ ≤ (s.seq c).issueFrom) →
        (t.seq c).shortstall = (s.seq c).shortstall) := by
  obtain ⟨act, hexec⟩ := hi
  have hfrom := issueFrom_le_of_runs h
  have hheld : ((s.seq c).gate s.now reads).1 = false := gate_holds hfrom hx h0 hlate
  refine ⟨gated s c reads, by rw [hexec, seqIssue_runs h, hheld]; rfl, onlySeq_onSeq s c _, ?_⟩
  rw [gated, onSeq_seq]
  exact ⟨gate_frame .., gate_counts_fixed hfrom hx h0 hlate, gate_counts_no_other hfrom⟩

/-- R112: each form issues behind the interlock on the registers it names, `xa` among them. -/
theorem sequencerInterlock : SequencerInterlock := by
  intro s c l stall xd xa xb imm sh ap port num h h0 q held hlate
  have hold (i : Instr) (reads : List (BitVec 5)) (hi : IssuesOn s reads (exec i s)) (hx : xa ∈ reads)
      (hsub : reads ⊆ [xa, xb]) : held i := by
    obtain ⟨t, hexec, honly, hframe, hfixed, hvar⟩ := held_of_late h hi hx h0 hlate
    exact ⟨t, hexec, honly, hframe, hfixed, fun hy => hvar fun y hmem => hy y (hsub hmem)⟩
  refine ⟨fun p hp i hi => ?_, fun i hi => ?_⟩
  · have hissue := twoRegisterForms_issue stall xd p.1 p.2 imm s i hi
    simp only [List.mem_cons, List.not_mem_nil, or_false] at hp
    rcases hp with rfl | rfl
    · exact hold i _ hissue (by simp) (by simp)
    · exact hold i _ hissue (by simp) (by simp)
  · exact hold i _ (oneRegisterForms_issue stall xd xa imm sh ap port num s i hi) (by simp) (by simp)

/-- Settles O30: a hold changes nothing but the cycle of issue and SEQ.SHORTSTALL, and once every register read is ready the
instruction retires with its result in `xd`. -/
theorem sequencerIssueArithmetic : Obligations.SequencerIssueArithmetic := ⟨sequencerArithmetic, sequencerInterlock⟩

end Sys2Proof.Proofs.SequencerIssue

/-! PROOFS. What an element instruction emits, its operands, and their lanes (R46, R49, R53, R87, R157). -/

namespace Sys2Proof.Proofs.ElementLanes

open Sys2Proof Machine Claims Laws

/-! ## Lanes (R157) -/

theorem lanes_eq (w x : Nat) : lanes w x = (List.range (32 / w)).map (laneN w x) := by
  simp only [lanes, Nat.shiftRight_eq_div_pow]
  rfl

theorem zipWith_map_range {α β γ : Type} (f : α → β → γ) (g : Nat → α) (h : Nat → β) (n : Nat) :
    List.zipWith f ((List.range n).map g) ((List.range n).map h) = (List.range n).map fun j => f (g j) (h j) := by
  rw [List.zipWith_map, List.zipWith_self]

theorem ofLanes_lt (w : Nat) (ls : List Nat) : ofLanes w ls < 2 ^ (w * ls.length) := by
  induction ls with
  | nil => simp [ofLanes]
  | cons l ls ih =>
    have hl : l % 2 ^ w < 2 ^ w := Nat.mod_lt _ (Nat.two_pow_pos w)
    calc ofLanes w (l :: ls) < 2 ^ w + 2 ^ w * ofLanes w ls := Nat.add_lt_add_right hl _
      _ = 2 ^ w * (ofLanes w ls + 1) := by ring
      _ ≤ 2 ^ w * 2 ^ (w * ls.length) := Nat.mul_le_mul_left _ ih
      _ = 2 ^ (w * (l :: ls).length) := by rw [List.length_cons, ← Nat.pow_add]; ring_nf

theorem laneN_ofLanes (w : Nat) (ls : List Nat) (j : Nat) : laneN w (ofLanes w ls) j = ls.getD j 0 % 2 ^ w := by
  induction ls generalizing j with
  | nil => simp [ofLanes, laneN]
  | cons l ls ih =>
    have hl : l % 2 ^ w < 2 ^ w := Nat.mod_lt _ (Nat.two_pow_pos w)
    cases j with
    | zero => simp [ofLanes, laneN]
    | succ j =>
      have hdrop : ofLanes w (l :: ls) / 2 ^ w = ofLanes w ls := by
        rw [ofLanes, Nat.add_mul_div_left _ _ (Nat.two_pow_pos w), Nat.div_eq_of_lt hl, Nat.zero_add]
      rw [laneN, Nat.mul_succ, Nat.add_comm, Nat.pow_add, ← Nat.div_div_eq_div_mul, hdrop]
      exact ih j

theorem ofLanes_range (w n : Nat) (g : Nat → Nat) :
    ofLanes w ((List.range n).map g) = ((List.range n).map fun j => g j % 2 ^ w * 2 ^ (w * j)).sum := by
  induction n generalizing g with
  | zero => rfl
  | succ n ih =>
    simp only [List.range_succ_eq_map, List.map_cons, List.map_map, List.sum_cons, ofLanes, ih, Nat.mul_zero, pow_zero, mul_one,
      Function.comp_def, ← List.sum_map_mul_left]
    congr 3
    funext j
    rw [Nat.mul_succ, Nat.pow_add]; ring

/-- The word packed from lane results is the word that the model builds from any numbers congruent to them. -/
theorem ofLanes_eq_packed {w : Nat} {f : Nat → Nat} {g : Nat → Int} (h : ∀ j, ((f j : Nat) : Int) ≡ g j [ZMOD 2 ^ w]) :
    ofLanes w ((List.range (32 / w)).map f) = packed w g := by
  rw [ofLanes_range, packed]
  congr 2
  funext j
  have hj : ((f j : Nat) : Int) % ((2 ^ w : Nat) : Int) = g j % ((2 ^ w : Nat) : Int) := by exact_mod_cast h j
  rw [← hj, ← Int.natCast_mod, Int.toNat_natCast]

theorem packed_congr {w : Nat} {f g : Nat → Int} (h : ∀ j, j < 32 / w → f j ≡ g j [ZMOD 2 ^ w]) : packed w f = packed w g := by
  rw [packed, packed]
  congr 1
  refine List.map_congr_left fun j hj => ?_
  have hj : f j % ((2 ^ w : Nat) : Int) = g j % ((2 ^ w : Nat) : Int) := by exact_mod_cast h j (List.mem_range.1 hj)
  rw [hj]

theorem wrap_modEq (v : Int) (w : Nat) : ((wrap v w : Nat) : Int) ≡ v [ZMOD 2 ^ w] := by
  rw [wrap, Int.toNat_of_nonneg (Int.emod_nonneg _ (by positivity))]
  exact_mod_cast Int.mod_modEq v _

theorem signExt_eq_toInt (x n : Nat) : signExt x n = (BitVec.ofNat n x).toInt := by
  rw [BitVec.toInt_eq_toNat_cond, BitVec.toNat_ofNat, signExt]
  cases n with
  | zero => simp [Nat.mod_one]
  | succ n =>
    rw [Nat.add_sub_cancel, Nat.pow_succ]
    by_cases h : x % (2 ^ n * 2) < 2 ^ n
    · rw [if_pos h, if_pos (by omega)]
    · rw [if_neg h, if_neg (by omega)]

/-- How the lanes of each integer type are read (R80): the vocabulary's two functions are the model's pair. -/
theorem intLanes_eq {a : ElemArgs} (h : IntType a) : intLanes a.ty = (laneWidth a.ty, laneSigned a.ty) := by
  simp only [IntType, List.mem_cons, List.not_mem_nil, or_false] at h
  rcases h with h | h | h | h | h | h <;> rw [h] <;> rfl

theorem laneInts_eq {a : ElemArgs} (h : IntType a) (x : Nat) :
    laneInts a.ty x = (List.range (32 / laneWidth a.ty)).map (laneZ a.ty x) := by
  simp only [laneInts, intLanes_eq h, lanes_eq, List.map_map]
  refine List.map_congr_left fun j _ => ?_
  simp only [Function.comp_apply, laneZ, signExt_eq_toInt]

theorem ofLaneInts_eq {a : ElemArgs} (h : IntType a) (g : Nat → Int) :
    ofLaneInts a.ty ((List.range (32 / laneWidth a.ty)).map g) = packed (laneWidth a.ty) g := by
  simp only [ofLaneInts, intLanes_eq h, List.map_map]
  exact ofLanes_eq_packed fun j => wrap_modEq (g j) _

theorem int2_eq {a : ElemArgs} (h : IntType a) (f : Int → Int → Int) (x y : Nat) :
    int2 a.ty f x y = packed (laneWidth a.ty) fun j => f (laneZ a.ty x j) (laneZ a.ty y j) := by
  rw [int2, laneInts_eq h, laneInts_eq h, zipWith_map_range, ofLaneInts_eq h]

theorem lane2_eq {a : ElemArgs} (h : IntType a) (f : Nat → Nat → Nat → Nat) (x y : Nat) :
    lane2 a.ty f x y =
      packed (laneWidth a.ty) fun j => f (laneWidth a.ty) (laneN (laneWidth a.ty) x j) (laneN (laneWidth a.ty) y j) := by
  simp only [lane2, intLanes_eq h, lanes_eq, zipWith_map_range]
  exact ofLanes_eq_packed fun j => Int.ModEq.refl _

theorem laneN_packed {w j : Nat} (g : Nat → Int) (hj : j < 32 / w) : ((laneN w (packed w g) j : Nat) : Int) ≡ g j [ZMOD 2 ^ w] := by
  rw [← ofLanes_eq_packed (fun j => wrap_modEq (g j) w), laneN_ofLanes, List.getD_eq_getElem _ _ (by simpa using hj)]
  rw [List.getElem_map, List.getElem_range]
  push_cast
  exact (Int.mod_modEq _ _).trans (wrap_modEq _ _)

theorem laneZ_modEq_laneN (ty : ElemType) (x j : Nat) : laneZ ty x j ≡ laneN (laneWidth ty) x j [ZMOD 2 ^ laneWidth ty] := by
  rw [laneZ]
  split
  · rw [BitVec.toInt_ofNat']
    exact_mod_cast Int.bmod_emod
  · rfl

/-! ## Operands (R46, R87) -/

theorem quietLanes_lt {w x : Nat} (k : FFmt) (h : w * (32 / w) ≤ 32) : quietLanes k w x < 2 ^ 32 := by
  refine (ofLanes_lt w _).trans_le (Nat.pow_le_pow_right (by decide) ?_)
  simpa [lanes] using h

theorem wrap_lt (v : Int) (w : Nat) : wrap v w < 2 ^ w := by
  have h := Int.emod_lt_of_pos v (b := ((2 ^ w : Nat) : Int)) (by positivity)
  rw [wrap]; omega

theorem immOperand_lt (ty : ElemType) (imm : BitVec 16) (wide : Option (BitVec 16)) : immOperand ty imm.toNat wide < 2 ^ 32 := by
  have himm := imm.isLt
  have hwrap := wrap_lt (signExt imm.toNat 16) 32
  cases ty
  case f32 => exact quietLanes_lt _ (by decide)
  case bf16x2 => exact quietLanes_lt _ (by decide)
  case f16x2 => exact quietLanes_lt _ (by decide)
  all_goals cases wide with
    | some u => have hu := u.isLt; unfold immOperand; dsimp only; omega
    | none => unfold immOperand; dsimp only; omega

theorem operandsOf_val_lt (a : ElemArgs) (typed : Bool) (x : Fired) (i : Nat) : (operandsOf a typed x).val i < 2 ^ 32 := by
  have hpos : 0 < 2 ^ 32 := by decide
  rw [Opnds.val, List.getD_eq_getElem?_getD]
  cases hi : (operandsOf a typed x).vals[i]? with
  | none => exact hpos
  | some v =>
    obtain ⟨j, -, rfl⟩ := List.mem_map.1 (List.mem_of_getElem? hi)
    rw [Option.getD_some]
    split
    · exact immOperand_lt _ _ _
    · split
      · exact (Token.val _).isLt
      · exact hpos

/-! ## Firing (R49, R53, R54) -/

/-- An instruction whose whole effect is its result emits what the model's function gives; its operands are words. -/
theorem yields_of_issuePure {i : ElemArgs → Instr} {typed : Bool} {lat : Nat} {p : ElemArgs → Opnds → Prop}
    {y : ElemArgs → Opnds → Yield} (f : ElemArgs → Opnds → Yield)
    (hexec : ∀ a s, exec (i a) s = issuePure s a typed lat (f a))
    (hf : ∀ a o, p a o → (∀ j, o.val j < 2 ^ 32) → f a o = y a o) : Yields i typed lat p y := by
  intro a s k e x rest ⟨hagent, hk, he, hissue⟩ hF hp
  rw [hexec, issuePure, issueOp_fires a typed lat _ hagent hk he hissue hF, hf a _ hp (operandsOf_val_lt a typed x)]
  rfl

/-- Payloads are words: results congruent modulo 2^32 are the same result. -/
theorem value_congr {a : ElemArgs} {o : Opnds} {d : Bool} {v w : Nat} (h : BitVec.ofNat 32 v = BitVec.ofNat 32 w) :
    value a o v d = value a o w d := by
  simp only [value, h]

theorem gives_of_issueVal {i : ElemArgs → Instr} {typed : Bool} {lat : Nat} {p : ElemArgs → Prop} {v : ElemArgs → Opnds → Nat}
    (f : ElemArgs → Opnds → Nat) (hexec : ∀ a s, exec (i a) s = issueVal s a typed lat (f a))
    (hf : ∀ a o, p a → (∀ j, o.val j < 2 ^ 32) → BitVec.ofNat 32 (f a o) = BitVec.ofNat 32 (v a o)) : Gives i typed lat p v :=
  yields_of_issuePure (fun a o => yieldAll a o (f a o) o.dAll) hexec fun a o hp hlt => value_congr (hf a o hp hlt)

/-- An instruction passes the checks of its encoding only under an operation type of its row (R80, R88). -/
theorem ty_mem_of_wf {i : Instr} {opc : Nat} {a : ElemArgs} {r : ElemRow} (hp : elemParts i = some (opc, a))
    (hr : elemRow opc = some r) (h : i.wf = true) : a.ty ∈ r.types := by
  simp only [Instr.wf, hp, hr] at h
  by_contra hty
  simp [elemReject, hty] at h

end Sys2Proof.Proofs.ElementLanes

/-! PROOFS. The integer instructions of the elements (R161 to R167). -/

namespace Sys2Proof.Proofs.IntegerElements

open Sys2Proof Machine Claims Laws ElementLanes

/-! ## Lane arithmetic (R161, R162, R164) -/

theorem gives_of_int2 {i : ElemArgs → Instr} {lat : Nat} {g : ElemArgs → Int → Int → Int} (f : ElemArgs → Int → Int → Int)
    (hexec : ∀ a s, exec (i a) s = issueVal s a true lat fun o => int2 a.ty (f a) (o.val 0) (o.val 1))
    (hfg : ∀ a, IntType a → ∀ x y, f a x y = g a x y) : Gives i true lat IntType fun a => perLane2 a.ty (g a) := by
  refine gives_of_issueVal _ hexec fun a o hty _ => ?_
  rw [int2_eq hty, perLane2]
  simp only [hfg a hty]

theorem laneMin_le_laneMax (ty : ElemType) : laneMin ty ≤ laneMax ty := by
  cases ty <;> decide

theorem laneRange_eq {a : ElemArgs} (h : IntType a) : laneRange a.ty = (laneMin a.ty, laneMax a.ty) := by
  simp only [laneRange, intLanes_eq h, laneMin, laneMax]
  split <;> rfl

theorem sat_laneRange {a : ElemArgs} (h : IntType a) (v : Int) : sat v (laneRange a.ty).1 (laneRange a.ty).2 = clamp a.ty v := by
  have hle := laneMin_le_laneMax a.ty
  rw [laneRange_eq h, sat, clamp]
  dsimp only
  split
  · omega
  · split <;> omega

/-- The product is reduced to a lane before the addend joins it, which the result modulo the lane width does not show. -/
theorem mad_lanes {a : ElemArgs} (h : IntType a) (x y z : Nat) :
    int2 a.ty (· + ·) (int2 a.ty (· * ·) x y) z =
      packed (laneWidth a.ty) fun j => laneZ a.ty x j * laneZ a.ty y j + laneZ a.ty z j := by
  rw [int2_eq h, int2_eq h]
  exact packed_congr fun j hj => ((laneZ_modEq_laneN _ _ j).trans (laneN_packed _ hj)).add_right _

theorem intType_of_signed {a : ElemArgs} (h : SignedType a) : IntType a := by
  simp only [SignedType, IntType, List.mem_cons, List.not_mem_nil, or_false] at h ⊢
  tauto

theorem abs_lanes {a : ElemArgs} (h : IntType a) (x : Nat) :
    ofLaneInts a.ty ((laneInts a.ty x).map fun v => ((Int.natAbs v : Nat) : Int)) =
      packed (laneWidth a.ty) fun j => ((laneZ a.ty x j).natAbs : Int) := by
  rw [laneInts_eq h, List.map_map, ofLaneInts_eq h]
  rfl

/-- R53, R161, R162, R164. -/
theorem integerLaneArithmetic : IntegerLaneArithmetic := by
  refine ⟨?add, ?sub, ?addsat, ?subsat, ?mul, ?mulh, ?mad, ?min, ?max, ?abs⟩
  case add => exact gives_of_int2 (fun _ => (· + ·)) (fun _ _ => rfl) fun _ _ _ _ => rfl
  case sub => exact gives_of_int2 (fun _ => (· - ·)) (fun _ _ => rfl) fun _ _ _ _ => rfl
  case addsat =>
    exact gives_of_int2 (fun a x y => sat (x + y) (laneRange a.ty).1 (laneRange a.ty).2) (fun _ _ => rfl) fun _ h _ _ => sat_laneRange h _
  case subsat =>
    exact gives_of_int2 (fun a x y => sat (x - y) (laneRange a.ty).1 (laneRange a.ty).2) (fun _ _ => rfl) fun _ h _ _ => sat_laneRange h _
  case mul => exact gives_of_int2 (fun _ => (· * ·)) (fun _ _ => rfl) fun _ _ _ _ => rfl
  case mulh =>
    exact gives_of_int2 (fun a x y => x * y / (2 ^ (intLanes a.ty).1 : Nat)) (fun _ _ => rfl) fun _ h _ _ => by rw [intLanes_eq h]
  case mad =>
    exact gives_of_issueVal (fun a o => int2 a.ty (· + ·) (int2 a.ty (· * ·) (o.val 0) (o.val 1)) (o.val 2)) (fun _ _ => rfl)
      fun a o h _ => congrArg _ (mad_lanes h _ _ _)
  case min => exact gives_of_int2 (fun _ x y => if x ≤ y then x else y) (fun _ _ => rfl) fun _ _ x y => (Int.min_def x y).symm
  case max => exact gives_of_int2 (fun _ x y => if x ≤ y then y else x) (fun _ _ => rfl) fun _ _ x y => (Int.max_def x y).symm
  case abs =>
    exact gives_of_issueVal (fun a o => ofLaneInts a.ty ((laneInts a.ty (o.val 0)).map fun x => ((Int.natAbs x : Nat) : Int)))
      (fun _ _ => rfl) fun a o h _ => congrArg _ (abs_lanes (intType_of_signed h) _)

/-! ## Bits, shifts and comparisons (R161, R166) -/

theorem gives_of_shiftLanes {i : ElemArgs → Instr} {lat : Nat} {g : Nat → Nat → Nat → Int} (f : Nat → Nat → Nat → Nat)
    (hexec : ∀ a s, exec (i a) s = issueVal s a true lat fun o => shiftLanes a.ty f (o.val 0) (o.val 1))
    (hfg : ∀ w x n, ((f w x (n % w) : Nat) : Int) ≡ g w x n [ZMOD 2 ^ w]) :
    Gives i true lat IntType fun a => perLaneN a.ty g := by
  refine gives_of_issueVal _ hexec fun a o hty _ => congrArg _ ?_
  rw [shiftLanes, lane2_eq hty, perLaneN]
  exact packed_congr fun j _ => hfg _ _ _

theorem laneShl_modEq (w x n : Nat) : ((laneShl w x n : Nat) : Int) ≡ (x : Int) * (2 ^ n : Nat) [ZMOD 2 ^ w] := by
  rw [laneShl, Int.natCast_mul]

theorem laneShr_modEq (w x n : Nat) : ((laneShr w x n : Nat) : Int) ≡ (x : Int) / (2 ^ n : Nat) [ZMOD 2 ^ w] := by
  rw [laneShr, Int.natCast_div]

theorem laneSra_modEq (w x n : Nat) : ((laneSra w x n : Nat) : Int) ≡ (BitVec.ofNat w x).toInt / (2 ^ n : Nat) [ZMOD 2 ^ w] := by
  rw [laneSra, signExt_eq_toInt]
  exact wrap_modEq _ _

theorem ofNat_word_toNat (x : Word) : BitVec.ofNat 32 x.toNat = x := by rw [BitVec.ofNat_toNat, BitVec.setWidth_eq]

theorem rotl32_eq {x n : Nat} (hx : x < 2 ^ 32) (hn : n < 32) : rotl32 x n = ((BitVec.ofNat 32 x).rotateLeft n).toNat := by
  have hcarry : x / 2 ^ (32 - n) < 2 ^ n := by
    refine Nat.div_lt_of_lt_mul ?_
    rwa [← Nat.pow_add, Nat.sub_add_cancel hn.le]
  have hsmall : x / 2 ^ (32 - n) < 2 ^ 32 := (Nat.div_le_self _ _).trans_lt hx
  rw [BitVec.toNat_rotateLeft, BitVec.toNat_ofNat, Nat.mod_eq_of_lt hx, Nat.mod_eq_of_lt hn, Nat.shiftLeft_eq,
    Nat.shiftRight_eq_div_pow, rotl32, Nat.mul_comm x, Nat.two_pow_add_eq_or_of_lt hcarry, Nat.or_mod_two_pow,
    Nat.mod_eq_of_lt hsmall]

/-- The two readings of the COND codes (R81). -/
theorem intCond_eq_holds (cond : Nat) (x y : Int) : intCond cond x y = holds cond x y := by
  match cond with
  | 0 | 1 | 2 | 3 | 4 | _ + 5 => simp [intCond, holds, bne, beq_eq_decide]

theorem laneTruth_modEq (w : Nat) (b : Bool) : ((laneTruth w b : Nat) : Int) ≡ (if b then -1 else 0) [ZMOD 2 ^ w] := by
  cases b with
  | false => rfl
  | true =>
    rw [laneTruth, if_pos rfl, if_pos rfl, Nat.cast_sub Nat.one_le_two_pow]
    push_cast
    simp [Int.ModEq, Int.sub_emod_left]

theorem cmpLanes_eq {a : ElemArgs} (h : IntType a) (cond x y : Nat) :
    cmpLanes a.ty cond x y =
      packed (laneWidth a.ty) fun j => if holds cond (laneZ a.ty x j) (laneZ a.ty y j) then -1 else 0 := by
  simp only [cmpLanes, laneInts_eq h, intLanes_eq h, zipWith_map_range, ← intCond_eq_holds]
  exact ofLanes_eq_packed fun j => laneTruth_modEq _ _

/-- R161, R166. -/
theorem integerLaneBits : IntegerLaneBits := by
  refine ⟨?and, ?or, ?xor, ?andn, ?shl, ?shr, ?sra, ?rot, ?cmp, ?rotType⟩
  case and =>
    refine gives_of_issueVal (fun _ o => o.val 0 &&& o.val 1) (fun _ _ => rfl) fun a o _ _ => ?_
    rw [BitVec.ofNat_and, ofNat_word_toNat]
  case or =>
    refine gives_of_issueVal (fun _ o => o.val 0 ||| o.val 1) (fun _ _ => rfl) fun a o _ _ => ?_
    rw [BitVec.ofNat_or, ofNat_word_toNat]
  case xor =>
    refine gives_of_issueVal (fun _ o => o.val 0 ^^^ o.val 1) (fun _ _ => rfl) fun a o _ _ => ?_
    rw [BitVec.ofNat_xor, ofNat_word_toNat]
  case andn =>
    refine gives_of_issueVal (fun _ o => o.val 0 &&& (o.val 1 ^^^ 0xFFFFFFFF)) (fun _ _ => rfl) fun a o _ _ => ?_
    rw [BitVec.ofNat_and, BitVec.ofNat_xor, ofNat_word_toNat, ← BitVec.xor_allOnes]
    rfl
  case shl => exact gives_of_shiftLanes laneShl (fun _ _ => rfl) fun w x n => laneShl_modEq w x (n % w)
  case shr => exact gives_of_shiftLanes laneShr (fun _ _ => rfl) fun w x n => laneShr_modEq w x (n % w)
  case sra => exact gives_of_shiftLanes laneSra (fun _ _ => rfl) fun w x n => laneSra_modEq w x (n % w)
  case rot =>
    exact gives_of_issueVal (fun _ o => rotl32 (o.val 0) (o.val 1 % 32)) (fun _ _ => rfl)
      fun a o _ hlt => congrArg _ (rotl32_eq (hlt 0) (Nat.mod_lt _ (by decide)))
  case cmp =>
    exact gives_of_issueVal (fun a o => cmpLanes a.ty a.cond.toNat (o.val 0) (o.val 1)) (fun _ _ => rfl)
      fun a o h _ => congrArg _ (cmpLanes_eq h.1 _ _ _)
  case rotType => exact fun a h => ty_mem_of_wf rfl rfl h

/-- Settles O6, lane by lane: the model's lists of lanes and the packed words of the statement agree modulo the lane width. -/
theorem integerLanes : Obligations.IntegerLanes := ⟨integerLaneArithmetic, integerLaneBits⟩

/-! ## Counting, fields and addresses (R164, R165, R167) -/

theorem length_filter_le_range (m n : Nat) : ((List.range n).filter fun j => decide (m ≤ j)).length = n - m := by
  induction n with
  | zero => simp
  | succ n ih =>
    rw [List.range_succ, List.filter_append, List.length_append, ih]
    by_cases h : m ≤ n
    · rw [List.filter_cons_of_pos (by simpa using h)]; simp only [List.filter_nil, List.length_singleton]; omega
    · rw [List.filter_cons_of_neg (by simpa using h)]; simp only [List.filter_nil, List.length_nil]; omega

/-- The places of a number's leading zeros are those at or above which it has no bit. -/
theorem clz_eq_length (x n : Nat) : clz x n = ((List.range n).filter fun j => x / 2 ^ j == 0).length := by
  by_cases hx : x = 0
  · simp [clz, hx]
  · have hbit (j : Nat) : (x / 2 ^ j == 0) = decide (Nat.log2 x + 1 ≤ j) := by
      rw [beq_eq_decide, decide_eq_decide, Nat.div_eq_zero_iff_lt (Nat.two_pow_pos j), ← Nat.log2_lt hx, Nat.succ_le_iff]
    simp only [hbit, length_filter_le_range]
    rw [clz, if_neg (by simpa using hx), Nat.sub_sub, Nat.add_comm]

theorem popCount_eq_length (x n : Nat) : popCount x n = ((List.range n).filter fun j => x.testBit j).length := by
  induction n generalizing x with
  | zero => rfl
  | succ n ih =>
    have hrest : ((List.range n).map Nat.succ).filter (fun j => x.testBit j) =
        ((List.range n).filter fun j => (x / 2).testBit j).map Nat.succ := by
      rw [List.filter_map]; simp only [Function.comp_def, Nat.testBit_succ]
    rw [popCount, ih, List.range_succ_eq_map, List.filter_cons, hrest, Nat.testBit_zero]
    rcases Nat.mod_two_eq_zero_or_one x with h | h
    · simp [h]
    · simp [h, Nat.add_comm]

/-- Sign extension to a word (R164, R165). -/
theorem wrap_signExt (x n : Nat) : wrap (signExt x n) 32 = ((BitVec.ofNat n x).signExtend 32).toNat := by
  rw [signExt_eq_toInt, wrap, BitVec.signExtend, BitVec.toNat_ofInt]

theorem extend_eq {ty : ElemType} {cond : BitVec 3} (x : Nat) :
    extend ty cond.toNat x =
      (let n := if cond = 0 then 8 else 16
      if ty = .s32 then ((BitVec.ofNat n x).signExtend 32).toNat else x % 2 ^ n) := by
  have hcond : (cond.toNat == 0) = decide (cond = 0) := by
    rw [beq_eq_decide, decide_eq_decide]; exact BitVec.toNat_inj (y := 0)
  simp only [extend, hcond, wrap_signExt, beq_iff_eq, decide_eq_true_eq]

theorem signExt_mod (x n : Nat) : signExt (x % 2 ^ n) n = signExt x n := by
  rw [signExt, Nat.mod_mod]; rfl

theorem bitExtract_eq (ty : ElemType) (x y z : Nat) :
    bitExtract ty x y z =
      (let pos := y % 32
      let len := min (z % 64) (32 - pos)
      let f := BitVec.ofNat len (x / 2 ^ pos)
      if ty = .s32 then (f.signExtend 32).toNat else f.toNat) := by
  simp only [bitExtract]
  generalize min (z % 64) (32 - y % 32) = len
  rw [Nat.shiftRight_eq_div_pow]
  by_cases hlen : len = 0
  · subst hlen; simp [BitVec.of_length_zero]
  · simp only [beq_iff_eq, if_neg hlen, signExt_mod, wrap_signExt, BitVec.toNat_ofNat]

theorem lea_mod (x y z : Nat) : BitVec.ofNat 32 (x + y * 2 ^ z) = BitVec.ofNat 32 ((x + y * 2 ^ z) % 2 ^ 32) := by
  apply BitVec.eq_of_toNat_eq; simp

/-! `bfi` and `perm` place bits and bytes. -/

theorem setBits_eq {len : Nat} (pos x y : Nat) (hlen : len ≠ 0) :
    setBits x (pos + len - 1) pos y = 2 ^ pos * (2 ^ len * (x / 2 ^ (pos + len)) + y % 2 ^ len) + x % 2 ^ pos := by
  have hw : pos + len - 1 + 1 - pos = len := by omega
  have hx : x = 2 ^ pos * (2 ^ len * (x / 2 ^ pos / 2 ^ len)) + x % 2 ^ pos + x / 2 ^ pos % 2 ^ len * 2 ^ pos := by
    conv_lhs => rw [← Nat.div_add_mod x (2 ^ pos), ← Nat.div_add_mod (x / 2 ^ pos) (2 ^ len)]
    ring
  rw [setBits, bits, hw, Nat.shiftRight_eq_div_pow, Nat.pow_add, ← Nat.div_div_eq_div_mul, Nat.sub_eq_of_eq_add hx]
  ring

theorem testBit_setBits {len : Nat} (pos x y j : Nat) (hlen : len ≠ 0) :
    (setBits x (pos + len - 1) pos y).testBit j = if pos ≤ j ∧ j < pos + len then y.testBit (j - pos) else x.testBit j := by
  rw [setBits_eq _ _ _ hlen, Nat.testBit_two_pow_mul_add _ (Nat.mod_lt _ (Nat.two_pow_pos _)),
    Nat.testBit_two_pow_mul_add _ (Nat.mod_lt _ (Nat.two_pow_pos _)), Nat.testBit_mod_two_pow, Nat.testBit_mod_two_pow,
    Nat.testBit_div_two_pow]
  by_cases hlo : j < pos
  · rw [if_pos hlo, if_neg (by omega)]; simp [hlo]
  · rw [if_neg hlo]
    by_cases hhi : j < pos + len
    · rw [if_pos (by omega), if_pos ⟨by omega, hhi⟩]
      simp [show j - pos < len by omega]
    · rw [if_neg (by omega), if_neg (by omega)]
      congr 1; omega

theorem laneN_one (x j : Nat) : laneN 1 x j = (x.testBit j).toNat := by
  rw [laneN, Nat.one_mul, pow_one, Nat.testBit_eq_decide_div_mod_eq]
  rcases Nat.mod_two_eq_zero_or_one (x / 2 ^ j) with h | h <;> simp [h]

theorem testBit_packed_one {j : Nat} (g : Nat → Bool) (hj : j < 32) : (packed 1 fun i => ((g i).toNat : Int)).testBit j = g j := by
  have h := laneN_packed (w := 1) (fun i => ((g i).toNat : Int)) (by simpa using hj)
  rw [laneN_one] at h
  revert h
  cases g j <;> cases (packed 1 fun i => ((g i).toNat : Int)).testBit j <;> decide

theorem testBit_bitInsert (w x y z j : Nat) :
    (bitInsert w x y z).testBit j =
      if y % 32 ≤ j ∧ j < y % 32 + min (z % 64) (32 - y % 32) then x.testBit (j - y % 32) else w.testBit j := by
  simp only [bitInsert]
  generalize min (z % 64) (32 - y % 32) = len
  by_cases hlen : len = 0
  · subst hlen
    rw [if_pos (by rfl), if_neg (by omega)]
  · rw [if_neg (by simpa using hlen), testBit_setBits _ _ _ _ hlen]

theorem bitInsert_word (w x y z : Nat) :
    BitVec.ofNat 32 (bitInsert w x y z) = BitVec.ofNat 32 (
      let pos := y % 32
      let len := min (z % 64) (32 - pos)
      packed 1 fun j => if pos ≤ j ∧ j < pos + len then laneN 1 x (j - pos) else laneN 1 w j) := by
  have hpack : (packed 1 fun j =>
      if y % 32 ≤ j ∧ j < y % 32 + min (z % 64) (32 - y % 32) then laneN 1 x (j - y % 32) else laneN 1 w j) =
      packed 1 fun j => ((bitInsert w x y z).testBit j).toNat := by
    congr 1; funext j
    rw [testBit_bitInsert, laneN_one, laneN_one]
    split <;> rfl
  dsimp only
  rw [hpack]
  refine BitVec.eq_of_getLsbD_eq fun j hj => ?_
  rw [BitVec.getLsbD_ofNat, BitVec.getLsbD_ofNat, testBit_packed_one _ hj]

theorem bits_eq_laneN (x w j : Nat) (hw : 0 < w) : bits x (w * j + (w - 1)) (w * j) = laneN w x j := by
  rw [bits, laneN, Nat.shiftRight_eq_div_pow]
  congr 2; omega

theorem bit_msb_of_byte (x j : Nat) : bit x (8 * j + 7) = decide (128 ≤ laneN 8 x j) := by
  rw [bit, laneN, Nat.shiftRight_eq_div_pow, Nat.pow_add, ← Nat.div_div_eq_div_mul]
  rw [beq_eq_decide, decide_eq_decide]
  omega

theorem permByte_eq (x s : Nat) :
    permByte x s =
      if s < 4 then laneN 8 x s else if s < 8 then 0
      else if s < 12 then (if 128 ≤ laneN 8 x (s - 8) then 0xFF else 0) else 0xFF := by
  have hbyte : bits x (8 * s + 7) (8 * s) = laneN 8 x s := bits_eq_laneN x 8 s (by decide)
  simp only [permByte, hbyte, bit_msb_of_byte, decide_eq_true_eq]

theorem permute_eq (x y : Nat) :
    permute x y = packed 8 fun j =>
      let sel := laneN 4 y j
      if sel < 4 then laneN 8 x sel
      else if sel < 8 then 0
      else if sel < 12 then (if 128 ≤ laneN 8 x (sel - 8) then 0xFF else 0)
      else 0xFF := by
  refine ofLanes_eq_packed (w := 8) fun j => ?_
  have hsel : bits y (4 * j + 3) (4 * j) = laneN 4 y j := bits_eq_laneN y 4 j (by decide)
  rw [hsel, permByte_eq]
  push_cast
  rfl

/-- Settles O7: each of the model's word functions is the one of its rule, modulo 2^32 for `lea` and `bfi`. -/
theorem integerWordInstructions : Obligations.IntegerWordInstructions := by
  refine ⟨?const, ?clz, ?popc, ?ext, ?bfx, ?bfi, ?lea, ?perm⟩
  case const => exact gives_of_issueVal (fun a _ => immValue a true) (fun _ _ => rfl) fun _ _ _ _ => rfl
  case clz =>
    exact gives_of_issueVal (fun _ o => clz (o.val 0) 32) (fun _ _ => rfl) fun a o _ _ => congrArg _ (clz_eq_length _ _)
  case popc =>
    exact gives_of_issueVal (fun _ o => popCount (o.val 0) 32) (fun _ _ => rfl) fun a o _ _ => congrArg _ (popCount_eq_length _ _)
  case ext =>
    exact gives_of_issueVal (fun a o => extend a.ty a.cond.toNat (o.val 0)) (fun _ _ => rfl)
      fun a o _ _ => congrArg _ (extend_eq _)
  case bfx =>
    exact gives_of_issueVal (fun a o => bitExtract a.ty (o.val 0) (o.val 1) (o.val 2)) (fun _ _ => rfl)
      fun a o _ _ => congrArg _ (bitExtract_eq _ _ _ _)
  case bfi =>
    exact gives_of_issueVal (fun _ o => bitInsert (o.val 0) (o.val 1) (o.val 2) (o.val 3)) (fun _ _ => rfl)
      fun a o _ _ => bitInsert_word _ _ _ _
  case lea =>
    exact gives_of_issueVal (fun _ o => o.val 0 + o.val 1 * 2 ^ (o.val 2 % 32)) (fun _ _ => rfl) fun a o _ _ => lea_mod _ _ _
  case perm =>
    exact gives_of_issueVal (fun _ o => permute (o.val 0) (o.val 1)) (fun _ _ => rfl) fun a o _ _ => congrArg _ (permute_eq _ _)

/-! ## Division (R163) -/

theorem laneN_word {x : Nat} (hx : x < 2 ^ 32) : laneN 32 x 0 = x := by
  rw [laneN, Nat.mul_zero, pow_zero, Nat.div_one, Nat.mod_eq_of_lt hx]

theorem laneZ_n32 {x : Nat} (hx : x < 2 ^ 32) : laneZ .n32 x 0 = x :=
  congrArg Nat.cast (laneN_word hx)

theorem laneZ_s32 {x : Nat} (hx : x < 2 ^ 32) : laneZ .s32 x 0 = signExt x 32 := by
  rw [signExt_eq_toInt]
  exact congrArg (fun v => (BitVec.ofNat 32 v).toInt) (laneN_word hx)

/-- Both types divide the numbers that the operands stand for, rounding toward zero. -/
theorem divide_eq {a : ElemArgs} (h : Int32Type a) {x y : Nat} (hx : x < 2 ^ 32) (hy : y < 2 ^ 32) :
    divide a.ty x y = ((laneZ a.ty x 0).tdiv (laneZ a.ty y 0), (laneZ a.ty x 0).tmod (laneZ a.ty y 0)) := by
  simp only [Int32Type, List.mem_cons, List.not_mem_nil, or_false] at h
  rcases h with h | h <;> rw [h]
  · rw [laneZ_s32 hx, laneZ_s32 hy]; rfl
  · rw [laneZ_n32 hx, laneZ_n32 hy, ← Int.ofNat_tdiv, ← Int.ofNat_tmod]; rfl

theorem laneZ_word_ne_zero {a : ElemArgs} (h : Int32Type a) {x : Nat} (hx : x < 2 ^ 32) (h0 : x ≠ 0) : laneZ a.ty x 0 ≠ 0 := by
  simp only [Int32Type, List.mem_cons, List.not_mem_nil, or_false] at h
  rcases h with h | h <;> rw [h]
  · rw [laneZ_s32 hx, signExt]
    split <;> omega
  · rw [laneZ_n32 hx]
    exact_mod_cast h0

theorem tmod_nonpos {x : Int} (y : Int) (h : x ≤ 0) : x.tmod y ≤ 0 := by
  have := Int.tmod_nonneg y (Int.neg_nonneg_of_nonpos h)
  rw [Int.neg_tmod] at this
  omega

theorem packed_word (v : Int) : packed 32 (fun _ => v) = wrap v 32 := by
  simp [packed, wrap]

/-- `div` and `rem` give one part of the pair, unless the divisor is zero. -/
theorem yields_part {i : ElemArgs → Instr} (part : Int × Int → Int)
    (hexec : ∀ a s, exec (i a) s = issuePure s a true 4 fun o => if o.val 1 == 0 then .fault fcArith 0x10
      else yieldAll a o (wrap (part (divide a.ty (o.val 0) (o.val 1))) 32) o.dAll) :
    Yields i true 4 (fun a o => Int32Type a ∧ o.val 1 ≠ 0) (fun a o => value a o (packed 32 fun _ =>
      part ((laneZ a.ty (o.val 0) 0).tdiv (laneZ a.ty (o.val 1) 0), (laneZ a.ty (o.val 0) 0).tmod (laneZ a.ty (o.val 1) 0))) o.dAll) := by
  refine yields_of_issuePure _ hexec fun a o ⟨hty, h0⟩ hlt => ?_
  rw [if_neg (by simpa using h0), divide_eq hty (hlt 0) (hlt 1), packed_word]
  rfl

theorem yields_zero_divisor {i : ElemArgs → Instr} (f : ElemArgs → Opnds → Yield)
    (hexec : ∀ a s, exec (i a) s = issuePure s a true 4 fun o => if o.val 1 == 0 then .fault fcArith 0x10 else f a o) :
    Yields i true 4 (fun a o => Int32Type a ∧ o.val 1 = 0) fun _ _ => .fault 0x10 0x10 := by
  refine yields_of_issuePure _ hexec fun a o ⟨_, h0⟩ _ => ?_
  rw [if_pos (by simpa using h0)]
  rfl

/-- Settles O8: quotient and remainder are `Int.tdiv` and `Int.tmod` of the numbers that the operands stand for. -/
theorem division : Obligations.Division := by
  refine ⟨fun a o hty hx hy h0 => ?quotient, ?divZero, ?remZero, ?types⟩
  case quotient =>
    have hd : laneZ a.ty (o.val 1) 0 ≠ 0 := laneZ_word_ne_zero hty hy h0
    refine ⟨_, _, (Int.mul_tdiv_add_tmod _ _).symm, ?_, fun h => Int.tmod_nonneg _ h, fun h => tmod_nonpos _ h, ?_⟩
    · rw [Int.natAbs_tmod]
      exact Nat.mod_lt _ (Int.natAbs_pos.2 hd)
    · rintro s k e x rest hfires rfl hF
      exact ⟨yields_part Prod.fst (fun _ _ => rfl) a s k e x rest hfires hF ⟨hty, h0⟩,
        yields_part Prod.snd (fun _ _ => rfl) a s k e x rest hfires hF ⟨hty, h0⟩⟩
  case divZero => exact yields_zero_divisor (fun a o => yieldAll a o (wrap (divide a.ty (o.val 0) (o.val 1)).1 32) o.dAll) fun _ _ => rfl
  case remZero => exact yields_zero_divisor (fun a o => yieldAll a o (wrap (divide a.ty (o.val 0) (o.val 1)).2 32) o.dAll) fun _ _ => rfl
  case types =>
    rintro a (h | h)
    · exact ty_mem_of_wf rfl rfl h
    · exact ty_mem_of_wf rfl rfl h

end Sys2Proof.Proofs.IntegerElements
